-- ==== Sys2Proof/Word.lean ====
section
/-!
DEFINITION. Word.lean: the word types of the CX960 model and the sparse table type.
Registers are 32 bits wide (R30), memory is counted in bytes, the timebase has 64 bits (R12).
-/
namespace Sys2Proof

/-- A memory byte. -/
abbrev Byte := BitVec 8

/-- A register of BAR0 (R30: 32 bits wide). -/
abbrev Word := BitVec 32

/-- A sparse table: the entries that differ from the table's default, by rising key. -/
abbrev Tbl (α : Type) := List (Nat × α)

end Sys2Proof
end

