-- ==== Sys2Proof/Syntax.lean ====
section
/-!
DEFINITION. Syntax.lean: the commands of the CX960, one constructor per row of spec/opcode_table.json.
A command is a register or bus access, an operation of a command port, a descriptor a core issues, or an
occurrence inside the module or at a pin that the spec gives an effect. Facts the module cannot compute from
its own state (a packet's contents, a sensor's reading, a signature's verdict) are operands (log 10).
-/
namespace Sys2Proof

/-- The master of a register access (R33, Table 02-3; the codes of ACC_LAST.MASTER, R50). -/
inductive Master where
  | secure   -- 0: the security block
  | host     -- 1: the host kernel driver, privileged
  | mgmt     -- 2: the tray controller's management path, privileged
  | user     -- 3: a compute context other than 0
  | fw       -- 4: firmware, as ctx 0, privileged
  deriving DecidableEq, Repr

/-- An upset of one of the three copies of a voted register (R42): the outside's fact. -/
structure Upset where
  ofs : Nat      -- register offset in its page
  copy : Nat     -- copy 0, 1 or 2
  mask : Word    -- bits turned over
  deriving DecidableEq, Repr

/-- One crossing request a fence cuts (R499): the outside's view of what was still open. -/
structure CutFact where
  reads : Nat    -- reads still open
  writes : Nat   -- writes still open
  ctxs : List Nat -- contexts of the open reads
  deriving DecidableEq, Repr

/-- A function of READY_MAP: the management block, or one with a page. -/
inductive Fn where
  | mgmt
  | page (p : Nat)
  deriving DecidableEq, Repr

/-- What a function's initialisation found (log 10). -/
structure ReadyFact where
  full : Bool           -- a memory quad was trained in full (R424)
  eyes : List Word      -- its MC_EYE values by channel and lane, from a full training
  width : Nat           -- lanes and speed of the PCIe link when it trained
  speed : Nat
  hold : List Nat       -- power domains whose inrush the effective cap does not allow yet (R62)
  deriving DecidableEq, Repr

/-- What the boot found besides the flash contents (log 10): the PUF rebuild passed its check, the flash refuses
authenticated counter reads, FLASH_WP_N is low. -/
structure BootFact where
  pufOk : Bool
  ctrRefused : Bool
  wpLow : Bool
  deriving DecidableEq, Repr

/-- A command that is held (R68). -/
inductive HeldAt where
  | port (k : Nat)               -- the head of a command port's queue
  | doorbell (n : Nat)           -- a context's oldest held doorbell
  | dma (n lc addr : Nat)        -- a DMA whose memory is not ready
  deriving DecidableEq, Repr

/-- What a message or update says of the timebase, as the servo reads it (log 10). -/
structure TbFact where
  port : Nat            -- logical port of a PTP message
  domain : Nat          -- its domain number
  sync : Bool           -- it is a Sync message
  offset : Option Int   -- measured offset, master minus timebase, in ticks
  freq : Int            -- frequency correction that the servo asks for, parts per 10^12
  leap : Option Nat     -- leap seconds it carries
  deriving DecidableEq, Repr

/-- Whom a failed firmware check concerns (R493). -/
inductive FwSubj where
  | batch (b : Nat)
  | job (j : Nat)
  | set (n : Nat)
  | stm (n : Nat)
  | none
  deriving DecidableEq, Repr


/-- A received Ethernet frame (R82) with what standards outside the spec decide (log 10): whether the FCS and, under
the key that R92 selects, the SRTP tag verify, and the payload that decryption gives. -/
structure Packet where
  lport : Nat           -- logical port 0-7
  frame : List Byte     -- from the destination MAC address to the end of the frame, without the FCS
  fcsOk : Bool
  authA : Bool          -- the tag verifies under KEY_A
  authB : Bool          -- the tag verifies under KEY_B
  plainA : List Byte    -- RTP payload after decryption under KEY_A, padding not removed
  plainB : List Byte
  latency : Nat         -- fixed latency of the mode and PMD, ticks (R99)
  deriving DecidableEq, Repr

/-- What a decoder parses from the head of an access unit at grant (R116, R120, R128, R131): facts of the
bitstream under the codec standards (log 10). -/
structure AuHdr where
  rap : Bool            -- random access point (R116)
  idr : Bool            -- empties the DPB under its codec's rules (R129)
  parses : Bool         -- a picture header parses (R128)
  isRef : Bool          -- reference picture (R120)
  shown : Bool          -- passed on: pic_output_flag or show_frame (R121)
  existing : Option Nat -- AV1 show_existing_frame: FRAME_NO of the stored picture
  rasl : Bool           -- RASL picture of the CRA at which decoding starts
  ftype : Nat           -- FRAME_TYPE of Table 05-8
  refresh : Bool        -- REFRESH of Table 05-8
  codedW : Nat
  codedH : Nat
  depth : Nat
  dpbSize : Nat         -- declared DPB size, or distinct AV1 slots
  dispW : Nat           -- displayed size after cropping
  dispH : Nat
  unsupported : Bool    -- Table 05-2
  paramDamage : Bool    -- a parameter set with a syntax violation came with it
  newParams : Bool      -- activates a parameter set
  missing : Nat         -- references missing, first named by this frame (R129)
  refs : List Nat       -- FRAME_NOs of the DPB pictures it reads
  keep : List Nat       -- FRAME_NOs that stay in the DPB after its reference marking
  reorder : Nat         -- reorder depth of the active parameter set (R360)
  deriving DecidableEq, Repr

/-- What decoding yields for one 16 × 16 luma block of the displayed area (Table 05-9), before concealment. -/
structure MapBlk where
  re : Nat              -- RE_SUM
  mv : Nat              -- MV_MAG
  intra : Bool
  skip : Bool
  refs : List Nat       -- FRAME_NOs of the pictures that its prediction units read
  subst : Bool          -- prediction reads the mid-grey substitute
  deriving DecidableEq, Repr

/-- What decoding a frame yields (R110, R124, R128, R132): facts of the bitstream (log 10). -/
structure DecFact where
  y : List Nat          -- luma samples of the coded picture, row-major
  cb : List Nat         -- chroma samples as coded
  cr : List Nat
  chroma : Nat          -- 0 monochrome, 1 4:2:0, 2 4:2:2, 3 4:4:4
  blocks : List MapBlk  -- one per map entry, row-major
  damaged : List (Nat × Nat) -- luma rows [a, b) of the coded picture that are not decoded
  syntaxBad : Nat       -- syntax violations
  suppressed : Nat      -- writes outside the window (R126)
  cycles : Nat          -- CLK_DEC cycles spent
  deriving DecidableEq, Repr

/-- A read and a write of one scratchpad row in one cycle, with the write made by the command's unit (R284). -/
structure Hz where
  core : Nat                   -- core and row of the scratchpad
  row : Nat
  rctx : Nat                   -- reader: context, logical core and handle number, 64 none
  rlc : Nat
  rh : Nat
  wh : Nat                     -- handle number of the write, 64 none
  deriving DecidableEq, Repr

/-- What befell a unit's work besides what the descriptor states. -/
structure ExecFact where
  past : Bool                  -- it ran past its MAX_CYC (R226)
  par : Bool                   -- a scratchpad row read had a parity error (R273)
  errs : List (Nat × Nat × Nat) -- hardware errors: (row, DPU or column, bits inverted) (R179, R183)
  hz : List Hz
  deriving DecidableEq, Repr


/-- Geometry of a window program's call (R267): scalars of its ARG, whose places the spec does not state (log 10). -/
structure WinGeo where
  entry : Nat           -- scale entry of the output, 0xFFFF for FP32
  bs : Nat              -- channels of a block, 16 or 32
  blocks : Nat          -- channel blocks
  inW : Nat
  inH : Nat
  inOfs : Nat           -- A_OFS, A_BLKPITCH, A_ROWPITCH of the input
  inBlk : Nat
  inRow : Nat
  outOfs : Nat          -- the same of the output
  outBlk : Nat
  outRow : Nat
  kh : Nat
  kw : Nat
  sh : Nat
  sw : Nat
  pt : Nat              -- PAD_T, PAD_B, PAD_L, PAD_R
  pb : Nat
  pl : Nat
  pr : Nat
  fx : Nat              -- FX and FY of RESIZE_NN
  fy : Nat
  outW : Nat            -- output size of RESIZE_BL
  outH : Nat
  deriving DecidableEq, Repr

/-- Window programs (Table 10-4). -/
inductive WinOp where
  | poolMax | poolMin | poolAvg (includePad : Bool) | poolGavg | resizeNn | resizeBl
  deriving DecidableEq, Repr

/-- Arguments of a program that draws (R397-R400). -/
structure DrawArg where
  stream : Nat
  site : Nat
  tbase : Nat
  deriving DecidableEq, Repr

/-- What program a VEC runs. The program table's encoding is no interface of the device, so the program behind PROG
and the scalars it takes are facts (log 10). -/
inductive VecProg where
  | trkPost (count : Nat)                 -- entries of the detection list in H[0]
  | trkUpdate
  | emit (outlet : Nat) (entries : Nat)   -- 64-byte entries of records in H[0]
  | window (op : WinOp) (g : WinGeo)      -- H[0] to H[1]
  | topK (first n k : Nat)                -- n FP32 logits in H[0], of tokens from `first` on; pairs to H[1]
  | topKMerge (n k : Nat)                 -- n pairs in H[0]; pairs to H[1]
  | optDecode (blocks : Nat)              -- blocks in H[0], table in H[1]; values to H[2]
  | optEncode (blocks : Nat) (rnd : Option DrawArg) -- values in H[0], table in H[1]; blocks to H[2]
  | mask (n p : Nat) (a : DrawArg)        -- n mask bits to H[0]
  | words (n : Nat) (a : DrawArg)         -- n 32-bit values to H[0]
  | other (reads : List Nat) (writes : List (Nat × Nat × List Byte)) -- H indices read; (H index, offset, bytes) written
  deriving DecidableEq, Repr

/-- A VEC call. -/
structure VecFact where
  prog : VecProg
  past : Bool           -- it ran past its MAX_CYC (R226)
  par : Bool            -- a scratchpad row read had a parity error (R273)
  deriving DecidableEq, Repr


/-- What an encoder produces for a picture (R375): facts of its own mode decisions (log 10). -/
structure EncFact where
  rows : List (List Byte) -- bytes of each CTU or MCU row, headers in the first
  minimal : Bool          -- a CTU or MCU was coded minimal (R387, R388)
  deriving DecidableEq, Repr

/-- EDC retries of one channel in an access (R420), and the lane moves of the re-centring they may start: facts of
the pins (log 10). -/
structure EdcFact where
  ch : Nat
  wr : Bool
  retries : Nat
  mv : List (Nat × Nat)
  deriving DecidableEq, Repr

/-- A configuration request of the host (R63, R443): the fields the spec gives a meaning. -/
inductive CfgReq where
  | classCode | vsecHeader | freezeCtl | aerUnc | aerCor | aerSev | aerFirst | headerLog | ctoRanges -- reads
  | memEn (on : Bool)            -- Memory Space Enable, once the BARs are assigned
  | msixEn (on : Bool)           -- MSI-X Enable
  | fnMask (on : Bool)           -- Function Mask
  | tag10 (on : Bool)            -- 10-Bit Tag Requester Enable
  | extTag (on : Bool)           -- Extended Tag Field Enable
  | mps (bytes : Nat)            -- Max Payload Size
  | mrrs (bytes : Nat)           -- Max Read Request Size
  | ctoVal (v : Nat)             -- Completion Timeout Value
  | ptmEn (on : Bool)            -- PTM Enable
  | pmeEn (on : Bool)            -- PME_En
  | pmeClear                     -- PME_Status written 1
  | errEn (mask : Nat)           -- Device Control error reporting enables
  | aerUncClear (mask : Nat)     -- AER Uncorrectable Error Status, written 1 to clear
  | aerCorClear (mask : Nat)
  | aerSevSet (mask : Nat)       -- AER Uncorrectable Error Severity
  | other                        -- any other field
  deriving DecidableEq, Repr

/-- Errors of Table 19-6 that arrive from the link. -/
inductive TlpErr where
  | correctable (bit : Nat)      -- bit of AER Correctable Error Status
  | unsupported (posted : Bool)
  | poisonedRequest
  | ecrc
  | unexpectedCompletion
  | fatal (bit : Nat)            -- bit of AER Uncorrectable Error Status
  deriving DecidableEq, Repr

/-- How a read request's completion comes back (R457). -/
inductive CplSt where
  | ok (data : List Byte)
  | ur | ca | poisoned
  deriving DecidableEq, Repr


/-- A component entry of a Lizoush bundle (Table 22-5); digests are named by numbers. -/
structure Comp where
  ty : Nat
  index : Nat
  version : Nat
  digest : Nat
  payload : List Byte   -- the component's bytes
  deriving DecidableEq, Repr

/-- A Lizoush bundle as its checks see it (R522, Table 22-4); signature and digest verdicts are facts (log 10). -/
structure Bundle where
  kind : Nat            -- 0 firmware, 1 owner
  svn : Nat
  targetPart : Nat
  bytes : Nat           -- BUNDLE_BYTES
  comps : List Comp
  signer : Nat          -- SHA3-512 of the public key, as a number
  fieldsOk : Bool       -- MAGIC, FORMAT, ranges, reserved bytes
  sigOk : Bool          -- signature over bytes 0x0000-0x169F verifies
  digestsOk : Bool      -- every component inside BUNDLE_BYTES and matching its digest
  digest : Nat          -- digest of the whole image
  header : List Byte    -- bytes 0x0000-0x007F
  profSigs : List (Nat × Bool) -- of each TYPE 6 component: key hash and verdict
  deriving DecidableEq, Repr

/-- A profile slot of the flash (R71): the record, its owner key hash and the verdict on its signature. -/
structure FlashProf where
  bytes : List Byte     -- bytes 0x000-0x4FF of Table 03-8
  signer : Nat          -- the owner key hash the signature verifies under
  sigOk : Bool
  deriving DecidableEq, Repr
/-- Verdicts of SHA3-512 and ML-DSA-87 over a delivered bundle (log 10). -/
structure SigFact where
  signer : Nat                   -- SHA3-512 of the bundle's public key, as a number
  sigOk : Bool
  digestsOk : Bool               -- every component matches its digest
  digest : Nat                   -- digest of the whole image
  profs : List (Nat × Bool)      -- of each TYPE 6 component in order: key hash its signature verifies under, verdict
  deriving DecidableEq, Repr



/-- The commands. -/
inductive Instr where
  /-- REGISTER_WRITE, R31. -/
  | registerWrite (m : Master) (be : Nat) (page ofs : Nat) (v : Word)
  /-- LO_READ_LATCH, R30. -/
  | loReadLatch (m : Master) (page ofs : Nat)
  /-- RV_FIELD_READ, R42. -/
  | rvFieldRead (m : Master) (page ofs : Nat) (u : List Upset)
  /-- RV_BACKGROUND_SWEEP, R43. -/
  | rvBackgroundSweep (page : Nat) (u : List Upset)
  /-- REGISTER_CROSSING_TIMEOUT, R47. -/
  | registerCrossingTimeout (m : Master) (wr : Bool) (page ofs : Nat)
  /-- READY_MAP_READ_LATCH, R70. -/
  | readyMapReadLatch (m : Master)
  /-- POWER_ON_RESET, R58. -/
  | powerOnReset (f : BootFact)
  /-- PERST_N_ASSERT, R59. -/
  | perstNAssert
  /-- PHASE_B_START, R61. -/
  | phaseBStart (sel modId : Nat)
  /-- FUNCTION_READY, R61. -/
  | functionReady (fn : Fn) (f : ReadyFact)
  /-- BRINGUP_BOUND_EXPIRY, R64. -/
  | bringupBoundExpiry (fn : Fn)
  /-- RESET_REQ_WARM_CHIP, R58. -/
  | resetReqWarmChip (m : Master)
  /-- RESET_REQ_PARTITION, R58. -/
  | resetReqPartition (m : Master) (parts : Nat)
  /-- ROOT_LOCK_LOSS, R55. -/
  | rootLockLoss (excursion : Bool)
  /-- QUIESCE_SET, R65. -/
  | quiesceSet (m : Master) (page : Nat)
  /-- QUIESCE_CLEAR, R65. -/
  | quiesceClear (m : Master) (page : Nat)
  /-- BLOCK_QUIESCED, R562. -/
  | blockQuiesced (page : Nat)
  /-- FENCE_SET, R499. -/
  | fenceSet (m : Master) (page : Nat)
  /-- FENCE_DRAIN_COMPLETE, R499. -/
  | fenceDrainComplete (page : Nat)
  /-- FENCE_CUT, R499. -/
  | fenceCut (page : Nat) (f : CutFact)
  /-- FENCE_CLEAR, R65. -/
  | fenceClear (m : Master) (page : Nat)
  /-- HELD_COMMAND_TIMEOUT, R68. -/
  | heldCommandTimeout (h : HeldAt)
  /-- PROFILE_SWITCH, R75. -/
  | profileSwitch (m : Master) (target : Nat)
  /-- PROFILE_SWITCH_DECODER_ABANDON, R76. -/
  | profileSwitchDecoderAbandon (d : Nat)
  /-- PROFILE_SWITCH_APPLY, R77. -/
  | profileSwitchApply
  /-- PACKET_RECEIVE, R82. -/
  | packetReceive (p : Packet)
  /-- EXCEPTION_RATE_WINDOW, R84. -/
  | exceptionRateWindow (p : Nat)
  /-- JITTER_WINDOW_EXPIRY, R95. -/
  | jitterWindowExpiry (n : Nat)
  /-- ACCESS_UNIT_WRITTEN, R98. -/
  | accessUnitWritten (flow : Nat) (std : List Byte)
  /-- PORT_MODE_WRITE, R80. -/
  | portModeWrite (m : Master) (cage : Nat) (v : Word)
  /-- LINK_UP, R80. -/
  | linkUp (p : Nat) (fec : Bool)
  /-- LINK_DOWN, R80. -/
  | linkDown (p : Nat)
  /-- QSFP_INSERT, R558. -/
  | qsfpInsert (cage cls temp : Nat) (readable : Bool)
  /-- QSFP_REMOVE, R558. -/
  | qsfpRemove (cage : Nat)
  /-- FLOW_OPEN, R89. -/
  | flowOpen (m : Master) (tag idx : Nat)
  /-- FLOW_CLOSE, R105. -/
  | flowClose (m : Master) (tag idx : Nat)
  /-- FLOW_READ_STATUS, R97. -/
  | flowReadStatus (m : Master) (tag idx : Nat)
  /-- SET_SR, R100. -/
  | setSr (m : Master) (tag idx : Nat)
  /-- KEY_LOAD, R90. -/
  | keyLoad (m : Master) (tag idx : Nat)
  /-- KEY_ERASE, R93. -/
  | keyErase (m : Master) (tag idx : Nat)
  /-- RELEARN_SSRC, R87. -/
  | relearnSsrc (m : Master) (tag idx : Nat)
  /-- SET_KEYS, R92. -/
  | setKeys (m : Master) (tag idx : Nat)
  /-- TB_SRC_WRITE, R102. -/
  | tbSrcWrite (m : Master) (v : Word)
  /-- PTP_MESSAGE_RECEIVE, R102. -/
  | ptpMessageReceive (f : TbFact)
  /-- PTP_SYNC_TIMEOUT, R102. -/
  | ptpSyncTimeout
  /-- PTM_UPDATE, R445. -/
  | ptmUpdate (f : TbFact)
  /-- LTR_UPDATE, R445. -/
  | ltrUpdate
  /-- STM_OPEN, R111. -/
  | stmOpen (m : Master) (tag idx : Nat)
  /-- STM_CLOSE, R134. -/
  | stmClose (m : Master) (tag idx : Nat)
  /-- STM_READ_STATUS, R134. -/
  | stmReadStatus (m : Master) (tag idx : Nat)
  /-- SET_PARAMS, R115. -/
  | setParams (m : Master) (tag idx : Nat) (above : Bool)
  /-- SUBMIT, R114. -/
  | submit (m : Master) (tag idx : Nat)
  /-- STM_FLUSH, R134. -/
  | stmFlush (m : Master) (tag idx : Nat)
  /-- SET_PRIORITY, R134. -/
  | setPriority (m : Master) (tag idx : Nat)
  /-- RESYNC, R123. -/
  | resync (m : Master) (tag idx : Nat)
  /-- DECODER_DISPATCH, R118. -/
  | decoderDispatch (d : Nat) (h : AuHdr)
  /-- DECODE_WRITEBACK_COMPLETE, R121. -/
  | decodeWritebackComplete (d : Nat) (f : DecFact)
  /-- DECODE_BUDGET_EXPIRY, R122. -/
  | decodeBudgetExpiry (n : Nat) (h : AuHdr) (f : DecFact)
  /-- CODING_BLOCK_CYCLE_BOUND, R126. -/
  | codingBlockCycleBound (d : Nat)
  /-- DECODER_HANG_WATCHDOG, R127. -/
  | decoderHangWatchdog (d : Nat) (ok : Bool)
  /-- GATE_SET, R148. -/
  | gateSet (m : Master) (tag idx : Nat)
  /-- SCALE_SET, R564. -/
  | scaleSet (m : Master) (tag idx : Nat)
  /-- GATE_READ, R159. -/
  | gateRead (m : Master) (tag idx : Nat)
  /-- GATE_RESET, R150. -/
  | gateReset (m : Master) (tag idx : Nat)
  /-- RING_RESET, R147. -/
  | ringReset (m : Master) (tag idx : Nat)
  /-- GATING_DECIDE, R149. -/
  | gatingDecide (n : Nat)
  /-- PIPE_TAKE_ENTRY, R138. -/
  | pipeTakeEntry (p : Nat)
  /-- CROP_ENTRY_COMPLETE, R136. -/
  | cropEntryComplete (k : Nat)
  /-- SCALER_CLAIM_STALE_EXPIRY, R147. -/
  | scalerClaimStaleExpiry (n : Nat)
  /-- SCALER_PIPE_WATCHDOG, R497. -/
  | scalerPipeWatchdog (p : Nat) (ok : Bool)
  /-- ENGINE_PAUSE_WRITE, R186. -/
  | enginePauseWrite (m : Master) (page : Nat) (on : Bool)
  /-- ENG_INJECT_ARM, R188. -/
  | engInjectArm (m : Master) (page : Nat) (v : Word)
  /-- PASS_COMPLETE, R168. -/
  | passComplete (n lc e : Nat) (f : ExecFact)
  /-- MPASS, R231. -/
  | mpass (n lc : Nat)
  /-- PPASS, R236. -/
  | ppass (n lc : Nat)
  /-- CPASS, R261. -/
  | cpass (n lc : Nat)
  /-- DRAIN, R239. -/
  | drain (n lc : Nat)
  /-- DRAIN_COMPLETE, R242. -/
  | drainComplete (n lc : Nat) (f : ExecFact)
  /-- CROSSED_TENSOR_COMMIT, R212. -/
  | crossedTensorCommit (n entry : Nat)
  /-- DMA_COPY, R282. -/
  | dmaCopy (n lc : Nat)
  /-- DMA_FILL, R282. -/
  | dmaFill (n lc : Nat)
  /-- DMA_TRANSPOSE, R282. -/
  | dmaTranspose (n lc : Nat)
  /-- DMA_COMPLETE, R282. -/
  | dmaComplete (n lc e : Nat) (f : ExecFact)
  /-- RESHARD, R245. -/
  | reshard (n lc : Nat)
  /-- RESHARD_COMPLETE, R247. -/
  | reshardComplete (n lc : Nat) (f : ExecFact)
  /-- RESHARD_WATCHDOG, R247. -/
  | reshardWatchdog (n lc : Nat)
  /-- WAIT_ROW_READY, R250. -/
  | waitRowReady (n lc : Nat)
  /-- WAIT_CLAVE, R250. -/
  | waitClave (n lc : Nat)
  /-- WAIT_SATISFIED, R250. -/
  | waitSatisfied (n lc : Nat)
  /-- WAIT_WATCHDOG_EXPIRY, R250. -/
  | waitWatchdogExpiry (n lc : Nat)
  /-- SIGNAL_ROW_READY, R249. -/
  | signalRowReady (n lc : Nat)
  /-- SIGNAL_CLAVE, R251. -/
  | signalClave (n lc : Nat)
  /-- SIGNAL_CLAVE_SET, R251. -/
  | signalClaveSet (n lc : Nat)
  /-- CLAIM, R252. -/
  | claim (n lc : Nat)
  /-- CLAIM_TAKE, R252. -/
  | claimTake (n lc : Nat)
  /-- CLAVE_VAL_WRITE, R251. -/
  | claveValWrite (m : Master) (k : Nat) (v : Word)
  /-- FENCE_LOCAL, R248. -/
  | fenceLocal (n lc : Nat)
  /-- FENCE_MEMORY, R248. -/
  | fenceMemory (n lc : Nat)
  /-- FENCE_BARRIER, R248. -/
  | fenceBarrier (n lc : Nat)
  /-- BARRIER_RELEASE, R248. -/
  | barrierRelease (n : Nat)
  /-- FENCE_END, R248. -/
  | fenceEnd (n lc : Nat)
  /-- VEC, R356. -/
  | vec (n lc : Nat) (f : VecFact)
  /-- SPEC, R291. -/
  | spec (n lc : Nat)
  /-- COMMIT, R296. -/
  | commit (n lc : Nat)
  /-- SQUASH, R296. -/
  | squash (n lc : Nat)
  /-- TAG_COMMIT_COMPLETE, R297. -/
  | tagCommitComplete (n lc t : Nat)
  /-- TAG_SQUASH_COMPLETE, R298. -/
  | tagSquashComplete (n lc t : Nat)
  /-- KILL_SCRUB_COMPLETE, R285. -/
  | killScrubComplete (c n : Nat)
  /-- PENDING_SCRUB_DEADLINE, R286. -/
  | pendingScrubDeadline (c : Nat)
  /-- SP_DEBUG_RETAIN, R287. -/
  | spDebugRetain (m : Master) (c : Nat) (v : Word)
  /-- SP_DEBUG_RELEASE, R287. -/
  | spDebugRelease (m : Master) (c : Nat) (v : Word)
  /-- CTX_OPEN, R311. -/
  | ctxOpen (m : Master) (tag idx : Nat)
  /-- CTX_CLOSE, R317. -/
  | ctxClose (m : Master) (tag idx : Nat)
  /-- CTX_READ, R336. -/
  | ctxRead (m : Master) (tag idx : Nat)
  /-- CTX_KILL, R334. -/
  | ctxKill (m : Master) (tag idx : Nat)
  /-- CTX_RESUME, R317. -/
  | ctxResume (m : Master) (tag idx : Nat)
  /-- MODEL_LOAD, R323. -/
  | modelLoad (m : Master) (tag idx : Nat)
  /-- MODEL_UNLOAD, R323. -/
  | modelUnload (m : Master) (tag idx : Nat)
  /-- CTX_SAVE, R330. -/
  | ctxSave (m : Master) (tag idx : Nat)
  /-- CTX_RESTORE, R333. -/
  | ctxRestore (m : Master) (tag idx : Nat)
  /-- DB_TAIL, R313. -/
  | dbTail (n be : Nat) (v : Word)
  /-- DB_CPL_CONS, R313. -/
  | dbCplCons (n be : Nat) (v : Word)
  /-- INVOCATION_GRANT, R319. -/
  | invocationGrant (n : Nat) (place : List Nat)
  /-- INVOCATION_COMPLETE, R314. -/
  | invocationComplete (n : Nat)
  /-- SLICE_EXPIRY, R321. -/
  | sliceExpiry (n : Nat)
  /-- PARK_COMPLETE, R328. -/
  | parkComplete (n : Nat) (dma : List (Nat × Nat × Nat))
  /-- UNPARK_RESTORE, R329. -/
  | unparkRestore (n : Nat)
  /-- EVICTION_COMPLETE, R330. -/
  | evictionComplete (n : Nat) (dma : List (Nat × Nat × Nat))
  /-- RESTORE_COMPLETE, R333. -/
  | restoreComplete (n : Nat)
  /-- CONTEXT_FAULT, R491. -/
  | contextFault (n code page desc detail : Nat)
  /-- TEARDOWN_COMPLETE, R334. -/
  | teardownComplete (n : Nat)
  /-- TEARDOWN_WATCHDOG, R497. -/
  | teardownWatchdog (n : Nat) (pages : List Nat) (ok : Bool)
  /-- CONTEXT_PROGRESS_WATCHDOG, R498. -/
  | contextProgressWatchdog (n : Nat)
  /-- BATCH_OPEN, R339. -/
  | batchOpen (m : Master) (tag idx : Nat)
  /-- BATCH_CLOSE, R353. -/
  | batchClose (m : Master) (tag idx : Nat)
  /-- SEQ_READ, R355. -/
  | seqRead (m : Master) (tag idx : Nat)
  /-- SEQ_END, R353. -/
  | seqEnd (m : Master) (tag idx : Nat)
  /-- TOKEN_POLL, R343. -/
  | tokenPoll (b : Nat)
  /-- TOKEN_WAIT_EXPIRY, R344. -/
  | tokenWaitExpiry (b : Nat)
  /-- STEP_CADENCE_EXPIRY, R344. -/
  | stepCadenceExpiry (b : Nat)
  /-- STEP_PLAN, R345. -/
  | stepPlan (b : Nat)
  /-- TRACK_SET, R357. -/
  | trackSet (m : Master) (tag idx : Nat)
  /-- OUTLET_SET, R369. -/
  | outletSet (m : Master) (tag idx : Nat)
  /-- TRACK_ORDER_RELEASE, R360. -/
  | trackOrderRelease (n : Nat)
  /-- OUTLET_MOVE, R371. -/
  | outletMove
  /-- OUTLET_IRQ_TIMER, R370. -/
  | outletIrqTimer (n : Nat)
  /-- UDP_FLUSH_EXPIRY, R372. -/
  | udpFlushExpiry (n : Nat)
  /-- UDP_RATE_WINDOW, R371. -/
  | udpRateWindow (n : Nat)
  /-- PTX_TAIL_WRITE, R373. -/
  | ptxTailWrite (m : Master) (p : Nat) (v : Word)
  /-- EVID_SET, R376. -/
  | evidSet (m : Master) (tag idx : Nat)
  /-- CLIP, R380. -/
  | clip (m : Master) (tag idx : Nat)
  /-- SNAP, R388. -/
  | snap (m : Master) (tag idx : Nat)
  /-- EVID_READ, R391. -/
  | evidRead (m : Master) (tag idx : Nat)
  /-- ENCODER_TAKE_PICTURE, R382. -/
  | encoderTakePicture (e : Nat)
  /-- ENCODER_PICTURE_COMPLETE, R386. -/
  | encoderPictureComplete (e : Nat) (f : EncFact)
  /-- ENCODER_ROW_WATCHDOG, R392. -/
  | encoderRowWatchdog (e : Nat) (ok : Bool)
  /-- ADAPT_OPEN, R403. -/
  | adaptOpen (m : Master) (tag idx : Nat)
  /-- ADAPT_STOP, R410. -/
  | adaptStop (m : Master) (tag idx : Nat)
  /-- ADAPT_READ, R411. -/
  | adaptRead (m : Master) (tag idx : Nat)
  /-- ADAPT_CLOSE, R410. -/
  | adaptClose (m : Master) (tag idx : Nat)
  /-- ADAPT_STEP_LOAD_DONE, R405. -/
  | adaptStepLoadDone (j : Nat)
  /-- ADAPT_CONDITION_CHANGE, R404. -/
  | adaptConditionChange (j : Nat)
  /-- RNG_TEST_GO, R563. -/
  | rngTestGo (m : Master) (v : Word)
  /-- POOL_CREATE, R430. -/
  | poolCreate (m : Master) (tag idx : Nat)
  /-- POOL_DESTROY, R430. -/
  | poolDestroy (m : Master) (tag idx : Nat)
  /-- POOL_QUOTA, R438. -/
  | poolQuota (m : Master) (tag idx : Nat)
  /-- POOL_READ, R442. -/
  | poolRead (m : Master) (tag idx : Nat)
  /-- KET_ALLOC, R433. -/
  | ketAlloc (m : Master) (tag idx : Nat)
  /-- KET_CLAIM, R435. -/
  | ketClaim (m : Master) (tag idx : Nat)
  /-- KET_RELEASE, R435. -/
  | ketRelease (m : Master) (tag idx : Nat)
  /-- KET_FREE, R435. -/
  | ketFree (m : Master) (tag idx : Nat)
  /-- KETTLE_SWEEP, R437. -/
  | kettleSweep
  /-- PATROL_SCRUB_READ, R421. -/
  | patrolScrubRead (c : Nat)
  /-- RECENTRE, R425. -/
  | recentre (c : Nat) (mv : List (Nat × Nat))
  /-- MC_RETRAIN, R426. -/
  | mcRetrain (m : Master) (c : Nat)
  /-- RETRAIN_SLICE, R426. -/
  | retrainSlice (c : Nat) (last : Option (List Word))
  /-- BANK_IDLE_CLOSE, R427. -/
  | bankIdleClose (c bank : Nat)
  /-- REFRESH, R429. -/
  | refresh (c bank temp : Nat)
  /-- SELF_REFRESH_ENTRY, R429. -/
  | selfRefreshEntry (c : Nat)
  /-- BAR2_READ, R452. -/
  | bar2Read (ofs n : Nat)
  /-- BAR2_WRITE, R452. -/
  | bar2Write (ofs : Nat) (data : List (Option Byte))
  /-- XLT_CFG_WRITE, R451. -/
  | xltCfgWrite (m : Master) (k : Nat) (v : Word)
  /-- OUTW_CFG_WRITE, R454. -/
  | outwCfgWrite (m : Master) (w : Nat) (v : Word)
  /-- PCIE_CONFIG_REQUEST, R63. -/
  | pcieConfigRequest (q : CfgReq)
  /-- PCIE_HOT_RESET, R448. -/
  | pcieHotReset
  /-- PCIE_COMPLETION_RECEIVE, R457. -/
  | pcieCompletionReceive (tag : Nat) (c : CplSt)
  /-- PCIE_COMPLETION_TIMEOUT, R456. -/
  | pcieCompletionTimeout (tag : Nat)
  /-- PCIE_TLP_ERROR, R461. -/
  | pcieTlpError (e : TlpErr) (hdr : List Byte)
  /-- PCIE_LINK_LOSS, R462. -/
  | pcieLinkLoss
  /-- FREEZE_RELEASE, R463. -/
  | freezeRelease (m : Master)
  /-- D_STATE_CHANGE, R464. -/
  | dStateChange (d3 : Bool)
  /-- PME_TURN_OFF, R464. -/
  | pmeTurnOff
  /-- MSIX_PENDING_SEND, R459. -/
  | msixPendingSend (v : Nat)
  /-- MSIX_HOLDOFF_EXPIRY, R460. -/
  | msixHoldoffExpiry (v : Nat)
  /-- ATTN_BUTTON_PRESS, R466. -/
  | attnButtonPress
  /-- SLOT_POWER_OFF, R467. -/
  | slotPowerOff (m : Master)
  /-- MCTP_WAKE, R465. -/
  | mctpWake
  /-- GONG_SAMPLE, R471. -/
  | gongSample (vin iin : Nat) (pfLow : Bool)
  /-- LOW_EVENT_START, R472. -/
  | lowEventStart
  /-- LOW_EVENT_END, R476. -/
  | lowEventEnd
  /-- RIDE_THROUGH_EXPIRY, R477. -/
  | rideThroughExpiry
  /-- SWELL_START, R473. -/
  | swellStart
  /-- SWELL_TIMEOUT, R473. -/
  | swellTimeout
  /-- ORDERLY_STOP, R477. -/
  | orderlyStop
  /-- SUPPLY_RESTART, R478. -/
  | supplyRestart (f : BootFact)
  /-- POWER_WINDOW, R481. -/
  | powerWindow (grants : List Nat)
  /-- RIPPLE_WINDOW, R480. -/
  | rippleWindow
  /-- STREAM_SHED, R482. -/
  | streamShed
  /-- STREAM_RESTORE, R482. -/
  | streamRestore
  /-- THERMAL_SAMPLE, R483. -/
  | thermalSample (dies : List Nat) (conv : Nat)
  /-- THERMAL_TRIP, R484. -/
  | thermalTrip (die : Nat)
  /-- RAIL_FAULT, R553. -/
  | railFault
  /-- PD_ON, R488. -/
  | pdOn (m : Master) (n : Nat) (room : Bool)
  /-- PD_OFF, R488. -/
  | pdOff (m : Master) (n : Nat)
  /-- PD_SWITCH_ON_COMPLETE, R487. -/
  | pdSwitchOnComplete (n : Nat)
  /-- NOC_TIMEOUT, R492. -/
  | nocTimeout (n lc page : Nat) (ok : Bool)
  /-- FW_ASSERT, R493. -/
  | fwAssert (sub : FwSubj) (page : Nat)
  /-- FW_HEARTBEAT_TIMEOUT, R493. -/
  | fwHeartbeatTimeout
  /-- UNIT_RESET, R500. -/
  | unitReset (page cause : Nat) (ok : Bool)
  /-- RESET_LEVEL_EXPIRY, R500. -/
  | resetLevelExpiry (k : Nat)
  /-- TOC_OOS_ENTER, R506. -/
  | tocOosEnter (m : Master)
  /-- TOC_OOS_RETURN, R508. -/
  | tocOosReturn (m : Master)
  /-- RETURN_TO_SERVICE, R508. -/
  | returnToService
  /-- TB_SYNC_CFG_WRITE, R510. -/
  | tbSyncCfgWrite (m : Master) (v : Word)
  /-- TB_UTIMER_EXPIRY, R510. -/
  | tbUtimerExpiry (k : Nat)
  /-- SYNC_IO_EDGE, R556. -/
  | syncIoEdge
  /-- PPS_IN_EDGE, R557. -/
  | ppsInEdge
  /-- UPD_STAGE, R527. -/
  | updStage (m : Master) (tag idx : Nat)
  /-- BUNDLE_VERIFY_DONE, R527. -/
  | bundleVerifyDone (f : SigFact)
  /-- UPD_ACTIVATE, R528. -/
  | updActivate (m : Master) (tag idx : Nat)
  /-- COMPONENT_ACTIVATE, R528. -/
  | componentActivate (ok : Bool)
  /-- UPD_COMMIT, R530. -/
  | updCommit (m : Master) (tag idx : Nat)
  /-- UPD_COMMIT_DONE, R526. -/
  | updCommitDone (ok : Bool)
  /-- UPD_ABANDON, R527. -/
  | updAbandon (m : Master) (tag idx : Nat)
  /-- UPD_READ, R534. -/
  | updRead (m : Master) (tag idx : Nat)
  /-- ALIAS_CERT_SIGNED, R518. -/
  | aliasCertSigned
  /-- SPDM_GET_VERSION, R519. -/
  | spdmGetVersion (path : Nat) (busy : Bool)
  /-- SPDM_GET_CAPABILITIES, R519. -/
  | spdmGetCapabilities (path : Nat) (busy : Bool)
  /-- SPDM_NEGOTIATE_ALGORITHMS, R519. -/
  | spdmNegotiateAlgorithms (path : Nat) (busy ok : Bool)
  /-- SPDM_GET_DIGESTS, R519. -/
  | spdmGetDigests (path : Nat) (busy : Bool)
  /-- SPDM_GET_CERTIFICATE, R519. -/
  | spdmGetCertificate (path : Nat) (busy : Bool) (slot ofs len : Nat) (chain : List Byte)
  /-- SPDM_CHALLENGE, R519. -/
  | spdmChallenge (path : Nat) (busy : Bool) (slot : Nat) (nonce sig : List Byte)
  /-- SPDM_GET_MEASUREMENTS, R520. -/
  | spdmGetMeasurements (path : Nat) (busy : Bool) (index : Nat) (sign : Bool) (sig : List Byte)
  /-- PLDM_SENSOR_READ, R521. -/
  | pldmSensorRead (sensor : Nat)
  /-- PLDM_FIRMWARE_TRANSFER, R521. -/
  | pldmFirmwareTransfer (data : List Byte)
  /-- PLDM_ACTIVATE_FIRMWARE, R521. -/
  | pldmActivateFirmware
  /-- RECOVERY_BUNDLE, R533. -/
  | recoveryBundle (data : List Byte) (f : SigFact) (ok : Bool) (b : BootFact)
  /-- PEAL_CFG_WRITE, R538. -/
  | pealCfgWrite (m : Master) (v : Word)
  /-- PEAL_HEARTBEAT, R540. -/
  | pealHeartbeat
  /-- PEER_HB_CHANGE, R540. -/
  | peerHbChange (p : Nat)
  /-- PEER_SILENT_TIMEOUT, R540. -/
  | peerSilentTimeout (p : Nat)
  /-- PEER_MESSAGE_RECEIVE, R539. -/
  | peerMessageReceive (p : Nat)
  /-- MIGRATION_PUSH_COMPLETE, R541. -/
  | migrationPushComplete
  /-- EXPECT, R541. -/
  | expect (m : Master) (tag idx : Nat)
  /-- MIGRATE, R541. -/
  | migrate (m : Master) (tag idx : Nat)
  /-- TRACK_SEND, R544. -/
  | trackSend (m : Master) (tag idx : Nat)
  /-- CANCEL, R545. -/
  | cancel (m : Master) (tag idx : Nat)
  /-- HOLD_UP_COLLAPSE, R470. -/
  | holdUpCollapse
  /-- REGISTER_READ, R34. -/
  | registerRead (m : Master) (page ofs : Nat)
  /-- SWELL_END, R473. -/
  | swellEnd
  /-- PCIE_LINK_RETRAINED, R463. -/
  | pcieLinkRetrained (width speed : Nat)
  /-- ATTN_BUTTON_RELEASE, R466. -/
  | attnButtonRelease
  /-- PE_REFCLK_PRESENT, R61. -/
  | peRefclkPresent
  /-- CORE_GROUP_POWER_ON, R61. -/
  | coreGroupPowerOn (room : Bool)
  deriving DecidableEq, Repr

end Sys2Proof
end

