-- ==== Sys2Proof/Decode.lean ====
section
/-!
DEFINITION. Decode.lean: the command a table word spells.
The commands reach the block as events and accesses, not as words: no row of spec/opcode_table.json gives bits.
-/
namespace Sys2Proof

/-- The command that `nbits` bits `w` spell by the opcode table: none, since no row gives bits. -/
def decodeTableWord (_nbits _w : Nat) : Option Instr := none

end Sys2Proof
end

