-- ==== Sys2Proof/Machine/Bits.lean ====
section
/-!
DEFINITION. Machine/Bits.lean: bit fields, byte order and sparse tables.
Every field of a record of the spec is little-endian unless its rule says otherwise.
-/
namespace Sys2Proof.Machine

/-- Bits [hi:lo] of a number. -/
def bitsN (n hi lo : Nat) : Nat := (n >>> lo) % 2 ^ (hi + 1 - lo)

/-- Bits [hi:lo] of a register word. -/
def bits (w : Word) (hi lo : Nat) : Nat := bitsN w.toNat hi lo

/-- Bit k of a register word. -/
def bit (w : Word) (k : Nat) : Bool := w.getLsbD k

/-- A number as a register word (its low 32 bits). -/
def word (n : Nat) : Word := BitVec.ofNat 32 n

/-- A mask of bits [hi:lo]. -/
def maskW (hi lo : Nat) : Word := word ((2 ^ (hi + 1 - lo) - 1) <<< lo)

/-- `w` with bits [hi:lo] taken from the low bits of `v`. -/
def setBits (w : Word) (hi lo v : Nat) : Word :=
  (w &&& ~~~ (maskW hi lo)) ||| (word (v <<< lo) &&& maskW hi lo)

/-- A Boolean as a bit. -/
def b2n (b : Bool) : Nat := if b then 1 else 0

/-- Two's complement value of the low `w` bits of `n`. -/
def sext (w n : Nat) : Int :=
  let m := n % 2 ^ w
  if m < 2 ^ (w - 1) then (m : Int) else (m : Int) - (2 ^ w : Nat)

/-- The low `w` bits of an integer, in two's complement. -/
def toTwos (w : Nat) (i : Int) : Nat := (i % ((2 ^ w : Nat) : Int)).toNat

/-- Saturating 32-bit increment (R45). -/
def satInc (w : Word) : Word := if w = 0xFFFFFFFF#32 then w else w + 1

/-- Saturating 32-bit addition (R45: one per event). -/
def satAdd (w : Word) (n : Nat) : Word := word (min (w.toNat + n) 0xFFFFFFFF)

/-- The larger of a register word and a new measurement. -/
def maxW (w : Word) (n : Nat) : Word := if w.toNat < n then word (min n 0xFFFFFFFF) else w

/-! ### Bytes -/

/-- The little-endian number of a byte list. -/
def leNat : List Byte → Nat
  | [] => 0
  | b :: t => b.toNat + 256 * leNat t

/-- `n` bytes of a number, little-endian. -/
def leBytes : Nat → Nat → List Byte
  | 0, _ => []
  | k + 1, v => BitVec.ofNat 8 v :: leBytes k (v / 256)

/-- Byte `i` of a record, 0 past its end. -/
def byteAt (l : List Byte) (i : Nat) : Nat := (l.getD i 0).toNat

/-- The little-endian field of `n` bytes at offset `o` of a record, 0 past its end. -/
def leAt (l : List Byte) (o n : Nat) : Nat := leNat ((l.drop o).take n)

/-- `n` zero bytes. -/
def zeros (n : Nat) : List Byte := List.replicate n 0

/-- A record cut or padded with zeros to `n` bytes. -/
def fitBytes (n : Nat) (l : List Byte) : List Byte := (l ++ zeros (n - l.length)).take n

/-- `l` with the bytes from offset `o` replaced by `b`. -/
def putAt (l : List Byte) (o : Nat) (b : List Byte) : List Byte :=
  l.take o ++ b ++ l.drop (o + b.length)

/-- Every byte of a range of a record is zero. -/
def zeroAt (l : List Byte) (o n : Nat) : Bool := ((l.drop o).take n).all (· == 0)

/-! ### Sparse tables -/

/-- The entry of a key. -/
def tget {α : Type} : Tbl α → Nat → Option α
  | [], _ => none
  | (k, v) :: t, i => if k = i then some v else tget t i

/-- The entry of a key, or the table's default. -/
def tgetD {α : Type} (t : Tbl α) (i : Nat) (d : α) : α := (tget t i).getD d

/-- Sets a key, keeping keys rising. -/
def tset {α : Type} : Tbl α → Nat → α → Tbl α
  | [], i, x => [(i, x)]
  | (k, v) :: t, i, x =>
    if i < k then (i, x) :: (k, v) :: t
    else if k = i then (i, x) :: t
    else (k, v) :: tset t i x

/-- Removes a key. -/
def tdel {α : Type} (t : Tbl α) (i : Nat) : Tbl α := t.filter (fun p => p.1 != i)

/-- Changes the entry of a key that has one. -/
def tmod {α : Type} (t : Tbl α) (i : Nat) (f : α → α) : Tbl α :=
  match tget t i with
  | none => t
  | some v => tset t i (f v)

/-- Changes the entry of a key, starting from the default where it has none. -/
def tmodD {α : Type} (t : Tbl α) (i : Nat) (d : α) (f : α → α) : Tbl α := tset t i (f (tgetD t i d))

/-- The keys of a table. -/
def tkeys {α : Type} (t : Tbl α) : List Nat := t.map Prod.fst

/-- Folds a state over the numbers 0 to n − 1. -/
def forN {σ : Type} : Nat → (Nat → σ → σ) → σ → σ
  | 0, _, s => s
  | n + 1, f, s => f n (forN n f s)

/-- Ceiling division. -/
def cdiv (a b : Nat) : Nat := (a + b - 1) / b

/-! ### Byte memory: a canonical list of cells -/

/-- A byte of memory; an unlisted address reads 0 (log 2). -/
def memRd (m : List (Nat × BitVec 8)) (a : Nat) : Byte := tgetD m a 0

/-- Writes a byte; a zero byte removes the entry, so equal memories are equal lists. -/
def memWr (m : List (Nat × BitVec 8)) (a : Nat) (b : Byte) : List (Nat × BitVec 8) :=
  if b = 0 then tdel m a else tset m a b

/-- Zeroes `n` bytes from `a` up. -/
def memZero (m : List (Nat × BitVec 8)) (a n : Nat) : List (Nat × BitVec 8) :=
  m.filter (fun c => c.1 < a || a + n ≤ c.1)

/-- Reads `n` bytes from `a` up. -/
def memRdL (m : List (Nat × BitVec 8)) : Nat → Nat → List Byte
  | _, 0 => []
  | a, n + 1 => memRd m a :: memRdL m (a + 1) n

/-- Writes bytes from `a` up. -/
def memWrL (m : List (Nat × BitVec 8)) : Nat → List Byte → List (Nat × BitVec 8)
  | _, [] => m
  | a, b :: t => memWrL (memWr m a b) (a + 1) t

end Sys2Proof.Machine
end

