-- ==== Sys2Proof/Machine/Operands.lean ====
section
/-!
DEFINITION. Machine/Operands.lean: the element formats of Table 08-1, exact values, and the one rounding of a
conversion (R190-R196).
-/
namespace Sys2Proof.Machine

/-! ### Exact values -/

/-- A number, an infinity or a NaN. A number is ± n ÷ d × 2^e with its sign kept for zero (R191). -/
inductive Fl where
  | nan
  | inf (neg : Bool)
  | num (neg : Bool) (n d : Nat) (e : Int)
  deriving DecidableEq, Repr

/-- 2 to an integer power, as numerator and denominator. -/
def pow2 (e : Int) : Nat × Nat := if 0 ≤ e then (2 ^ e.toNat, 1) else (1, 2 ^ (-e).toNat)

/-- An integer. -/
def Fl.ofInt (i : Int) : Fl := .num (decide (i < 0)) i.natAbs 1 0

/-- A natural number. -/
def Fl.ofNat (n : Nat) : Fl := .num false n 1 0

/-- A quotient of natural numbers. -/
def Fl.frac (n d : Nat) : Fl := .num false n d 0

/-- The value is a NaN. -/
def Fl.isNan : Fl → Bool
  | .nan => true
  | _ => false

/-- The value is finite. -/
def Fl.isFin : Fl → Bool
  | .num _ _ _ _ => true
  | _ => false

/-- The sign bit. -/
def Fl.neg : Fl → Bool
  | .nan => false
  | .inf n => n
  | .num n _ _ _ => n

/-- The value with its sign turned. -/
def Fl.opp : Fl → Fl
  | .nan => .nan
  | .inf n => .inf (!n)
  | .num n a d e => .num (!n) a d e

/-- The magnitude. -/
def Fl.abs : Fl → Fl
  | .nan => .nan
  | .inf _ => .inf false
  | .num _ a d e => .num false a d e

/-- A finite value is zero. -/
def Fl.isZero : Fl → Bool
  | .num _ 0 _ _ => true
  | _ => false

/-- Signed numerator over a common denominator and exponent. -/
def sgnN (neg : Bool) (n : Nat) : Int := if neg then -(n : Int) else (n : Int)

/-- Exact sum, with IEEE 754's infinities, NaNs and signs of zero. -/
def Fl.add : Fl → Fl → Fl
  | .nan, _ => .nan
  | _, .nan => .nan
  | .inf a, .inf b => if a = b then .inf a else .nan
  | .inf a, _ => .inf a
  | _, .inf b => .inf b
  | .num s a d e, .num t b f g =>
    let m := min e g
    let x : Int := sgnN s (a * f * 2 ^ (e - m).toNat) + sgnN t (b * d * 2 ^ (g - m).toNat)
    if x = 0 then .num (s && t) 0 1 0 else .num (decide (x < 0)) x.natAbs (d * f) m

/-- Exact difference. -/
def Fl.sub (a b : Fl) : Fl := a.add b.opp

/-- Exact product. -/
def Fl.mul : Fl → Fl → Fl
  | .nan, _ => .nan
  | _, .nan => .nan
  | .inf a, .inf b => .inf (a != b)
  | .inf a, .num t b _ _ => if b = 0 then .nan else .inf (a != t)
  | .num s a _ _, .inf b => if a = 0 then .nan else .inf (s != b)
  | .num s a d e, .num t b f g => .num (s != t) (a * b) (d * f) (e + g)

/-- Exact quotient. -/
def Fl.div : Fl → Fl → Fl
  | .nan, _ => .nan
  | _, .nan => .nan
  | .inf _, .inf _ => .nan
  | .inf a, .num t _ _ _ => .inf (a != t)
  | .num s _ _ _, .inf b => .num (s != b) 0 1 0
  | .num s a d e, .num t b f g =>
    if b = 0 then (if a = 0 then .nan else .inf (s != t)) else .num (s != t) (a * f) (d * b) (e - g)

/-- Exact order of two values that are not NaN. -/
def Fl.lt (a b : Fl) : Bool :=
  match a, b with
  | .nan, _ => false
  | _, .nan => false
  | .inf s, .inf t => s && !t
  | .inf s, _ => s
  | _, .inf t => !t
  | .num s a d e, .num t b f g =>
    let m := min e g
    decide (sgnN s (a * f * 2 ^ (e - m).toNat) < sgnN t (b * d * 2 ^ (g - m).toNat))

/-- a ≤ b for values that are not NaN. -/
def Fl.le (a b : Fl) : Bool := !a.isNan && !b.isNan && !b.lt a

/-- Equality as numbers. -/
def Fl.eqv (a b : Fl) : Bool := a.le b && b.le a

/-- The larger of two values; a NaN loses. -/
def Fl.max (a b : Fl) : Fl := if a.isNan then b else if a.lt b then b else a

/-- The smaller of two values; a NaN loses. -/
def Fl.min (a b : Fl) : Fl := if a.isNan then b else if b.lt a then b else a

/-- Floor of a finite value. -/
def Fl.floor : Fl → Int
  | .num s a d e =>
    let p := pow2 e
    let x := sgnN s (a * p.1)
    Int.fdiv x ((d * p.2 : Nat) : Int)
  | _ => 0

/-! ### Formats (Table 08-1) -/

/-- A floating-point format: significand bits, bias, and its largest finite value as maxM × 2^maxE. -/
structure FFmt where
  eb : Nat
  mb : Nat
  bias : Nat
  maxM : Nat
  maxE : Int
  infs : Bool      -- it has infinities and the IEEE NaNs
  deriving DecidableEq, Repr

/-- FP8 E4M3. -/
def e4m3 : FFmt := { eb := 4, mb := 3, bias := 7, maxM := 14, maxE := 5, infs := false }
/-- FP8 E5M2. -/
def e5m2 : FFmt := { eb := 5, mb := 2, bias := 15, maxM := 7, maxE := 13, infs := true }
/-- BF16. -/
def bf16 : FFmt := { eb := 8, mb := 7, bias := 127, maxM := 255, maxE := 120, infs := true }
/-- FP16. -/
def fp16 : FFmt := { eb := 5, mb := 10, bias := 15, maxM := 2047, maxE := 5, infs := true }
/-- FP32. -/
def fp32 : FFmt := { eb := 8, mb := 23, bias := 127, maxM := 16777215, maxE := 104, infs := true }

/-- The value of an encoding (R190, R191). -/
def FFmt.dec (f : FFmt) (b : Nat) : Fl :=
  let m := b % 2 ^ f.mb
  let e := (b >>> f.mb) % 2 ^ f.eb
  let s := (b >>> (f.mb + f.eb)) % 2 = 1
  if e = 2 ^ f.eb - 1 && f.infs then (if m = 0 then .inf s else .nan)
  else if !f.infs && e = 2 ^ f.eb - 1 && m = 2 ^ f.mb - 1 then .nan
  else if e = 0 then .num s m 1 (1 - (f.bias : Int) - f.mb)
  else .num s (m + 2 ^ f.mb) 1 ((e : Int) - f.bias - f.mb)

/-- floor(log2 (n ÷ d)) for positive n and d. -/
def log2Q (n d : Nat) : Int :=
  let k : Int := (Nat.log2 n : Int) - (Nat.log2 d : Int)
  let p := pow2 k
  if d * p.1 ≤ n * p.2 then k else k - 1

/-- How a conversion rounds (R193): to nearest even, or stochastically with the element's value u (R196). -/
inductive Rnd where
  | rne
  | sto (u : Nat)
  deriving DecidableEq, Repr

/-- Rounds a ÷ b to an integer. -/
def Rnd.toInt (r : Rnd) (a b : Nat) : Nat :=
  let q := a / b
  let m := a % b
  match r with
  | .rne => if b < 2 * m || (2 * m = b && q % 2 = 1) then q + 1 else q
  | .sto u => if m != 0 && 256 * (b - m) ≤ u * b then q + 1 else q

/-- Rounds n ÷ d × 2^e to the format's spacing: a significand and its exponent. -/
def FFmt.rnd (f : FFmt) (r : Rnd) (n d : Nat) (e : Int) : Nat × Int :=
  let u := Max.max (log2Q n d + e - f.mb) (1 - (f.bias : Int) - f.mb)
  let p := pow2 (e - u)
  (r.toInt (n * p.1) (d * p.2), u)

/-- The encoding of a significand and exponent that the format holds. -/
def FFmt.pack (f : FFmt) (s : Bool) (m : Nat) (u : Int) : Nat :=
  let mu := if 2 ^ (f.mb + 1) ≤ m then (m / 2, u + 1) else (m, u)
  let sg := b2n s <<< (f.mb + f.eb)
  if mu.1 < 2 ^ f.mb then sg + mu.1
  else sg + (mu.2 + f.mb + f.bias).toNat <<< f.mb + (mu.1 - 2 ^ f.mb)

/-- m × 2^u is above the largest finite value. -/
def FFmt.past (f : FFmt) (m : Nat) (u : Int) : Bool :=
  let k := Min.min u f.maxE
  decide (f.maxM * 2 ^ (f.maxE - k).toNat < m * 2 ^ (u - k).toNat)

/-- What a conversion gives: the encoding, and whether it saturated or was a non-finite conversion. -/
structure Cvt where
  q : Nat
  sat : Bool := false
  nonfin : Bool := false
  deriving DecidableEq, Repr

/-- NaN output of a format (R195). -/
def FFmt.nanOut (f : FFmt) : Nat :=
  if !f.infs then 0x7F
  else (2 ^ f.eb - 1) <<< f.mb + 2 ^ (f.mb - 1)

/-- Conversion of an exact value to a floating-point format, with saturation (R193-R196). -/
def FFmt.cvt (f : FFmt) (r : Rnd) : Fl → Cvt
  | .nan => { q := f.nanOut }
  | .inf s => { q := f.pack s f.maxM f.maxE, sat := true }
  | .num s n d e =>
    if n = 0 then { q := b2n s <<< (f.mb + f.eb) }
    else
      let m := f.rnd r n d e
      if f.past m.1 m.2 then { q := f.pack s f.maxM f.maxE, sat := true }
      else { q := f.pack s m.1 m.2 }

/-- Conversion to an integer format of w bits, saturating at ± (2^(w−1) − 1) (R194, R195). -/
def cvtInt (w : Nat) (r : Rnd) : Fl → Cvt
  | .nan => { q := 0, nonfin := true }
  | .inf s => { q := toTwos w (sgnN s (2 ^ (w - 1) - 1)), sat := true }
  | .num s n d e =>
    let p := pow2 e
    let m := r.toInt (n * p.1) (d * p.2)
    if 2 ^ (w - 1) - 1 < m then { q := toTwos w (sgnN s (2 ^ (w - 1) - 1)), sat := true }
    else { q := toTwos w (sgnN s m) }

/-! ### FP32 arithmetic -/

/-- One FP32 rounding with overflow to infinity (R194: intermediate arithmetic). -/
def fl32 : Fl → Fl
  | .nan => .nan
  | .inf s => .inf s
  | .num s n d e =>
    if n = 0 then .num s 0 1 0
    else
      let m := fp32.rnd .rne n d e
      if fp32.past m.1 m.2 then .inf s else .num s m.1 1 m.2

/-- An FP32 value as its word; a NaN is 0x7FC0_0000 (R195). -/
def Fl.w32 (x : Fl) : Nat :=
  match fl32 x with
  | .nan => 0x7FC00000
  | .inf s => b2n s <<< 31 + 0x7F800000
  | .num s n _ e => if n = 0 then b2n s <<< 31 else fp32.pack s n e

/-- The value of an FP32 word. -/
def f32 (w : Nat) : Fl := fp32.dec w

/-- FP32 sum with RNE. -/
def fAdd (a b : Fl) : Fl := fl32 (a.add b)
/-- FP32 difference with RNE. -/
def fSub (a b : Fl) : Fl := fl32 (a.sub b)
/-- FP32 product with RNE. -/
def fMul (a b : Fl) : Fl := fl32 (a.mul b)
/-- FP32 quotient with RNE. -/
def fDiv (a b : Fl) : Fl := fl32 (a.div b)

/-- Integer square root by bisection over k bits. -/
def isqrt (n : Nat) : Nat → Nat → Nat
  | 0, r => r
  | k + 1, r => if (r + 2 ^ k) * (r + 2 ^ k) ≤ n then isqrt n k (r + 2 ^ k) else isqrt n k r

/-- FP32 square root with RNE: the root is taken to 40 bits beyond a binary32 significand with a sticky bit, so it
rounds as the exact root. -/
def fSqrt : Fl → Fl
  | .nan => .nan
  | .inf s => if s then .nan else .inf false
  | .num s n d e =>
    if n = 0 then .num s 0 1 0
    else if s then .nan
    else
      let sh : Int := 130 - log2Q n d
      let sh : Int := if (sh + e) % 2 = 0 then sh else sh + 1
      let p := pow2 sh
      let x := n * p.1 / (d * p.2)
      let r := isqrt x 80 0
      let sticky := r * r < x || n * p.1 % (d * p.2) != 0
      fl32 (.num false (2 * r + b2n sticky) 1 ((e - sh) / 2 - 1))

/-- Clamp between two values. -/
def Fl.clamp (lo hi x : Fl) : Fl := (x.max lo).min hi

/-- Round half up to an integer (R141). -/
def roundHalfUp (x : Fl) : Int := (x.add (.frac 1 2)).floor

/-- Round half to even to an integer, clamped at 0 and a maximum. -/
def rneClamp (hi : Nat) : Fl → Nat
  | .num s n d e =>
    let p := pow2 e
    if s then 0 else Min.min (Rnd.rne.toInt (n * p.1) (d * p.2)) hi
  | .inf false => hi
  | _ => 0

end Sys2Proof.Machine
end

