-- ==== Sys2Proof/Config.lean ====
section
/-!
DEFINITION. Config.lean: what one implementation fixes, and the values the spec leaves free.
An opaque constant here has no body: no proof can see its value, and a claim holds whatever it is.
-/
namespace Sys2Proof

/-- The two parts of Table 00-1 (R4). -/
inductive Part where
  | m48   -- CX960-M48, PART 0x0960
  | m32   -- CX932-M48, PART 0x0932
  deriving DecidableEq, Repr

/-- PART_ID.PART of a part (R50). -/
def Part.code : Part → Nat
  | .m48 => 0x0960
  | .m32 => 0x0932

/-- The part this model is configured as at reset. DESIGN CHOICE (log 3): the spec describes both. -/
def Config.part : Part := .m48

/-- PART_ID.STEPPING and BLK_REV.HW_REV, "per die". DESIGN CHOICE (log 3). -/
def Config.stepping : Nat := 0

/-- Ticks of the 160 MHz timebase in one microsecond (R12). -/
def Config.tUs : Nat := 160

/-- Ticks in one millisecond. -/
def Config.tMs : Nat := 160000

/-- Ticks in one second. -/
def Config.tSec : Nat := 160000000

/-- A byte the spec leaves open, by the free-value counter of State (log 20). -/
opaque Config.freeByte : Nat → BitVec 8

/-- A 32-bit value the spec leaves open, by the free-value counter of State (log 20). -/
opaque Config.freeWord : Nat → BitVec 32

/-- Whether an RS(72,64) sector with five or more wrong bytes is taken for a correctable one
(R418: the code does not guarantee detection), by the free-value counter (log 20). -/
opaque Config.freeMiscorrect : Nat → Bool

/-- A choice among alternatives the spec leaves open, by the free-value counter (log 20). -/
opaque Config.freeChoice : Nat → Nat

/-- RELU of a NaN: the spec defines max(y, 0) on numbers only (R241; log 32). -/
opaque Config.reluNan : BitVec 32

/-- The module serial number of a HELLO (R539); the spec gives no value. -/
opaque Config.serial : BitVec 64

/-- SHA3-512 (FIPS 202) of a byte string: a standard outside the spec (log 10). -/
opaque Config.sha3 : List (BitVec 8) → List (BitVec 8)

/-- SHA3-512 of Olinan's firmware signing key, which the boot ROM holds (R516); the spec gives no value. -/
opaque Config.olinanKey : BitVec 512

/-- Where in the firmware reserve the gap-post headers lie (R432 names them; no offset is stated; log 21). -/
opaque Config.gapOfs : Nat

/-- Where in the firmware reserve the track table lies (R357, R432; log 21). -/
opaque Config.trkTableOfs : Nat

end Sys2Proof
end

