-- ==== Sys2Proof/Machine/State.lean ====
section
/-!
DEFINITION. Machine/State.lean: every piece of state the spec gives the module, as plain data.
Registers that the spec numbers are held as register words in `regs` and `rvs` by page and offset; what has no
register of its own is held in the typed parts below. A register that only shows other state is computed.
-/
namespace Sys2Proof.Machine

/-- Why the machine stops. The spec gives every command an effect or a disposal, and no command stops the block:
the type has no constructor, nobody raises it. -/
inductive Fault
  deriving DecidableEq, Repr

/-- Why a command has no meaning. -/
inductive Refusal where
  /-- Raised by exec's arm of a command whose meaning is not written; safe. -/
  | notModelled (mnemonic : String)
  deriving DecidableEq, Repr

/-! ### Registers and blocks -/

/-- The three stored copies of a voted register (R42). -/
structure Tri where
  a : Word
  b : Word
  c : Word
  deriving DecidableEq, Repr

/-- BLK_READY.STATE (Table 02-6). -/
inductive BlkSt where
  | reset | init | selftest | run | updating | retraining | quiesced | fenced | failed
  deriving DecidableEq, Repr

/-- The header of a page (Table 02-4), but for the registers that never change. -/
structure Blk where
  st : BlkSt := .reset
  degraded : Bool := false
  ctrl : Tri := ⟨0, 0, 0⟩          -- BLK_CTRL, all of whose fields are RV
  fence : Tri := ⟨0, 0, 0⟩         -- BLK_FENCE
  faultCtx : Word := 0              -- BLK_FAULT_CTX
  cnt : Tbl Word := []              -- BLK_EVT_CNT0-7
  irqMask : Word := 0xFFFFFFFF#32
  irqRoute : Word := 0
  voteErr : Word := 0
  status : Word := 0                -- BLK_STATUS bits [22:8] and [3]; bits 0-2 are computed
  codeRev : Nat := 0                -- BLK_REV.CODE_REV
  deriving DecidableEq, Repr

/-- The numbering space of a fault's subject (R491, BLK_FAULT_CTX.SPACE). -/
inductive Subj where
  | ctx (n : Nat)
  | stm (n : Nat)
  | flow (n : Nat)
  | blk
  deriving DecidableEq, Repr

/-! ### Command ports (R104, R134) -/

/-- The nine command ports. -/
inductive Port where
  | flow | stm | scl | car | enc | adapt | ket | upd | peal
  deriving DecidableEq, Repr

/-- A command waiting in a port's queue. -/
structure PCmd where
  op : Nat
  tag : Nat
  idx : Nat
  operand : List Byte
  arrival : Nat        -- timebase value of its arrival (R68)
  deriving DecidableEq, Repr

/-! ### Life cycle (chapter 03) -/

/-- Where the module stands between power and service. -/
inductive Phase where
  | off          -- always-on domain unpowered
  | waitPerst    -- phase A done or failed; PERST_N low, or phase B not started
  | waitB        -- a warm chip reset completed; phase B not started
  | up           -- phase B started
  | stopped      -- orderly stop complete
  | railOff      -- rail fault (R553)
  | tripped      -- thermal trip (R484)
  deriving DecidableEq, Repr

/-- Reset, bring-up and profile state. -/
structure Life where
  phase : Phase := .off
  refclk : Bool := false             -- PE_REFCLK present
  secReady : Bool := false           -- READY_MAP bit 0
  mgtReady : Bool := false           -- READY_MAP bit 1
  recovery : Bool := false           -- the boot ROM's recovery responder runs (R533)
  trained : List Nat := []           -- quads whose training values are kept (R424)
  sel : Nat := 0                     -- PROFILE_SEL[1:0] as sampled
  modId : Nat := 0                   -- MOD_ID[3:0] as sampled (R535)
  profile : Option (List Byte) := none -- the active profile record; none is NO_PROFILE
  source : Nat := 0                  -- PROFILE_ACTIVE.SOURCE
  index : Nat := 0                   -- PROFILE_ACTIVE.INDEX
  validMask : Nat := 0               -- PROFILE_ACTIVE.VALID_MASK
  switchTo : Option (List Byte) := none -- record of a switch awaiting its boundary
  switchAt : Nat := 0                -- timebase value of GO
  groups : Nat := 0                  -- core groups powered (R61)
  leap : Nat := 0                    -- leap seconds received with PTP (R71)
  deriving DecidableEq, Repr

/-! ### Contexts and Carillon (chapter 13) -/

/-- Context states (Table 13-4), with their codes. -/
inductive CtxSt where
  | closed | idle | waiting | running | parked | suspended | held | teardown | faulted | evicting | restoring
  deriving DecidableEq, Repr

/-- A queued invocation (R312, R315): a ring entry, or a trigger post. -/
structure Inv where
  recd : List Byte         -- Table 13-2 record; empty until read from the ring
  arrival : Nat            -- timebase value of arrival
  ring : Bool              -- from the submission ring
  block : Nat := 0         -- gating record's block of a post
  special : Nat := 0       -- 1 a batch step, 2 an adaptation step, 3 a track release; 0 otherwise
  owner : Nat := 0         -- the batch, job or track set of a special invocation
  seq : Nat := 0           -- order of arrival at Carillon
  checked : Nat := 0       -- fault code of the submission check (R226), 0 passed
  full : Bool := false     -- counted as held back by a full completion ring (R314)
  deriving DecidableEq, Repr

/-- Why an eviction was asked for (R330). -/
inductive EvictWhy where
  | slice | displaced | save (addr : Nat) (bytes : Nat) (tag : Nat) | profile
  deriving DecidableEq, Repr

/-- A compute context. -/
structure Ctx where
  st : CtxSt := .closed
  recd : List Byte := []           -- Table 13-1
  ringProd : Word := 0
  ringCons : Word := 0
  cplProd : Word := 0
  cplCons : Word := 0
  queue : List Inv := []           -- waiting invocations, first in first
  cur : Option Inv := none         -- the invocation granted
  cores : List Nat := []           -- physical core of each logical core
  lastCores : List Nat := []       -- cores that ran the context last (R319)
  ended : List Nat := []           -- logical cores whose stream has ended
  acked : List Nat := []           -- cores whose park or scrub is complete
  evict : Option EvictWhy := none  -- eviction requested
  image : Nat := 0                 -- address of the context image
  debt : Nat := 0
  sliceEnd : Nat := 0
  progress : Nat := 0              -- start of the progress window (R498)
  tearAt : Nat := 0                -- start of the teardown
  killed : Bool := false           -- teardown by CTX_KILL or a reset
  code : Nat := 0                  -- fault code of the teardown
  lastStatus : Nat := 0
  lastCode : Nat := 0
  seqNo : Nat := 0                 -- invocations since CTX_OPEN
  lastGrant : Nat := 0
  nDone : Word := 0
  nFault : Word := 0
  nStale : Word := 0
  nTrig : Word := 0
  epoch : Nat := 0                 -- Kettle epoch (R437)
  heldTails : List (Word × Nat) := [] -- doorbells held for Carillon, with arrival (R313)
  scale : List Byte := []          -- scale store snapshot (R324), 16 B per entry
  scaleUpd : Tbl (Nat × Nat × Nat) := [] -- entry -> A_inv, s, level of its committed tensor (R208)
  model : List Byte := []          -- the model entry the invocation was granted with
  cplWait : List (List Byte) := [] -- completions held back by a full ring (log 26)
  want : List Nat := []            -- cores being freed for its head invocation (R319)
  pausedAt : Option Nat := none    -- when a park asked it to pause (R325)
  hdr : List Byte := []            -- mapping list header of the invocation granted
  grantAt : Nat := 0               -- timebase value of the grant of `cur`
  np : Bool := false               -- a park or eviction was asked for inside a non-preemptible unit (R322)
  deriving DecidableEq, Repr

/-- Carillon's own state. -/
structure Car where
  parkedOn : Tbl Nat := []         -- core -> parked context (R328)
  reserved : Tbl Nat := []         -- core -> context it is being freed for (R319)
  deriving DecidableEq, Repr

/-! ### Kettle (chapter 18) -/

/-- One owner entry of a block (R434). -/
structure Own where
  count : Nat
  space : Nat
  epoch : Nat
  id : Nat
  deriving DecidableEq, Repr

/-- A quota entry (R438). -/
structure Quota where
  space : Nat
  cls : Nat
  id : Nat
  limit : Nat
  reserve : Nat
  deriving DecidableEq, Repr

/-- A pool (R430). A block is free when `owners` does not list it. -/
structure KPool where
  log2 : Nat
  region : Nat
  nblocks : Nat
  base : Nat
  metaAt : Nat
  owners : Tbl (List Own) := []
  quota : List Quota := []
  broken : Bool := false
  deriving DecidableEq, Repr

/-- Kettle. -/
structure Kettle where
  pools : Tbl KPool := []
  sweep : List (Nat × Nat) := []   -- blocks the sweep has still to read, (pool, block)
  passAdv : Tbl Nat := []          -- epochs a context has advanced within the sweep pass (R437)
  resv : Option Nat := none        -- address of the firmware reserve (R432)
  lost : List (Nat × Nat) := []    -- ranges of destroyed BROKEN pools, freed by a reset (R439)
  deriving DecidableEq, Repr

/-- A memory channel (chapter 18). -/
structure Chan where
  st : Nat := 0                    -- MC_STATE.STATE
  temp : Nat := 0
  reads : Nat := 0
  openRow : Tbl Nat := []          -- bank -> open row
  retrain : Option Nat := none     -- slices done of a live full training
  prevEye : List Word := []        -- values to return to
  edcRetries : Nat := 0            -- retries in the present 1 ms window (R420)
  edcWindow : Nat := 0             -- start of that window
  patrol : Nat := 0                -- granules read in the present patrol pass
  deriving DecidableEq, Repr

/-! ### PCI Express (chapter 19) -/

/-- An outstanding non-posted request (R455-R457). -/
structure NpReq where
  ctx : Option Nat                 -- the requesting context, if one
  core : Nat := 0                  -- the core and DMA engine it belongs to
  addr : Nat                       -- PCIe address read
  bytes : Nat
  dest : Nat := 0                  -- device address the data goes to
  abandoned : Bool := false
  issued : Nat := 0
  deriving DecidableEq, Repr

/-- The PCIe function. -/
structure Pcie where
  link : Nat := 0                  -- PCIE_LINK.LINK
  width : Nat := 0
  speed : Nat := 0
  dstate : Nat := 0                -- 0 D0, 3 D3hot
  turnOff : Bool := false          -- PME_Turn_Off taken (R464)
  frozen : Bool := false
  cause : Nat := 0                 -- FREEZE_CTL.CAUSE
  aerUnc : Nat := 0                -- AER Uncorrectable Error Status
  aerCor : Nat := 0                -- AER Correctable Error Status
  aerSev : Nat := 0x00462010       -- AER Uncorrectable Error Severity
  hdrLog : List Byte := []         -- AER Header Log of the first error
  hdrOvf : Bool := false           -- Header Log Overflow
  firstErr : Nat := 0              -- AER First Error Pointer
  errEn : Nat := 0                 -- Device Control: ERR_COR, ERR_NONFATAL, ERR_FATAL reporting enabled
  memEn : Bool := false            -- Memory Space Enable, BARs assigned
  msixEn : Bool := false
  fnMask : Bool := false
  tag10 : Bool := false
  extTag : Bool := false
  mps : Nat := 128                 -- Max Payload Size in bytes
  mrrs : Nat := 512                -- Max Read Request Size in bytes
  ctoVal : Nat := 0                -- Completion Timeout Value
  ptmEn : Bool := false
  pmeEn : Bool := false
  pmeStatus : Bool := false
  d3cold : Bool := false           -- PERST_N was asserted from L2/L3 Ready (R464)
  waitWr : List (Nat × List Byte) := [] -- writes to the host range that wait for D0, oldest first (R464)
  wake : Bool := false             -- WAKE_N asserted
  np : Tbl NpReq := []             -- outstanding non-posted requests, by tag
  hold : Tbl Nat := []             -- vector -> end of its hold-off window (R460)
  ltr : Nat := 0                   -- latency tolerance last reported, µs
  hostTraffic : Nat := 0           -- timebase value of the last host-memory traffic
  hostSeen : Bool := false
  deriving DecidableEq, Repr

/-! ### Gong (chapter 20) -/

/-- A low event or swell in progress (R472, R473). -/
structure LowEv where
  t0 : Nat
  extreme : Nat                    -- lowest or highest VIN code
  below : Bool                     -- a sample fell below S
  deep : Bool                      -- a sample fell below 800
  power : Nat                      -- input power at the start, W
  shedOk : Bool := false           -- input power has been at GONG_SHED_W or below since (Table 20-2)
  late : Bool := false             -- it was not so within 50 µs
  deriving DecidableEq, Repr

/-- A run of consecutive samples that meet a condition. -/
structure SRun where
  n : Nat := 0
  t0 : Nat := 0                    -- timebase value of the first
  ext : Nat := 0                   -- extreme VIN code
  pow : Nat := 0                   -- input power of the first, W
  deriving DecidableEq, Repr

/-- Supply, power and thermal policy. -/
structure Gong where
  lo : SRun := {}                  -- samples below S
  pf : SRun := {}                  -- low samples of PWR_FAIL_N
  fin : SRun := {}                 -- samples that end the low event
  hi : SRun := {}                  -- samples above 2,400
  swFin : SRun := {}               -- samples that end the swell
  low : Option LowEv := none
  swell : Option LowEv := none
  recent : List Nat := []          -- code products of the last ten samples, newest first
  sumP : Nat := 0                  -- power samples summed in the 1 ms window, code products
  nP : Nat := 0
  past : Bool := false             -- the last 1 ms window was above the effective cap
  lowWin : Nat := 0                -- consecutive windows with D at 8 or below
  highWin : Nat := 0               -- consecutive windows with D at 64 and P below 0.9 cap
  ripMin : Option Nat := none
  ripMax : Nat := 0
  ripHigh : Nat := 0               -- ripple windows above the limit in a row
  ripLow : Nat := 0                -- ripple windows below 80 % in a row
  shed : Tbl Nat := []             -- stream -> shed level
  order : List Nat := []           -- streams in the order of their shedding, newest first
  shedAt : Nat := 0                -- timebase value of the last shed or restore
  hotMs : Nat := 0                 -- ms at or above 95 °C
  coolMs : Nat := 0
  limitMs : Nat := 0               -- ms at or above 105 °C
  trip : Bool := false             -- THERM_TRIP_N asserted
  rail : Bool := false             -- RAIL_FAULT reported
  stopCause : Nat := 0             -- 1 supply, 2 swell, 3 POWER_OFF, 4 thermal
  okFrom : Option Nat := none      -- since when every sample after a stop is at S + 20 or more (R478)
  log : Tbl (List Byte) := []      -- Table 20-6 entries, by i mod 256
  stopAt : Nat := 0                -- timebase value at which the orderly stop began
  pdQueue : List (Nat × Nat) := [] -- domains whose switch-on Gong holds, with the request's source (R62, R479)
  railShed : Nat := 0              -- DISPATCH_HOLD set by Gong on decoders, one bit each
  flashLog : List (List Byte) := [] -- stop log in flash (R477)
  deriving DecidableEq, Repr

/-! ### Tocsin and the timebase (chapters 21, 04, 24) -/

/-- A reset in progress (R500). -/
structure Rst where
  level : Nat
  page : Nat                       -- unit's page for level 2
  parts : Nat                      -- partitions for level 3
  start : Nat
  wasReady : List Nat              -- functions that were READY before
  deriving DecidableEq, Repr

/-- Tocsin. -/
structure Toc where
  log : Tbl (List Byte) := []      -- Table 21-4 records, by k mod 1,024
  fleet : List Nat := []           -- times of the last 15 warm chip resets, newest first
  oos : Bool := false              -- out of service, in flash
  fences : Tbl Nat := []           -- page -> timebase value at which its fence was set
  rsts : List Rst := []            -- resets in progress
  hist2 : Tbl (List Nat) := []     -- page -> times of its level-2 resets
  hist3 : Tbl (List Nat) := []     -- partition -> times of its level-3 resets
  nocLast : Tbl Nat := []          -- page -> time of the last NoC timeout against it
  waitRst : List (Nat × Nat × Nat) := [] -- (level, parts, cause) waiting for a low event's end (R479)
  deriving DecidableEq, Repr

/-- The timebase and SYNC_IO. -/
structure Tb where
  t : BitVec 64 := 0
  freq : Int := 0                  -- frequency correction, parts per 10^12
  lastSync : Nat := 0              -- timebase value of the last Sync message
  pulseEnd : Nat := 0              -- end of the pulse on SYNC_IO
  lastEdge : Option Nat := none    -- timebase value of the last edge produced
  deriving DecidableEq, Repr

/-! ### Security and update (chapter 22) -/

/-- Update engine states (Table 22-6). -/
inductive UpdSt where
  | idle | verifying | staged | activating | pending | committing
  deriving DecidableEq, Repr

/-- The owner record (R532). -/
structure OwnerRec where
  keyHash : Nat
  seq : Nat
  deriving DecidableEq, Repr

/-- The security block, the flash and the update engine. -/
structure Sec where
  image : Option Bundle := none    -- the flash image; none is an invalid one
  owner : Option OwnerRec := none
  profs : Tbl FlashProf := []      -- profile slots 0-3
  ctrs : Tbl Nat := []             -- monotonic counters 0-7
  ctrRefused : Bool := false       -- the flash refuses authenticated reads (R524)
  wpLow : Bool := false            -- FLASH_WP_N low
  booted : Option Bundle := none   -- the image that was booted
  running : Tbl Comp := []         -- the running component of each TYPE 1-5
  st : UpdSt := .idle
  copy : List Byte := []           -- the staging area's copy of the bundle
  staged : Option Bundle := none
  todo : List Nat := []            -- TYPEs still to activate, or to reload
  active : Nat := 0                -- UPD_STATE.ACTIVE
  reload : Bool := false           -- ACTIVATING reloads the committed components (ABANDON)
  cur : Option Nat := none         -- tag of the port command in progress
  thenCommit : Bool := false       -- PLDM ActivateFirmware: COMMIT follows (R521)
  pct : Nat := 0
  imageInvalid : Bool := false
  aliasOk : Bool := false          -- the alias certificate is signed
  spdmNeg : Tbl Nat := []          -- path -> SPDM steps negotiated
  deriving DecidableEq, Repr

/-! ### Peal (chapter 23) -/

/-- An outbound migration (R541). -/
structure MigOut where
  stm : Nat
  peer : Nat
  dst : Nat
  tag : Nat
  phase : Nat := 0                 -- 0 offered, 1 accepted and freezing, 3 done sent, 4 forwarding
  pkg : Nat := 0                   -- landing offset of the package, 64 KiB units
  refs : List Nat := []            -- landing offsets of the references
  lands : List Nat := []           -- landing offsets free for access units
  deriving DecidableEq, Repr

/-- An inbound migration. -/
structure MigIn where
  stm : Nat
  peer : Nat
  src : Nat
  phase : Nat := 0                 -- 0 accepted, 1 adopted, 2 source live
  pkg : Nat := 0                   -- device address of the package block
  refs : List Nat := []
  lastStamp : Nat := 0             -- capture stamp of the last forwarded access unit
  deriving DecidableEq, Repr

/-- A peer (R539, R540). -/
structure Peer where
  st : Nat := 0                    -- Table 23-3 code
  cause : Nat := 0
  hb : Nat := 0                    -- last heartbeat value seen
  hbAt : Nat := 0                  -- timebase value at which it changed
  prod : Nat := 0                  -- messages written to the peer
  taken : Nat := 0                 -- messages of the peer consumed
  seq : Nat := 0
  sent : Bool := false             -- HELLO sent since the peer was DOWN
  got : Bool := false              -- HELLO received
  digest : List Byte := []         -- of the peer's TYPE 2 component, from its HELLO
  waitQ : List (List Byte) := []   -- messages waiting for ring space
  deriving DecidableEq, Repr

/-- Peal. -/
structure Peal where
  peers : Tbl Peer := []
  expect : Tbl (Nat × Nat) := []   -- destination stream -> (source module, source stream)
  migOut : Option MigOut := none
  migIn : Option MigIn := none
  migQ : List (Nat × Nat × Nat × Nat) := [] -- waiting MIGRATEs: stm, peer, dst, tag
  handoff : Option (Nat × Nat) := none -- outstanding handoff: peer, result tag
  deriving DecidableEq, Repr

/-! ### Ingest (chapter 04) -/

/-- A packet held in a jitter buffer (R94); its payload lies in its blocks from byte 32 of the first. -/
structure Held where
  ext : Nat            -- packet index of R91, whose low 16 bits are the sequence number
  ts : Nat             -- RTP timestamp
  arrival : Nat        -- arrival stamp (R99)
  marker : Bool
  len : Nat            -- payload bytes
  blocks : List Nat
  deriving DecidableEq, Repr

/-- A released frame whose access unit is being written (R98). -/
structure Rel where
  pkts : List Held     -- packets up to the first gap
  blk : Nat            -- block of BS_POOL
  stamp : Nat          -- capture stamp (R100)
  src : Nat            -- STAMP_SRC
  damaged : Bool
  stm : Nat
  deriving DecidableEq, Repr

/-- A flow (R86-R105). -/
structure Flow where
  st : Nat := 0                    -- Table 04-7 STATE
  recd : List Byte := []           -- Table 04-2
  keyA : Nat := 0
  keyB : Nat := 0xFFFF
  sw : Nat := 0                    -- SWITCH_INDEX
  ssrc : Nat := 0
  learnt : Bool := true            -- false while an SSRC is to be learnt
  relearn : Bool := false          -- RELEARN_SSRC awaits the next authenticated packet
  sr : Option (Nat × Nat) := none  -- SR_RTP_TS, SR_TB
  hi : Option Nat := none          -- highest accepted packet index
  seen : List Nat := []            -- accepted indices of the replay window
  stray : Option Nat := none       -- sequence number of the stray just before
  relNext : Option Nat := none     -- index after the last released frame
  relTs : Option Nat := none       -- RTP timestamp of a frame released by its window before it ended (R95)
  held : List Held := []           -- by rising index
  writing : List Rel := []         -- frames being depacketised, oldest first
  closing : Option Nat := none     -- tag of a CLOSE that waits for the access unit in writing
  accepted : Nat := 0
  lastArr : Nat := 0
  lost : Nat := 0                  -- CUM_LOST
  lastTs : Option Nat := none      -- RTP timestamp of the packet that arrived at lastArr (RFC 3550 A.8)
  jitter : Nat := 0                -- RFC 3550 A.8 estimate, scaled by 16
  stampSrc : Nat := 0
  cnt : Tbl Word := []             -- counts at 0x24 + 4i of Table 04-7
  deriving DecidableEq, Repr


/-! ### Decode (chapter 05) -/

/-- An access unit in a decode queue (R114). -/
structure Au where
  addr : Nat
  len : Nat
  stamp : Nat                      -- capture stamp
  entry : Nat                      -- Q of R122
  damaged : Bool := false          -- marked DAMAGED by ingest (R98)
  block : Nat := 0                 -- bitstream block claimed for the stream, 0 for a SUBMIT
  sample : Nat := 0                -- sample index of a SUBMIT
  intr : Nat := 0                  -- times its decode was interrupted (R127)
  landed : Bool := false           -- forwarded by a peer (R542)
  src : Nat := 0                   -- STAMP_SRC (R100)
  deriving DecidableEq, Repr

/-- A picture of a stream: in the DPB, or passed on. -/
structure Pic where
  frameNo : Nat
  blk : Nat                        -- picture block
  map : Nat                        -- map block
  isRef : Bool := true
  dmg : Bool := false              -- concealed
  taint : Bool := false            -- tainted (R129)
  staleRef : Bool := false         -- STALE_REF (R24)
  isAlias : Bool := false
  stamp : Nat := 0
  src : Nat := 0                   -- STAMP_SRC
  w : Nat := 0                     -- displayed size
  h : Nat := 0
  cw : Nat := 0                    -- coded size
  ch : Nat := 0
  deriving DecidableEq, Repr

/-- A stream context. -/
structure Stm where
  st : Nat := 0                    -- Table 05-12 STATE
  recd : List Byte := []           -- Table 05-3
  prio : Nat := 0                  -- effective priority
  queue : List Au := []
  dpb : List Pic := []             -- oldest first
  dec : Option Nat := none         -- decoder with the frame in decode
  picBlk : Option Nat := none      -- blocks allocated for the next frame (R118)
  mapBlk : Option Nat := none
  curW : Nat := 0
  curH : Nat := 0
  frames : Word := 0
  consumed : Word := 0
  cnt : Tbl Word := []             -- the ten counts of Table 05-12
  lastStamp : Nat := 0
  expiries : List Nat := []        -- last expiries, newest first (R123)
  inWin : Nat := 0                 -- consecutive frames inside their windows
  params : List (List Byte) := []  -- SET_PARAMS not yet applied
  limitBad : Bool := false         -- the active parameter set is above the maxima (R131)
  moveWait : Bool := false         -- awaiting a profile-switch move
  frameNo : Nat := 0               -- next FRAME_NO
  started : Bool := false          -- a picture has been decoded since OPEN or FLUSH
  ending : Option (Nat × Nat) := none -- CLOSE (2) or FLUSH (6) waiting for the frame in decode, with its tag
  migHold : Bool := false          -- held by a migration (R541)
  deriving DecidableEq, Repr

/-- A decoder's frame in decode. -/
structure Job where
  stm : Nat
  au : Au
  hdr : AuHdr
  pic : Nat                        -- picture block
  map : Nat                        -- map block
  frameNo : Nat
  grantAt : Nat
  extraDmg : Bool := false         -- concealed whole (R127)
  bound : Bool := false            -- a coding block hit the cycle bound (R126)
  stale : Bool := false            -- a stale reference picture: decoded, not passed on (R18)
  taint : Bool := false            -- it has a concealed, substituted or tainted reference (R129)
  staleRef : Bool := false         -- dependent of a stale reference (R24)
  evs : List Nat := []             -- stream events the frame has raised (R128)
  deriving DecidableEq, Repr

/-- A decoder. -/
structure Dec where
  job : Option Job := none
  row : Nat := 0
  lastStm : Nat := 1024            -- stream it ran before, 1,024 none
  deriving DecidableEq, Repr

/-- What became of an adaptation sample that was submitted to a stream (R405, R406). -/
structure AdIn where
  stm : Nat
  sample : Nat
  cause : Nat          -- 0 decoded; 1 budget; 2 concealed; 3 rejected
  pic : Nat := 0       -- its blocks, claimed for the adaptation controller
  map : Nat := 0
  deriving DecidableEq, Repr

/-! ### Gating and scaling (chapter 06) -/

/-- Gate configuration and standing list of a stream. -/
structure Gate where
  recd : List Byte := []           -- Table 06-4, empty until GATE_SET
  list : List (List Byte) := []    -- standing crop entries (R564)
  no : Nat := 0                    -- GATE_NO of the next gated frame
  whole : Bool := true             -- next frame is the first, or follows GATE_RESET
  size : Option (Nat × Nat) := none -- WIDTH and HEIGHT of the last gated frame
  age : Tbl Nat := []              -- AGE of R149
  pend : List (Nat × Nat × List Nat) := [] -- FRAME_NO, stamp and processed tiles of frames at their detector (R150)
  prev : Option Nat := none        -- FRAME_NO of the previous frame passed on (R365)
  procd : Nat := 0                 -- Table 06-9
  carried : Nat := 0
  last : Nat := 0
  frames : Word := 0
  wholes : Word := 0
  fallback : Word := 0
  boxOvf : Word := 0
  dropped : Word := 0
  cropLimit : Word := 0
  deriving DecidableEq, Repr

/-- A passed-on picture that the scaler holds a claim on (R22, R147). -/
structure SFrame where
  stm : Nat
  frameNo : Nat
  pic : Nat
  map : Nat
  stamp : Nat
  cluster : Nat
  w : Nat := 0                     -- displayed size
  h : Nat := 0
  cw : Nat := 0                    -- coded size
  ch : Nat := 0
  depth : Nat := 8
  list : List (List Byte) := []    -- standing list in force at scaler start
  phase : Nat := 0                 -- 0 before scaler start, 1 list runnable, 2 list complete
  runAt : Nat := 0                 -- when the list became runnable
  taken : Nat := 0                 -- standing entries taken
  ended : Nat := 0                 -- standing entries completed or refused
  jobs : Nat := 0                  -- job entries received
  gateBlk : Option Nat := none     -- block of the gating record
  gateRec : List Byte := []        -- the record as decided
  outAddr : Tbl Nat := []          -- destination of standing entry i
  deriving DecidableEq, Repr

/-- An entry held by a scaler pipe. -/
structure PipeEnt where
  fr : SFrame                      -- the frame it reads
  ring : Option Nat                -- cluster × 8 + ring of a job entry
  job : Nat := 0                   -- number of the job in its ring's counter units
  idx : Nat                        -- entry number in its list or job
  recd : List Byte                 -- Table 06-2
  dest : Nat
  keep : Option Nat                -- block of the keep copy
  deriving DecidableEq, Repr

/-- A job that a ring has started (R145). -/
structure RJob where
  no : Nat                         -- its slot in counter units
  hdr : List Byte                  -- Table 06-3
  addr : Nat                       -- address of its slot
  runAt : Nat                      -- when it became runnable
  prio : Nat := 0                  -- effective priority of its stream
  fr : Option SFrame := none       -- the frame it names
  n : Nat := 0                     -- entries to run
  taken : Nat := 0
  ended : Nat := 0
  okN : Nat := 0
  refused : Option (Nat × Nat) := none -- first refused entry and its field
  damaged : Bool := false
  code : Nat := 0                  -- RESULT, where it is not that of its entries
  deriving DecidableEq, Repr

/-! ### Streams, engines and cores (chapters 07-12) -/

/-- An accumulator slot (R173): entries by row × 256 + column, the checksum row by column, the checksum column by
row × 8 + problem; and what the pass that wrote it last records for the drain (R182, R205, R263, R266). -/
structure Slot where
  ent : Tbl Nat := []
  chkRow : Tbl Nat := []
  chkCol : Tbl Nat := []
  fp : Bool := false               -- FP32 entries
  sIn : Nat := 0x3F800000          -- scale recorded with the passes' input tensor
  acc : Bool := false              -- its checksum column is kept
  bs : Nat := 0                    -- block size of a CPASS, 0 of another pass
  pack : Nat := 1                  -- problems of the pass
  deriving DecidableEq, Repr

/-- A shadow slot in use (R174): by a tag 0-7, or by a wide hold (8). -/
structure Shad where
  arch : Nat
  phys : Nat
  who : Nat
  deriving DecidableEq, Repr

/-- A logical engine of a logical core. -/
structure LEng where
  ren : Tbl Nat := []              -- architectural slot -> physical slot, where it is not its own number
  slots : Tbl Slot := []           -- physical slots written since their last scrub
  shad : List Shad := []
  deriving DecidableEq, Repr

/-- A descriptor issued and not complete, or held. -/
structure Iss where
  addr : Nat                       -- its device address
  d : List Byte                    -- its 64 bytes
  idx : List Nat := [0, 0, 0]      -- IDX1-IDX3 at its issue
  tag : Option Nat := none
  prog : Nat := 0                  -- passes of a PPASS or CPASS done, groups a PPASS's DRAIN has drained
  units : Nat := 0                 -- read requests a DMA has made
  begun : Bool := false            -- a pass executing or loading
  lease : Option (Nat × Nat) := none -- (counter, value) that closes when it completes
  iter : Nat := 0                  -- CLAIM iteration
  got : List Nat := []             -- parts whose RESHARD portion has arrived here
  wide : Bool := false             -- a pass held for a possible wide re-run (R174)
  since : Nat := 0                 -- timebase value of its issue
  pp : Option (Nat × List Byte × List Nat) := none -- the PPASS that a DRAIN follows: address, bytes, IDX
  deriving DecidableEq, Repr

/-- A speculation tag (Table 12-2); STATE as SPEC_TAGn shows it. -/
structure STag where
  st : Nat := 0
  verdict : Nat := 0
  code : Nat := 0
  desc : Nat := 0
  closed : Bool := false           -- its closing descriptor has acted
  surface : Bool := false          -- FAULT_SPEC_DEFERRED follows its squash
  deriving DecidableEq, Repr

/-- A CLAIM loop (R252). -/
structure Claim where
  ctr : Nat
  lease : Bool
  body : Nat                       -- address of the first body descriptor
  stop : Nat                       -- address behind the body
  step : Nat
  limit : Nat
  mul : List Nat
  val : Option Nat := none         -- value of the iteration
  due : Bool := true               -- a take is to be served
  iter : Nat := 0
  deriving DecidableEq, Repr

/-- A WAIT in progress (R250). -/
structure Wait where
  clave : Bool
  lc : Nat
  ctr : Nat
  thresh : Word
  since : Nat
  budget : Nat                     -- ticks
  deriving DecidableEq, Repr

/-- A drain group whose quantise inputs are kept (R207, R212). -/
structure Grp where
  entry : Nat
  iss : Iss                        -- its DRAIN
  q : Nat := 0                     -- group of a PPASS
  bs : Nat := 0                    -- block size of a CPASS's output
  pack : Nat := 1
  vals : List (List Nat)           -- FP32 words, by row
  level : Nat := 0
  a : Nat := 0                     -- A_g
  crossed : Bool := false
  staged : Bool := false           -- its scale is that of every group staged (R207)
  closed : Bool := false           -- step 5 of Table 08-4 is reached; its tag's commit is awaited
  deriving DecidableEq, Repr

/-- The sequencer of one logical core of a context, with all that belongs to the logical core. -/
structure Seq where
  core : Nat := 0                  -- physical core
  base : Nat := 0                  -- address of the stream
  stop : Nat := 0                  -- address behind its last descriptor
  pc : Nat := 0
  st : Nat := 0                    -- SEQ_STATE.STATE
  idx : List Nat := [0, 0, 0]
  rrc : Tbl Word := []
  handles : Tbl (List Byte) := []  -- Table 11-2 entries
  tags : Tbl STag := []
  held : List Iss := []
  issued : List Iss := []          -- oldest first
  claim : Option Claim := none
  wait : Option Wait := none
  barrier : Option (Nat × Nat) := none -- BARRIER_ID reached, and when
  ended : Bool := false
  np : Bool := false               -- the last descriptor issued belongs to a non-preemptible unit
  skip : List Nat := []            -- descriptors that DONE_MASK marks
  heldAt : Option (Nat × Nat) := none -- the descriptor held for its core or engine, and since when (R68)
  engs : Tbl LEng := []
  grps : List Grp := []
  ppass : Option Iss := none       -- a PPASS issued, whose DRAIN must follow
  progAt : Tbl Nat := []           -- address -> pass index at which a PPASS or CPASS resumes
  deriving DecidableEq, Repr

/-- A physical engine: what it holds for no context. -/
structure Eng where
  inject : Option (Nat × Nat) := none -- armed injection: KIND, DPU (R189)
  deriving DecidableEq, Repr

/-- A physical core's scratchpad (R285-R287): its contents stand in device memory. -/
structure CoreSt where
  pend : List (Nat × Nat) := []    -- PENDING rows, as ranges [a, b)
  pendAt : Nat := 0                -- when the first of them was marked
  st : Nat := 0                    -- SP_STATE.STATE: 1 kill scrub, 3 retained; 0 otherwise
  who : Nat := 0                   -- SP_STATE.CTX
  rows : List (Nat × Nat) := []    -- rows that the kill scrub or the retention covers
  late : List (Nat × List Byte) := [] -- BAR2 writes that wait for the end of the kill scrub, oldest first (R285)
  deriving DecidableEq, Repr


/-! ### Batches (chapter 14) -/

/-- A sequence in a slot of a batch. -/
structure SeqSlot where
  tag : Nat                        -- USER_TAG
  prompt : Nat
  plen : Nat                       -- PROMPT_LEN
  maxNew : Nat
  stm : Nat
  cap : Nat                        -- CAPTURE
  joinStep : Nat
  len : Nat := 0
  logits : Nat := 0                -- LOGITS records since the join
  lastStep : Nat := 0              -- step of its latest LOGITS record
  last : Nat := 0                  -- REASON of a LOGITS record that carried LAST
  ans : Option (Nat × Bool) := none -- the host's answer: TOKEN, END
  parked : Bool := false
  newPark : Bool := false          -- it first parks in the step planned
  resumed : Bool := false          -- its next LOGITS record carries RESUMED
  wait : Bool := false             -- WAIT_TOKEN at the last planning
  ended : Bool := false            -- SEQ_END
  pages : List Nat := []
  hist : List Nat := []            -- returned tokens, oldest first
  parkSteps : Nat := 0
  deriving DecidableEq, Repr

/-- A row of a planned step. -/
structure BRow where
  slot : Nat
  join : Bool
  deriving DecidableEq, Repr

/-- A batch. -/
structure Batch where
  st : Nat := 0                    -- Table 14-9 code
  recd : List Byte := []           -- Table 14-1
  lists : List Byte := []          -- list table, 32 B per entry
  plan : Nat := 0                  -- plan block
  out : Nat := 0                   -- output block
  null : Nat := 0                  -- null page
  slots : Tbl SeqSlot := []
  step : Nat := 0                  -- last committed step
  startAt : Nat := 0               -- start of the last step
  commitAt : Nat := 0              -- commit of the last step
  tokOver : Bool := true           -- its token-wait window has ended, or it had no LOGITS record
  cadOver : Bool := true           -- its CADENCE_US has passed
  joinCons : Nat := 0              -- join entries consumed
  joinFrom : Nat := 0              -- joinCons before the step planned
  rows : List BRow := []           -- rows of the step planned
  left : List (List Byte) := []    -- its LEFT records
  rejects : List (List Byte) := [] -- its JOIN_REJECTED records
  texts : List (Nat × List Byte) := [] -- its TEXT records, with their stm
  parkedN : Nat := 0
  waitN : Nat := 0
  rowsN : Nat := 0
  stepMax : Nat := 0
  closing : Option Nat := none     -- tag of a BATCH_CLOSE that waits for the step in flight
  full : Bool := false             -- a wait for logit ring space is counted
  deriving DecidableEq, Repr

/-! ### Tracking and output (chapter 15) -/

/-- A frame registered in a set's order stage (R360). -/
structure TrkEnt where
  frameNo : Nat
  stamp : Nat
  seq : Nat                        -- order of passing on
  post : Option Nat := none        -- address of the post block or of the gap header
  gap : Nat := 0                   -- GAP, 0 for a frame
  src : Nat := 0                   -- STAMP_SRC
  postAt : Nat := 0                -- timebase value of its post
  deriving DecidableEq, Repr

/-- A track set. -/
structure TrkSet where
  recd : List Byte := []           -- Table 15-1; empty before TRACK_SET
  ents : List TrkEnt := []
  passed : Nat := 0                -- frames passed on since TRACK_SET
  busy : Option TrkEnt := none     -- entry released whose update has not completed
  since : Nat := 0                 -- entries released since the last update
  ending : Bool := false           -- ENABLE 0 waits for the update in progress
  reorder : Nat := 0               -- reorder depth r of the active parameter set
  size : Nat × Nat := (0, 0)       -- displayed size of the last picture passed on
  cfg : List Byte := []            -- record in force for the entry released
  nextId : Nat := 1                -- next TRACK_ID
  refused : Nat := 0               -- births refused
  lastStamp : Nat := 0             -- stamp and FRAME_NO of the last entry processed
  lastFrame : Nat := 0
  deriving DecidableEq, Repr

/-- An outlet (R369-R372). -/
structure Outlet where
  recd : List Byte := []           -- Table 15-9
  seq : Nat := 0                   -- record count
  unsig : Nat := 0                 -- ring records not yet signalled
  unsigAt : Nat := 0               -- timebase value of the first of them
  dgram : List (List Byte) := []   -- records of the datagram being assembled
  dgramAt : Nat := 0
  dgramSeq : Nat := 0
  rate : Nat := 0                  -- bytes sent in the present 1 ms window
  deriving DecidableEq, Repr


/-! ### Evidence (chapter 16) -/

/-- A picture of an armed stream's window (R377). -/
structure WinPic where
  frameNo : Nat
  pic : Nat
  map : Nat
  stamp : Nat
  w : Nat
  h : Nat
  conc : Bool
  updated : Bool                   -- its track update has completed
  left : Bool := false             -- it has left the pre-roll window
  rep : Bool := false              -- an alias or repeated picture
  boxes : List (List Byte) := []   -- OBJECT records of its update (R389)
  deriving DecidableEq, Repr

/-- A clip in progress. -/
structure Clip where
  enc : Nat
  cfg : List Byte                  -- evidence record in force at its start
  out : Nat                        -- OUT_POOL block
  work : List Nat                  -- WORK_POOL blocks
  trig : Nat                       -- capture stamp of the trigger
  trackId : Nat
  todo : List WinPic               -- pictures of the clip not yet encoded, in order
  more : Nat                       -- pictures still to come after those in the window
  total : Nat := 0                 -- pictures bound to the clip
  done : Nat := 0                  -- pictures encoded
  bytes : Nat := 0                 -- bitstream bytes
  conc : Nat := 0
  capped : Nat := 0
  first : Nat := 0
  lastStamp : Nat := 0
  carry : Int := 0                 -- D of R385
  qp : Nat := 0                    -- QP at which the next picture starts
  period : Nat := 0                -- frame period at its start, ticks
  deriving DecidableEq, Repr

/-- A snapshot waiting for an encoder. -/
structure Snap where
  stm : Nat
  pic : WinPic
  trackId : Nat
  trig : Nat
  region : List Nat                -- x, y, w, h
  out : Nat                        -- OUT_POOL block
  cap : Nat                        -- JPEG_CAP
  deriving DecidableEq, Repr

/-- Evidence state of a stream. -/
structure Evid where
  recd : List Byte := []           -- Table 16-2; empty or ENABLE 0 when disarmed
  window : List WinPic := []       -- oldest first
  clip : Option Clip := none
  snapped : List Nat := []         -- TRACK_IDs already snapshotted by rule
  deriving DecidableEq, Repr

/-- What an encoder encodes. -/
inductive EncJob where
  | clip (stm : Nat) (pic : WinPic) (target : Nat)
  | snap (sn : Snap)
  deriving DecidableEq, Repr

/-- An encoder. -/
structure Enc where
  job : Option EncJob := none
  row : Nat := 0
  deriving DecidableEq, Repr


/-! ### Site adaptation (chapter 17) -/

/-- A position of a step being loaded (R402, R406). -/
structure APos where
  orig : Nat                       -- original index
  idx : Nat                        -- index tried or loaded; 0xFFFF_FFFF for an empty position
  st : Nat := 0                    -- 0 to be loaded; 1 submitted; 2 loaded; 3 empty
  tried : Nat := 0                 -- substitutes tried
  cause : Nat := 0                 -- why the original failed
  pic : Nat := 0
  map : Nat := 0
  flags : Nat := 0                 -- log FLAGS
  ent : List Byte := []            -- its sample entry, once loaded
  deriving DecidableEq, Repr

/-- An adaptation job. -/
structure AJob where
  st : Nat := 0                    -- Table 17-7 code
  recd : List Byte := []           -- Table 17-5
  step : Nat := 0                  -- STEP
  blks : List Nat := []            -- its two step blocks
  pos : List APos := []            -- positions of the step being loaded
  loading : Bool := false          -- a load is in progress or done and not queued
  loadStep : Nat := 0              -- the step that `pos` is of
  failed : List Nat := []          -- indices that failed in the step being loaded
  run : Bool := false              -- a step invocation is queued or running
  runPos : List APos := []         -- its positions
  subs : Nat := 0                  -- substitutions logged
  stop : Nat := 0                  -- last stop cause
  stopReq : Option Nat := none     -- tag of an ADAPT_STOP that waits for the step in progress
  spaceWait : Bool := false        -- a wait for log space is counted
  deriving DecidableEq, Repr


/-! ### What the outside sees -/

/-- Something the module sends out (log 9). -/
inductive Out where
  | msix (vec : Nat) (addr : Nat) (data : Nat)   -- an MSI-X message (R459)
  | pme                                          -- a PM_PME message (R465)
  | mctp (report : Nat) (detail : Nat)           -- a report to the tray controller over MCTP
  | pcie (kind : Nat) (detail : Nat)             -- a PCIe message or completion status
  | data (bytes : List Byte)                     -- data returned to a requester
  | frame (port : Nat) (bytes : List Byte)       -- a transmitted Ethernet frame
  | spdm (path : Nat) (code : Nat) (body : List Byte) -- an SPDM response; a PLDM response on path 0x100 + TYPE
  deriving DecidableEq, Repr

/-- The whole state of the module. -/
structure State where
  pending : List Instr := []
  part : Part := Config.part
  tb : Tb := {}
  blks : Tbl Blk := []             -- page -> header
  regs : Tbl Word := []            -- page × 0x1_0000 + offset -> register word, where it differs from reset
  rvs : Tbl Tri := []              -- the same for voted registers
  latch : Tbl Word := []           -- latched HI halves and READY_MAP1-3 (R30, R70)
  ports : Tbl (List PCmd) := []    -- port -> queue
  life : Life := {}
  mem : List Host.Cell := []       -- device memory: GDDR6 and scratchpads
  pcieMem : List Host.Cell := []   -- memory beyond the PCIe link that the module wrote or may read
  ecc : Tbl (List (Nat × Byte)) := [] -- sector -> wrong bytes among its 72 (position, difference)
  ctxs : Tbl Ctx := []
  models : Tbl (List Byte) := []   -- Table 13-6 entries
  car : Car := {}
  ket : Kettle := {}
  chans : Tbl Chan := []
  pcie : Pcie := {}
  gong : Gong := {}
  toc : Toc := {}
  sec : Sec := {}
  peal : Peal := {}
  flows : Tbl Flow := []
  keys : Tbl (List Byte) := []     -- key slots; a slot not listed is empty
  portMode : Tbl Word := []        -- cage -> PORT_CTRL value in force (R80)
  excWin : Tbl Nat := []           -- logical port -> packets passed in its one-second window
  stms : Tbl Stm := []
  decs : Tbl Dec := []
  adaptIn : List AdIn := []        -- what became of submitted adaptation samples, not yet taken (R405, R406)
  gates : Tbl Gate := []
  sframes : List SFrame := []      -- in the order of their passing on
  pipes : Tbl PipeEnt := []        -- cluster × 8 + pipe
  rjobs : Tbl (List RJob) := []    -- cluster × 8 + ring -> started jobs, in slot order
  ringAt : Tbl (List Nat) := []    -- cluster × 8 + ring -> when each slot not yet started became runnable
  clave : Tbl Word := []           -- the 256 Clave counters (R251)
  claveLast : Tbl Word := []       -- CLAVE_LASTn
  leases : List (Nat × Nat × Nat × Nat) := [] -- open leases: counter, value, context, logical core
  returns : Tbl (List Nat) := []   -- return lists (R252)
  seqs : Tbl Seq := []             -- context × 64 + logical core
  engs : Tbl Eng := []             -- engine 4c + e
  cores : Tbl CoreSt := []
  batches : Tbl Batch := []
  sets : Tbl TrkSet := []
  outlets : Tbl Outlet := []
  staging : List (Nat × List Byte) := [] -- (outlet, record) waiting for the outlet engine, oldest first
  stageAt : Option Nat := none     -- since when EMIT waits for staging space (R371)
  fwBlk : Nat := 0                 -- next free 64-byte header of the firmware area's gap headers
  evids : Tbl Evid := []
  encs : Tbl Enc := []
  snaps : List Snap := []          -- snapshots in trigger order
  encCpl : List (List Byte) := []  -- completion entries held back by a full ring (R390)
  ajobs : Tbl AJob := []
  out : List Out := []             -- what the module has sent, newest first (log 9)
  free : Nat := 0                  -- free values taken so far (log 20)
  deriving DecidableEq, Repr

/-- The module at reset: power has just been applied and nothing has run. Every register not listed reads its
reset value; memory lists nothing; the queue is empty. -/
def State.reset : State := {}

end Sys2Proof.Machine
end

