-- ==== Sys2Proof/Machine/Ops.lean ====
section
/-!
DEFINITION. Machine/Ops.lean: the named operations every command is built from: register storage and voting,
block headers, counters and interrupts, device memory, the fault log, and raising a fault.
-/
namespace Sys2Proof.Machine

/-! ### Pages (Table 02-1) -/

/-- The present value of the timebase, in ticks. -/
def now (s : State) : Nat := s.tb.t.toNat

/-- Reserved pages (R29). -/
def pageReserved (p : Nat) : Bool :=
  (0x005 ≤ p && p ≤ 0x00F) || (0x122 ≤ p && p ≤ 0x127) || (0x12C ≤ p && p ≤ 0x12F) ||
  (0x134 ≤ p && p ≤ 0x13F) || (0x161 ≤ p && p ≤ 0x16F) || (0x173 ≤ p && p ≤ 0x17F) ||
  (0x182 ≤ p && p ≤ 0x18F) || (0x192 ≤ p && p ≤ 0x19F) || (0x1A1 ≤ p && p ≤ 0x1AF) ||
  (0x1B3 ≤ p && p ≤ 0x1BF) || (0x1C1 ≤ p && p ≤ 0x1CF) || (0x1D1 ≤ p && p ≤ 0x1DF) ||
  (0x1E1 ≤ p && p ≤ 0x1EF) || (0x1F1 ≤ p && p ≤ 0x1FF) || (0x204 ≤ p)

/-- Pages of the MSI-X table and PBA, which carry no header (R29, R458). -/
def pageMsix (p : Nat) : Bool := 0x200 ≤ p && p ≤ 0x203

/-- Block type code and instance of a header page (Table 02-5). -/
def pageType (p : Nat) : Nat × Nat :=
  if p ≤ 0x00F then (0x0001, p)
  else if p ≤ 0x03F then (0x0010, p - 0x010)
  else if p ≤ 0x0FF then (0x0011, p - 0x040)
  else if p ≤ 0x11F then (0x0020, p - 0x100)
  else if p ≤ 0x121 then (0x0021, p - 0x120)
  else if p ≤ 0x12B then (0x0022, p - 0x128)
  else if p ≤ 0x133 then (0x0030, p - 0x130)
  else if p ≤ 0x15F then (0x0031, p - 0x140)
  else if p = 0x160 then (0x0032, 0)
  else if p ≤ 0x171 then (0x0040, p - 0x170)
  else if p = 0x172 then (0x0041, 0)
  else if p = 0x180 then (0x0050, 0)
  else if p = 0x181 then (0x0051, 0)
  else if p = 0x190 then (0x0060, 0)
  else if p = 0x191 then (0x0061, 0)
  else if p = 0x1A0 then (0x0070, 0)
  else if p = 0x1B0 then (0x0080, 0)
  else if p = 0x1B1 then (0x0081, 0)
  else if p = 0x1B2 then (0x0082, 0)
  else if p = 0x1C0 then (0x0090, 0)
  else if p = 0x1D0 then (0x00A0, 0)
  else if p = 0x1E0 then (0x00B0, 0)
  else (0x00C0, 0)

/-- UNIT_PRESENT0 (R50). -/
def unitPresent0 : Part → Nat
  | .m48 => 0xFFFFFFFF
  | .m32 => 0xFF0FF0FF

/-- UNIT_PRESENT1. -/
def unitPresent1 : Part → Nat
  | .m48 => 0x0000FFFF
  | .m32 => 0x00000FF0

/-- UNIT_PRESENT2. -/
def unitPresent2 : Part → Nat
  | .m48 => 0xFFFFFFFF
  | .m32 => 0x3F3F3F3F

/-- PART_ID: STEPPING and PART (R50). -/
def partId (s : State) : Nat := (Config.stepping % 256) <<< 16 ||| s.part.code

/-- Core c is present (Table 00-1). -/
def corePresent (s : State) (c : Nat) : Bool :=
  if c < 32 then (unitPresent0 s.part).testBit c
  else if c < 48 then (unitPresent1 s.part).testBit (c - 32) else false

/-- Decoder d is present. -/
def decPresent (s : State) (d : Nat) : Bool := d < 32 && (unitPresent2 s.part).testBit d

/-- The unit of a page is present; a page without an optional unit always is. -/
def pagePresent (s : State) (p : Nat) : Bool :=
  if 0x010 ≤ p && p ≤ 0x03F then corePresent s (p - 0x010)
  else if 0x040 ≤ p && p ≤ 0x0FF then corePresent s ((p - 0x040) / 4)
  else if 0x100 ≤ p && p ≤ 0x11F then decPresent s (p - 0x100)
  else true

/-- The power domain of a page (Table 20-5), where it has one of its own. -/
def pageDomain (p : Nat) : Option Nat :=
  if p ≤ 0x00F then some 70
  else if p ≤ 0x03F then some (p - 0x010)
  else if p ≤ 0x0FF then some ((p - 0x040) / 4)
  else if p ≤ 0x11F then some (48 + (p - 0x100) / 4)
  else if p ≤ 0x121 then some (56 + (p - 0x120))
  else if 0x128 ≤ p && p ≤ 0x12B then some (65 + (p - 0x128))
  else if 0x130 ≤ p && p ≤ 0x133 then some (61 + (p - 0x130))
  else if 0x140 ≤ p && p ≤ 0x15F then some (61 + (p - 0x140) / 8)
  else if 0x170 ≤ p && p ≤ 0x171 then some (58 + (p - 0x170))
  else if p = 0x180 || p = 0x181 || pageMsix p then some 60
  else if p = 0x1B0 || p = 0x1B1 || p = 0x1B2 then some 70
  else if p = 0x1C0 then some 69
  else none

/-- The partition of a page's unit (R10), where it lies in one. -/
def pagePart (p : Nat) : Option Nat :=
  if 0x010 ≤ p && p ≤ 0x03F then some ((p - 0x010) / 12)
  else if 0x040 ≤ p && p ≤ 0x0FF then some ((p - 0x040) / 48)
  else if 0x100 ≤ p && p ≤ 0x11F then some ((p - 0x100) / 8)
  else if 0x128 ≤ p && p ≤ 0x12B then some (p - 0x128)
  else none

/-- Every page that holds a block. -/
def allPages : List Nat := (List.range 0x1F1).filter (fun p => !pageReserved p)

/-- Pages of the units of partition q (Table 00-3). -/
def partPages (q : Nat) : List Nat := allPages.filter (fun p => pagePart p == some q)

/-! ### Register storage -/

/-- Key of a register: its BAR0 byte offset. -/
def rkey (page ofs : Nat) : Nat := page * 0x10000 + ofs

/-- Reset values that are not zero. -/
def regReset (page ofs : Nat) : Word :=
  if 0x130 ≤ page && page ≤ 0x133 then
    if ofs = 0x100 then 0x0003E830#32 else if ofs = 0x104 then 0x18#32
    else if ofs = 0x108 then 0x64#32 else 0
  else if page = 0x003 && ofs = 0x100 then 0x00000C00#32
  else if page = 0x180 && ofs = 0x10C then 0x00200000#32
  else if page = 0x1B2 then
    if ofs = 0x100 then 0x2#32 else if ofs = 0x104 then 0x7#32 else 0
  else if page = 0x1B0 && ofs = 0x108 then 0x00002000#32
  else if page = 0x190 then
    if ofs = 0x104 then word 2000 else if ofs = 0x108 then word 10000
    else if ofs = 0x10C then word 50000 else if ofs = 0x110 then 0x01001001#32
    else if ofs = 0x114 then 0x00000010#32 else if ofs = 0x118 then 0x20#32 else 0
  else if page = 0x200 && ofs < 0x8000 && ofs % 16 = 12 then 1
  else 0

/-- Bitwise majority of three copies (R42). -/
def Tri.maj (t : Tri) : Word := (t.a &&& t.b) ||| (t.a &&& t.c) ||| (t.b &&& t.c)

/-- Three equal copies. -/
def Tri.all (w : Word) : Tri := ⟨w, w, w⟩

/-- The value of a stored register: the majority of a voted one. -/
def getR (s : State) (page ofs : Nat) : Word :=
  match tget s.rvs (rkey page ofs) with
  | some t => t.maj
  | none => tgetD s.regs (rkey page ofs) (regReset page ofs)

/-- Sets a register that is not voted. -/
def putR (s : State) (page ofs : Nat) (w : Word) : State :=
  { s with regs := tset s.regs (rkey page ofs) w }

/-- Sets the three copies of a voted register in one cycle (R31). -/
def putRV (s : State) (page ofs : Nat) (w : Word) : State :=
  { s with rvs := tset s.rvs (rkey page ofs) (Tri.all w) }

/-- A LO/HI register pair as one number. -/
def getR64 (s : State) (page ofs : Nat) : Nat :=
  (getR s page ofs).toNat + 0x100000000 * (getR s page (ofs + 4)).toNat

/-- Sets a LO/HI register pair. -/
def putR64 (s : State) (page ofs n : Nat) : State :=
  putR (putR s page ofs (word n)) page (ofs + 4) (word (n / 0x100000000))

/-- Adds to a saturating counter register outside the header (R45). -/
def bumpR (s : State) (page ofs n : Nat) : State := putR s page ofs (satAdd (getR s page ofs) n)

/-- Writes bytes into consecutive registers. -/
def putRegsL (s : State) (page : Nat) : Nat → List Word → State
  | _, [] => s
  | o, w :: t => putRegsL (putR s page o w) page (o + 4) t

/-- Bytes as register words, little-endian. -/
def toWords : List Byte → List Word
  | [] => []
  | a :: b :: c :: d :: t => word (leNat [a, b, c, d]) :: toWords t
  | l => [word (leNat l)]

/-- Writes a byte record into a block of registers. -/
def putRec (s : State) (page ofs : Nat) (l : List Byte) : State := putRegsL s page ofs (toWords l)

/-- The bytes of `n` consecutive registers. -/
def getRec (s : State) (page : Nat) : Nat → Nat → List Byte
  | _, 0 => []
  | o, n + 1 => leBytes 4 (getR s page o).toNat ++ getRec s page (o + 4) n

/-! ### Block headers -/

/-- The header of a page. -/
def blk (s : State) (page : Nat) : Blk := tgetD s.blks page {}

/-- Replaces the header of a page. -/
def setBlk (s : State) (page : Nat) (b : Blk) : State := { s with blks := tset s.blks page b }

/-- READY of a state (Table 02-6). -/
def BlkSt.ready : BlkSt → Bool
  | .run => true
  | .updating => true
  | .retraining => true
  | _ => false

/-- BLK_READY.STATE code (Table 02-6). -/
def BlkSt.code : BlkSt → Nat
  | .reset => 1
  | .init => 2
  | .selftest => 3
  | .run => 4
  | .updating => 5
  | .retraining => 6
  | .quiesced => 7
  | .fenced => 8
  | .failed => 9

/-- BLK_STATUS of a page: the stored levels with FENCED, FAULT_HELD and QUIESCED (R44). -/
def statusOf (b : Blk) : Word :=
  (b.status &&& 0x007FFF08#32) ||| word (b2n (b.st == .fenced)) |||
    word (2 * b2n (bit b.faultCtx 31)) ||| word (4 * b2n (b.st == .quiesced))

/-- Tick at which the hold-off window of a vector ends, 0 when none runs. -/
def holdEnd (s : State) (v : Nat) : Nat := tgetD s.pcie.hold v 0

/-- A condition of R459 that holds a message back. -/
def msixHeld (s : State) (v : Nat) : Bool :=
  s.pcie.fnMask || bit (getR s 0x200 (16 * v + 12)) 0 || decide (now s < holdEnd s v) ||
    s.pcie.dstate != 0 || s.pcie.frozen

/-- Pending bit of a vector in the PBA (R458). -/
def pbaGet (s : State) (v : Nat) : Bool := bit (getR s 0x202 (4 * (v / 32))) (v % 32)

/-- Sets or clears a pending bit. -/
def pbaSet (s : State) (v : Nat) (b : Bool) : State :=
  putR s 0x202 (4 * (v / 32)) (setBits (getR s 0x202 (4 * (v / 32))) (v % 32) (v % 32) (b2n b))

/-- Sends one message of a vector from a snapshot of its entry, and opens its hold-off window (R460). -/
def msixSend (s : State) (v : Nat) : State :=
  let addr := getR64 s 0x200 (16 * v)
  let data := (getR s 0x200 (16 * v + 8)).toNat
  let h := bits (getR s 0x180 (0x4000 + 4 * v)) 9 0
  let s := { s with out := .msix v addr data :: s.out }
  if h = 0 then s
  else { s with pcie := { s.pcie with hold := tset s.pcie.hold v (now s + h * Config.tUs) } }

/-- Adds one to a header counter without an interrupt. -/
def cntAdd (s : State) (page n : Nat) : State :=
  let b := blk s page
  setBlk s page { b with cnt := tset b.cnt n (satInc (tgetD b.cnt n 0)) }

/-- A PME caused by an MSI-X request in D3hot (R465). -/
def msixPme (s : State) : State :=
  if s.pcie.dstate = 3 && s.pcie.pmeEn && bit (getR s 0x180 0x110) 0 then
    { s with pcie := { s.pcie with pmeStatus := true }, out := .pme :: s.out }
  else s

/-- The vector a page's interrupts go to, when BLK_IRQ_ROUTE.EN is 1. -/
def irqVec (b : Blk) : Option Nat := if bit b.irqRoute 31 then some (bits b.irqRoute 10 0) else none

/-- What becomes of a request once MSI-X is enabled: pending, or sent (R459). -/
def msixTake (s : State) (v : Nat) : State := if msixHeld s v then msixPme (pbaSet s v true) else msixSend s v

/-- Counts a merged request, an event of page 0x180 with an interrupt of its own (R46, R459). DESIGN CHOICE (notes 89): where
that interrupt merges too, it is not counted again. -/
def msixMerge (s : State) : State :=
  let b := blk s 0x180
  let s' := cntAdd s 0x180 5
  if bit b.irqMask 29 || tgetD b.cnt 5 0 = 0xFFFFFFFF#32 then s'
  else
    match irqVec b with
    | some u => msixTake s' u
    | none => s'

/-- A request for a vector (R459). -/
def msixReq (s : State) (v : Nat) : State :=
  if !s.pcie.msixEn || 2048 ≤ v then s
  else msixTake (if msixHeld s v && pbaGet s v then msixMerge s else s) v

/-- One interrupt request of a page (R46). -/
def irqReq (s : State) (page : Nat) : State :=
  match irqVec (blk s page) with
  | some v => msixReq s v
  | none => s

/-- `n` interrupt requests of a page. -/
def irqReqN (s : State) (page : Nat) : Nat → State
  | 0 => s
  | n + 1 => irqReqN (irqReq s page) page n

/-- Counts one event in BLK_EVT_CNTn and requests an interrupt unless its mask bit is set (R45, R46). -/
def bump (s : State) (page n : Nat) : State :=
  let b := blk s page
  let s' := cntAdd s page n
  if bit b.irqMask (24 + n) || tgetD b.cnt n 0 = 0xFFFFFFFF#32 then s' else irqReq s' page

/-- Counts several events. -/
def bumpN (s : State) (page n : Nat) : Nat → State
  | 0 => s
  | k + 1 => bumpN (bump s page n) page n k

/-- Number of set bits among bits 0 to n − 1. -/
def popBits (w : Word) : Nat → Nat
  | 0 => 0
  | n + 1 => b2n (bit w n) + popBits w n

/-- Changes a header, requesting one interrupt for each rising edge of an unmasked status bit (R46). -/
def updBlk (s : State) (page : Nat) (f : Blk → Blk) : State :=
  let b := blk s page
  let b' := f b
  let rise := (statusOf b' &&& ~~~ b'.irqMask) &&& ~~~ (statusOf b &&& ~~~ b.irqMask)
  irqReqN (setBlk s page b') page (popBits rise 23)

/-- Sets a block status bit to its level (R44). -/
def setStatus (s : State) (page k : Nat) (v : Bool) : State :=
  updBlk s page (fun b => { b with status := setBits b.status k k (b2n v) })

/-- A block status bit. -/
def statusBit (s : State) (page k : Nat) : Bool := bit (statusOf (blk s page)) k

/-! ### Functions and READY_MAP (R61, R66) -/

/-- The page of READY_MAP bit n (Table 03-4); bits 0 and 1 are kept in Life. -/
def fnPage (n : Nat) : Nat :=
  if n = 0 then 0x1C0
  else if n = 2 then 0x180
  else if n < 7 then 0x130 + (n - 3)
  else if n = 7 then 0x160
  else if n = 8 then 0x190
  else if n < 57 then 0x010 + (n - 9)
  else if n < 89 then 0x100 + (n - 57)
  else if n < 91 then 0x120 + (n - 89)
  else if n < 95 then 0x128 + (n - 91)
  else if n < 97 then 0x170 + (n - 95)
  else if n = 97 then 0x172
  else if n = 98 then 0x1F0
  else if n = 99 then 0x1D0
  else if n = 100 then 0x1E0
  else if n = 101 then 0x1A0
  else 0x1B0

/-- The READY_MAP bit of a page's function, where it has one. -/
def pageFn (p : Nat) : Option Nat :=
  ((List.range 103).filter (fun n => n != 0 && n != 1 && fnPage n == p)).head?

/-- The unit of READY_MAP bit n is present. -/
def fnPresent (s : State) (n : Nat) : Bool := n = 0 || n = 1 || pagePresent s (fnPage n)

/-- READY_MAP bit n (R66). -/
def fnReady (s : State) (n : Nat) : Bool :=
  if n = 0 then s.life.secReady
  else if n = 1 then s.life.mgtReady
  else fnPresent s n && (blk s (fnPage n)).st.ready

/-- PART_MASK of the active profile. -/
def partMask (s : State) : Nat :=
  match s.life.profile with
  | some r => byteAt r 0x103 % 16
  | none => 0

/-- A partition that is enabled and that a switch in progress does not disable (R76). -/
def partStays (s : State) (q : Nat) : Bool :=
  (partMask s).testBit q &&
    (match s.life.switchTo with
     | some r => (byteAt r 0x103).testBit q
     | none => true)

/-- Functions that come up without a valid profile (R74). -/
def fnNoProfile (n : Nat) : Bool := n ≤ 7 || n = 98 || n = 101 || n = 102

/-- READY_MAP bit n is expected (page 0x001 ALL_READY). -/
def fnExpected (s : State) (n : Nat) : Bool :=
  fnPresent s n &&
    (match s.life.profile with
     | none => fnNoProfile n
     | some _ =>
       match pagePart (fnPage n) with
       | some q => n = 0 || n = 1 || (partMask s).testBit q
       | none => true)

/-- ALL_READY. -/
def allReady (s : State) : Bool :=
  (List.range 103).all (fun n => !fnExpected s n || fnReady s n)

/-- Counts the edges of a READY_MAP bit and follows ALL_READY (page 0x001). -/
def readyEdge (s : State) (was is : Bool) : State :=
  let s := if !was && is then bump s 0x001 0 else if was && !is then bump s 0x001 1 else s
  setStatus s 0x001 8 (allReady s)

/-- Moves a block to a state (Table 03-5), with its READY_MAP edges and status edges. -/
def setSt (s : State) (page : Nat) (st : BlkSt) : State :=
  let was := (blk s page).st.ready
  let s := updBlk s page (fun b => { b with st := st })
  match pageFn page with
  | some _ => if was = st.ready then s else readyEdge s was st.ready
  | none => s

/-- A block's READY. -/
def ready (s : State) (page : Nat) : Bool := pagePresent s page && (blk s page).st.ready

/-- QUIESCE as set (R42: the majority). -/
def quiesceOf (b : Blk) : Bool := bit b.ctrl.maj 0

/-- Disposal of a command by its target's state (Table 03-6). -/
inductive Disp where
  | run | held | notReady | fenced
  deriving DecidableEq, Repr

/-- Table 03-6 for a target page. -/
def dispOf (s : State) (page : Nat) : Disp :=
  if s.toc.oos && !(ready s page) then .fenced
  else if !pagePresent s page then .notReady
  else
    match (blk s page).st with
    | .run => if quiesceOf (blk s page) then .held else .run
    | .updating => .run
    | .retraining => .run
    | .failed => .notReady
    | .fenced => .fenced
    | _ => .held

/-! ### Power (chapter 20) -/

/-- PD_STATEn.STATE of a domain. -/
def pdState (s : State) (n : Nat) : Nat := bits (getR s 0x1B1 (0x100 + 4 * n)) 31 28

/-- Sets PD_STATEn with the source of the request. -/
def setPd (s : State) (n st src : Nat) : State :=
  putR s 0x1B1 (0x100 + 4 * n) (word (st <<< 28 ||| src <<< 24))

/-- A domain is on with its isolation released. -/
def pdOn (s : State) (n : Nat) : Bool := pdState s n == 2

/-- A page's power domain is on (R48); pages without a domain of their own are on once the module is powered. -/
def pageOn (s : State) (page : Nat) : Bool :=
  s.life.phase != .off && pagePresent s page &&
    (match pageDomain page with
     | some n => pdOn s n
     | none => s.life.phase != .railOff && s.life.phase != .tripped && s.life.phase != .stopped)

/-! ### Profile fields (Table 03-8) -/

/-- A field of the active profile, or a default without one. -/
def profF (s : State) (o n d : Nat) : Nat :=
  match s.life.profile with
  | some r => leAt r o n
  | none => d

/-- POWER_CAP_W; 120 W under NO_PROFILE (R74). -/
def powerCap (s : State) : Nat := profF s 0x100 2 120

/-- NP_LIMIT_US. -/
def npLimitUs (s : State) : Nat := profF s 0x10E 1 20

/-- CLK_ENG divider in force (PLL_STATUS.ENG_DIV). -/
def engDiv (s : State) : Nat := bits (getR s 0x003 0x100) 15 8

/-! ### Gong (chapter 20) -/

/-- GONG_STATE.STATE. -/
def gongState (s : State) : Nat := bits (getR s 0x1B0 0x108) 31 28

/-- Gong's cut is in force: in a low event, and from an orderly stop on (R474, R477, R479). -/
def lowEvent (s : State) : Bool := s.gong.low.isSome || gongState s != 0

/-- A stream's shed level (R482). -/
def shedLevel (s : State) (n : Nat) : Nat := tgetD s.gong.shed n 0

/-- A closed stream is shed no longer. -/
def shedForget (s : State) (n : Nat) : State :=
  { s with gong := { s.gong with shed := tdel s.gong.shed n, order := s.gong.order.filter (fun m => m != n) } }

/-! ### Device memory (Table 02-9) -/

/-- What a device address names. -/
inductive Loc where
  | gddr
  | scratch (core ofs : Nat)
  | host (win ofs : Nat)
  | peer (m ofs : Nat)
  | mirror (page ofs : Nat)
  | none
  deriving DecidableEq, Repr

/-- Table 02-9. -/
def locate (a : Nat) : Loc :=
  if a < 0x000E00000000 then .gddr
  else if a < 0x004000000000 then .none
  else if a < 0x00400C000000 then
    .scratch ((a - 0x004000000000) / 0x400000) ((a - 0x004000000000) % 0x400000)
  else if a < 0x008000000000 then .none
  else if a < 0x00C000000000 then
    .host ((a - 0x008000000000) / 0x100000000) (a % 0x100000000)
  else if a < 0x01C000000000 then
    .peer ((a - 0x00C000000000) / 0x1000000000) (a % 0x1000000000)
  else if a < 0x01F000000000 then .none
  else if a < 0x01F004000000 then
    .mirror ((a - 0x01F000000000) / 0x10000) (a % 0x10000)
  else .none

/-- Device address of a byte of a core's scratchpad. -/
def scratchAddr (core ofs : Nat) : Nat := 0x004000000000 + core * 0x400000 + ofs

/-- Channel of a GDDR6 address (R414). -/
def chanOf (a : Nat) : Nat :=
  let n := a >>> 8
  if a < 0x000C00000000 then
    (bitsN n 4 0) ^^^ (bitsN n 9 5) ^^^ (bitsN n 14 10) ^^^ (bitsN n 19 15) ^^^ (bitsN n 24 20) ^^^
      (bitsN n 29 25)
  else
    let m := n - 0x0C000000
    let q := m >>> 23
    let h := m % 2 ^ 23
    8 * q + ((bitsN h 2 0) ^^^ (bitsN h 5 3) ^^^ (bitsN h 8 6) ^^^ (bitsN h 11 9))

/-- Index g of R414: the granule's place in its channel. -/
def granIdx (a : Nat) : Nat :=
  let n := a >>> 8
  if a < 0x000C00000000 then n >>> 5
  else 6291456 + (((n - 0x0C000000) % 2 ^ 23) >>> 3)

/-- Row of a GDDR6 address in its channel. -/
def rowOf (a : Nat) : Nat := granIdx a / 7

/-- Sector of a GDDR6 address in its row. -/
def sectorOf (a : Nat) : Nat := 4 * (granIdx a % 7) + bitsN a 7 6

/-- Bank of a row, and the row in the bank. -/
def bankOf (row : Nat) : Nat × Nat := ((bitsN row 3 0) ^^^ (bitsN row 11 8), bitsN row 19 4)

/-- Memory quad of a GDDR6 address. -/
def quadOf (a : Nat) : Nat := chanOf a / 8

/-- The quad of an address is READY. -/
def quadReady (s : State) (a : Nat) : Bool := ready s (0x130 + quadOf a)

/-- Reads device memory bytes (GDDR6 and scratchpads). -/
def rdMem (s : State) (a n : Nat) : List Byte := memRdL s.mem a n

/-- Writes device memory bytes. -/
def wrMem (s : State) (a : Nat) (l : List Byte) : State := { s with mem := memWrL s.mem a l }

/-- Little-endian read of device memory. -/
def rdLe (s : State) (a n : Nat) : Nat := leNat (rdMem s a n)

/-- Little-endian write of device memory. -/
def wrLe (s : State) (a n v : Nat) : State := wrMem s a (leBytes n v)

/-- Takes one free value's index. -/
def takeFree (s : State) : State × Nat := ({ s with free := s.free + 1 }, s.free)

/-! ### The fault log (R496) -/

/-- Writes one log record (Table 21-4). `flags` carries SPACE, SECONDARY, DEFERRED and TAG. -/
def logRec (s : State) (kind code orig flags id page desc detail : Nat) : State :=
  let prod := getR s 0x1A0 0x100
  let cons := getR s 0x1A0 0x104
  let r := leBytes 1 kind ++ leBytes 1 code ++ leBytes 1 orig ++ leBytes 1 flags ++ leBytes 2 id ++
    leBytes 2 page ++ leBytes 8 (now s) ++ leBytes 8 desc ++ leBytes 4 detail ++ leBytes 4 prod.toNat
  let past := decide (1024 ≤ (prod - cons).toNat)
  let s := { s with toc := { s.toc with log := tset s.toc.log (prod.toNat % 1024) r } }
  let s := putR s 0x1A0 0x100 (prod + 1)
  let s := if kind = 0 then bump s 0x1A0 0 else s
  if past then bump s 0x1A0 5 else s

/-- SPACE code of a subject. -/
def Subj.space : Subj → Nat
  | .ctx _ => 0
  | .stm _ => 1
  | .flow _ => 2
  | .blk => 3

/-- Number of a subject in its space. -/
def Subj.id : Subj → Nat
  | .ctx n => n
  | .stm n => n
  | .flow n => n
  | .blk => 0

/-- Holds a fault in a page's BLK_FAULT_CTX while VALID is 0 (R40). -/
def holdFault (s : State) (page code space id : Nat) : State :=
  if bit (blk s page).faultCtx 31 then s
  else updBlk s page (fun b => { b with
    faultCtx := word (0x80000000 ||| (code % 256) <<< 16 ||| (space % 4) <<< 12 ||| (id % 4096)) })

/-- Clears the VALID bits of every page whose held fault names a subject (R40). -/
def clearFaults (s : State) (space id : Nat) : State :=
  { s with blks := s.blks.map (fun pb =>
    if bit pb.2.faultCtx 31 && bits pb.2.faultCtx 13 12 == space && bits pb.2.faultCtx 11 0 == id then
      (pb.1, { pb.2 with faultCtx := setBits pb.2.faultCtx 31 31 0 }) else pb) }

/-! ### Contexts -/

/-- A context's state record. -/
def ctx (s : State) (n : Nat) : Ctx := tgetD s.ctxs n {}

/-- Replaces a context. -/
def setCtx (s : State) (n : Nat) (c : Ctx) : State := { s with ctxs := tset s.ctxs n c }

/-- Changes a context. -/
def updCtx (s : State) (n : Nat) (f : Ctx → Ctx) : State := setCtx s n (f (ctx s n))

/-- The states in which a fault or kill starts a teardown (Table 13-4). -/
def CtxSt.live : CtxSt → Bool
  | .waiting | .running | .parked | .evicting | .suspended | .restoring => true
  | _ => false

/-- The state code of Table 13-4. -/
def CtxSt.code : CtxSt → Nat
  | .closed => 0
  | .idle => 1
  | .waiting => 2
  | .running => 3
  | .parked => 4
  | .suspended => 5
  | .held => 6
  | .teardown => 7
  | .faulted => 8
  | .evicting => 9
  | .restoring => 10

/-- Moves a context into TEARDOWN (R334): its cores stop issuing and its deadline runs. -/
def startTeardown (s : State) (n code : Nat) (killed : Bool) : State :=
  updCtx s n (fun c => { c with
    st := .teardown, tearAt := now s, code := code, killed := killed, acked := [], evict := none })

/-- A context holds a core of a partition or chip that is being reset (R503). -/
def inReset (s : State) (n : Nat) : Bool :=
  s.toc.rsts.any (fun r => r.level = 4 ||
    (r.level = 3 && (ctx s n).cores.any (fun c => r.parts.testBit (c / 12))))

/-- Raises a fault on its one subject (R491): log record, first fault of the page, teardown of a context once. -/
def raiseFault (s : State) (sub : Subj) (code page desc detail orig tagFlags : Nat) : State :=
  match sub with
  | .ctx n =>
    let sec := (ctx s n).st = .teardown || inReset s n
    let s' := logRec s 0 code orig (4 * b2n sec + tagFlags) n page desc detail
    if sec then s'
    else
      let s' := holdFault s' page code 0 n
      if (ctx s n).st.live then startTeardown s' n code false else s'
  | _ => holdFault (logRec s 0 code orig (sub.space + tagFlags) sub.id page desc detail) page code sub.space sub.id

/-- A fault on a context without a log detail. -/
def ctxFault (s : State) (n code page desc : Nat) : State := raiseFault s (.ctx n) code page desc 0 0 0

/-! ### Sector protection (R417-R419) -/

/-- Records a decode outcome of a channel (Table 18-2). -/
def eccRecord (s : State) (a kind nbytes source : Nat) : State :=
  let p := 0x140 + chanOf a
  let last := kind <<< 30 ||| nbytes <<< 27 ||| source <<< 24
  let s := putR64 s p 0x108 (a / 64 * 64)
  let s := putR s p 0x110 (word last)
  if kind = 1 then bump s p 0
  else logRec (bump s p 1) 0 0x08 0 3 0 p 0 last

/-- `n` free bytes. -/
def freeBytes (s : State) : Nat → List Byte × State
  | 0 => ([], s)
  | n + 1 =>
    let r := freeBytes { s with free := s.free + 1 } n
    (Config.freeByte s.free :: r.1, r.2)

/-- Decodes one sector on a read (R418): true when it is uncorrectable. At most 4 wrong bytes are corrected and
the sector rewritten; 5 or more are uncorrectable, unless the decoder takes them for a correctable pattern, which
the code does not exclude: then the sector is rewritten with bytes the spec leaves open. -/
def eccSector (s : State) (source sec : Nat) : State × Bool :=
  match tget s.ecc sec with
  | none => (s, false)
  | some errs =>
    if errs.length = 0 then (s, false)
    else if errs.length ≤ 4 then
      (eccRecord { s with ecc := tdel s.ecc sec } (sec * 64) 1 errs.length source, false)
    else
      let f := s.free
      let s := { s with free := s.free + 1 }
      if Config.freeMiscorrect f then
        let r := freeBytes s 64
        (eccRecord (wrMem { r.2 with ecc := tdel r.2.ecc sec } (sec * 64) r.1) (sec * 64) 1 4 source, false)
      else (eccRecord s (sec * 64) 2 0 source, true)

/-- Decodes `n` sectors from a first one; true when any is uncorrectable. -/
def eccSectors (s : State) (source first : Nat) : Nat → State × Bool
  | 0 => (s, false)
  | n + 1 =>
    let r := eccSectors s source first n
    let q := eccSector r.1 source (first + n)
    (q.1, r.2 || q.2)

/-- Sectors touched by a byte range. -/
def sectorSpan (a n : Nat) : Nat := if n = 0 then 0 else (a + n - 1) / 64 - a / 64 + 1

/-- A memory channel. -/
def chan (s : State) (c : Nat) : Chan := tgetD s.chans c {}

/-- Replaces a channel. -/
def setChan (s : State) (c : Nat) (x : Chan) : State := { s with chans := tset s.chans c x }

/-- An access reaches a granule: it wakes a self-refreshing channel and leaves the bank's row open, unless PAGE_IDLE
is 0 (R427, R429). -/
def granTouch (s : State) (a : Nat) : State :=
  let c := chanOf a
  let x := chan s c
  let b := bankOf (rowOf a)
  let x := { x with st := if x.st = 2 then 0 else x.st }
  setChan s c (if bits (getR s (0x130 + c / 8) 0x100) 7 0 = 0 then x else { x with openRow := tset x.openRow b.1 b.2 })

/-- Touches `n` granules from address `a` up. -/
def granTouches (s : State) (a : Nat) : Nat → State
  | 0 => s
  | n + 1 => granTouch (granTouches s a n) (a + 256 * n)

/-- Granules touched by a byte range. -/
def granSpan (a n : Nat) : Nat := if n = 0 then 0 else (a + n - 1) / 256 - a / 256 + 1

/-- A read of GDDR6 bytes with its sector decodes: the bytes, and whether a sector was uncorrectable. -/
def rdGddr (s : State) (source a n : Nat) : State × List Byte × Bool :=
  let s := granTouches s a (granSpan a n)
  let r := eccSectors s source (a / 64) (sectorSpan a n)
  (r.1, rdMem r.1 a n, r.2)

/-- A write of GDDR6 bytes: a whole sector makes its codeword valid; a partial one is a read-modify-write that an
uncorrectable sector refuses (R415, R418). Answers whether the write was made. -/
def wrGddr (s : State) (a : Nat) (l : List Byte) : State × Bool :=
  let s := granTouches s a (granSpan a l.length)
  let first := a / 64
  let lastEnd := a + l.length
  let partSecs := (if a % 64 = 0 then [] else [first]) ++
    (if lastEnd % 64 = 0 then [] else if lastEnd / 64 = first && a % 64 != 0 then [] else [lastEnd / 64])
  let r := partSecs.foldl (fun (acc : State × Bool) sec =>
    let q := eccSector acc.1 2 sec
    (bump q.1 (0x140 + chanOf (sec * 64)) 5, acc.2 || q.2)) (s, false)
  if l.isEmpty then (s, true)
  else if r.2 then (r.1, false)
  else
    let s := r.1
    ({ wrMem s a l with ecc := s.ecc.filter (fun e => !(a ≤ e.1 * 64 && e.1 * 64 + 64 ≤ lastEnd)) }, true)

/-! ### The host range (R454, R455, R462) -/

/-- The PCIe address of an outbound window, when the window is enabled. -/
def outwAddr (s : State) (w ofs : Nat) : Option Nat :=
  if bit (getR s 0x181 (0x3008 + 16 * w)) 31 then some (getR64 s 0x181 (0x3000 + 16 * w) + ofs) else none

/-- PEER_STATEm is UP and the peer window usable (R537). -/
def peerUsable (s : State) (m : Nat) : Bool :=
  m != s.life.modId && bit (getR s 0x1E0 (0x208 + 16 * m)) 31 && (tgetD s.peal.peers m {}).st == 1

/-- The PCIe address of a peer window. -/
def peerAddr (s : State) (m ofs : Nat) : Nat := getR64 s 0x1E0 (0x200 + 16 * m) + ofs

/-- Marks traffic to host memory (R445). -/
def hostMark (s : State) : State :=
  { s with pcie := { s.pcie with hostTraffic := now s, hostSeen := true } }

/-- A write to host memory or to a peer: it waits while the function is in D3hot or has taken PME_Turn_Off (R464). -/
def hostPut (s : State) (p : Nat) (l : List Byte) : State :=
  if s.pcie.dstate != 0 || s.pcie.turnOff then { s with pcie := { s.pcie with waitWr := s.pcie.waitWr ++ [(p, l)] } }
  else { hostMark s with pcieMem := memWrL s.pcieMem p l }

/-- A write by a unit that is not a context (outlets, rings, records): true when it was made. A host address in a
disabled window, or while the endpoint is FROZEN, is dropped and counted (R454, R462). -/
def unitWrite (s : State) (a : Nat) (l : List Byte) : State × Bool :=
  match locate a with
  | .gddr => wrGddr s a l
  | .scratch _ _ => (wrMem s a l, true)
  | .host w o =>
    if s.pcie.frozen then (bump s 0x180 3, false)
    else
      match outwAddr s w o with
      | none => (bump s 0x180 3, false)
      | some p => (hostPut s p l, true)
  | .peer m o =>
    if peerUsable s m && !s.pcie.frozen then (hostPut s (peerAddr s m o) l, true) else (s, false)
  | _ => (s, false)

/-- A read by a unit that is not a context: the bytes, and whether they arrived. -/
def unitRead (s : State) (a n : Nat) : State × List Byte × Bool :=
  match locate a with
  | .gddr =>
    let r := rdGddr s 0 a n
    (r.1, r.2.1, !r.2.2)
  | .scratch _ _ => (s, rdMem s a n, true)
  | .host w o =>
    if s.pcie.frozen then (bump s 0x180 3, [], false)
    else
      match outwAddr s w o with
      | none => (bump s 0x180 3, [], false)
      | some p =>
        if s.pcie.dstate != 0 || s.pcie.turnOff then (putR (bump s 0x180 3) 0x180 0x108 0x20000000#32, [], false)
        else (hostMark s, memRdL s.pcieMem p n, true)
  | .peer m o =>
    if !peerUsable s m || s.pcie.frozen then (s, [], false)
    else if s.pcie.dstate != 0 || s.pcie.turnOff then (putR (bump s 0x180 3) 0x180 0x108 0x20000000#32, [], false)
    else (hostMark s, memRdL s.pcieMem (peerAddr s m o) n, true)
  | _ => (s, [], false)

/-! ### The stream event ring (R495) -/

/-- Writes one stream event entry (Table 21-3), or drops and counts it. -/
def evtEntry (s : State) (code detail stm frameNo : Nat) : State :=
  let cfg := getR s 0x1A0 0x110
  let prod := getR s 0x1A0 0x114
  let cons := getR s 0x1A0 0x118
  let size := 2 ^ bits cfg 3 0
  if !bit cfg 31 || size ≤ (prod - cons).toNat then bump s 0x1A0 6
  else
    let a := getR64 s 0x1A0 0x108 + 16 * (prod.toNat % size)
    let r := unitWrite s a (leBytes 1 code ++ leBytes 1 detail ++ leBytes 2 stm ++ leBytes 4 frameNo ++
      leBytes 8 (now s))
    if r.2 then msixReq (putR r.1 0x1A0 0x114 (prod + 1)) (bits cfg 14 4)
    else bump r.1 0x1A0 6

/-! ### Errors of the PCIe function (R461, R462) -/

/-- An error message of Device Control's kind k: 0 ERR_COR, 1 ERR_NONFATAL, 2 ERR_FATAL. -/
def errMsg (s : State) (k : Nat) : State :=
  if s.pcie.errEn.testBit k then { s with out := .pcie (1 + k) 0 :: s.out } else s

/-- Sets a correctable error's status. -/
def aerCorr (s : State) (k : Nat) : State :=
  errMsg { s with pcie := { s.pcie with aerCor := s.pcie.aerCor ||| 2 ^ k } } 0

/-- FROZEN sets, with its cause, its status bit and its count; a later event does not change CAUSE (R462, R463). -/
def freezeSet (s : State) (cause : Nat) : State :=
  if s.pcie.frozen then s
  else bump (setStatus { s with pcie := { s.pcie with frozen := true, cause := cause } } 0x180 8 true) 0x180 6

/-- Status, first error and header log of an uncorrectable error. -/
def aerLog (s : State) (k : Nat) (hdr : List Byte) : State :=
  let p := s.pcie
  let first := p.aerUnc == 0
  { s with pcie := { p with
    aerUnc := p.aerUnc ||| 2 ^ k, firstErr := if first then k else p.firstErr,
    hdrLog := if first then hdr.take 16 else p.hdrLog, hdrOvf := p.hdrOvf || (!first && !hdr.isEmpty) } }

/-- An uncorrectable error: logged and reported, and a freeze if it is fatal. -/
def aerSet (s : State) (k : Nat) (hdr : List Byte) : State :=
  let s := aerLog s k hdr
  if s.pcie.aerSev.testBit k then freezeSet (errMsg s 2) k else errMsg s 1

/-- An Unsupported Request: a non-posted one is answered with UR and so is an Advisory Non-Fatal Error, unless its
severity is fatal (Table 19-6). -/
def urSet (s : State) (posted : Bool) (hdr : List Byte) : State :=
  let s := if posted then s else { s with out := .pcie 4 0 :: s.out }
  if posted || s.pcie.aerSev.testBit 20 then aerSet s 20 hdr else aerCorr (aerLog s 20 hdr) 13

/-- A memory request of the host that the endpoint does not serve (R63, Table 19-7). -/
def unserved (s : State) (posted : Bool) : State :=
  if s.pcie.frozen then (if posted then bump s 0x181 2 else { s with out := .pcie 4 0 :: s.out })
  else urSet s posted []

/-! ### Access checks of the register bus (R29, R34, R41, R48) -/

/-- A register master that meets the PR guard (Table 02-3). -/
def masterPriv : Master → Bool
  | .user => false
  | _ => true

/-- ACC_LAST.MASTER code (R50). -/
def masterCode : Master → Nat
  | .secure => 0
  | .host => 1
  | .mgmt => 2
  | .user => 3
  | .fw => 4

/-- Counts an access event on page 0x000 and rewrites ACC_LAST (R50). -/
def account (s : State) (cnt kind : Nat) (m : Master) (wr : Bool) (page ofs : Nat) : State :=
  let s := bump s 0x000 cnt
  putR s 0x000 0x110
    (word ((b2n wr) <<< 31 ||| masterCode m <<< 28 ||| kind <<< 24 ||| rkey page ofs / 4 % 2 ^ 24))

/-- How far a register access comes. -/
inductive Access where
  | reach      -- it reaches the page's registers
  | unserved   -- BAR0 request before enumeration, in D3hot or while FROZEN; no answer before step A7
  | reserved   -- reserved page (R29)
  | off        -- power domain off or unit absent (R48, R5)
  | fenced     -- fenced page (R41)
  deriving DecidableEq, Repr

/-- Where an access of a master ends (R29, R41, R47, R48, R63). -/
def accessOf (s : State) (m : Master) (page ofs : Nat) : Access :=
  if m = .host && (s.pcie.frozen || s.pcie.dstate != 0 || !s.pcie.memEn) then .unserved
  else if m = .mgmt && !s.life.mgtReady then .unserved
  else if pageReserved page then .reserved
  else if !pageOn s page then .off
  else if ((blk s page).st = .fenced || bit (blk s page).fence.maj 0) && !(ofs < 0x100 && masterPriv m) then .fenced
  else .reach

/-- A field with guard PR in a page is open to a master (R34); page 0x1C0 is SE but for three header registers. -/
def prOpen (m : Master) (page ofs : Nat) : Bool :=
  masterPriv m && (page != 0x1C0 || m == .secure || ofs = 0x000 || ofs = 0x004 || ofs = 0x00C)

/-- A write by a master to a PR field of a page: the effect where the access reaches the field, otherwise what the
bus does with it. -/
def guarded (m : Master) (page ofs : Nat) (s : State) (eff : State → State) : State :=
  match accessOf s m page ofs with
  | .unserved => if m = .host then unserved s true else s
  | .reserved => account s 4 5 m true page ofs
  | .off => account s 2 3 m true page ofs
  | .fenced => account s 5 6 m true page ofs
  | .reach => if prOpen m page ofs then eff s else account s 0 1 m true page ofs

/-! ### Idle (R12) -/

/-- One tick without a command: the timebase counts once it runs (page 0x1F0 out of RESET). -/
def idle (s : State) : State :=
  if (blk s 0x1F0).st = .reset then s else { s with tb := { s.tb with t := s.tb.t + 1 } }

end Sys2Proof.Machine
end

