-- ==== Sys2Proof/Machine/KetOps.lean ====
section
/-!
DEFINITION. Machine/KetOps.lean: Kettle's block operations (R430-R439), used by every unit that holds blocks.
-/
namespace Sys2Proof.Machine

/-- Outcome of a block operation. -/
inductive KRes where
  | ok (addrs : List Nat)
  | noBlock (free : Nat)
  | quota (entry : Nat)
  | ptr
  | owner
  deriving DecidableEq, Repr

/-- Bytes of a block. -/
def KPool.bsize (p : KPool) : Nat := 2 ^ p.log2

/-- Address of block b. -/
def KPool.addr (p : KPool) (b : Nat) : Nat := p.base + b * p.bsize

/-- META_SIZE (R431). -/
def metaSize (n : Nat) : Nat := 64 + 64 * cdiv n 512 + 64 * cdiv n 32768 + 32 * n

/-- An entry is live: not empty, and for a context of the present epoch (R437). -/
def ownLive (s : State) (e : Own) : Bool :=
  e.count != 0 && (e.space != 1 || (ctx s e.id).epoch == e.epoch)

/-- Free blocks of a pool. -/
def KPool.free (p : KPool) : Nat := p.nblocks - p.owners.length

/-- The lowest-numbered free block at or after b, searching k blocks (R433). -/
def firstFree (p : KPool) : Nat → Nat → Option Nat
  | _, 0 => none
  | b, k + 1 =>
    match tget p.owners b with
    | none => some b
    | some _ => firstFree p (b + 1) k

/-- An owner matches a quota entry (R438). -/
def quotaHits (q : Quota) (space id : Nat) : Bool :=
  q.space != 0 && q.space == space && (q.id == 0xFFFF || q.id == id)

/-- The held count of a quota entry: blocks on which a matching owner holds a live claim. -/
def quotaHeld (s : State) (p : KPool) (q : Quota) : Nat :=
  (p.owners.filter (fun b => b.2.any (fun e => quotaHits q e.space e.id && ownLive s e))).length

/-- Index of the first quota entry that matches an owner. -/
def quotaIdx (qs : List Quota) (space id : Nat) : Option Nat :=
  ((List.range qs.length).filter (fun i =>
    match qs[i]? with
    | some q => quotaHits q space id
    | none => false)).head?

/-- The admission rule of R438 for n blocks of class k: granted, refused by quota entry, or short of blocks. -/
def quotaRule (s : State) (p : KPool) (space id cls n : Nat) : KRes :=
  let ei := quotaIdx p.quota space id
  let past := match ei with
    | some i =>
      match p.quota[i]? with
      | some e => e.limit != 0 && e.limit < quotaHeld s p e + n
      | none => false
    | none => false
  if past then .quota (ei.getD 0)
  else
    let need := n + ((List.range p.quota.length).map (fun i =>
      match p.quota[i]? with
      | some f => if some i = ei || cls < f.cls || f.space = 0 then 0 else f.reserve - quotaHeld s p f
      | none => 0)).sum
    if p.free < need then .noBlock p.free else .ok []

/-- Pools that can be used: the pool of a number. -/
def pool (s : State) (p : Nat) : Option KPool := tget s.ket.pools p

/-- Replaces a pool. -/
def setPool (s : State) (p : Nat) (k : KPool) : State :=
  { s with ket := { s.ket with pools := tset s.ket.pools p k } }

/-- An owner entry as its 4 bytes (R434). -/
def ownBytes (e : Own) : List Byte :=
  leBytes 4 (e.count <<< 24 ||| e.space <<< 21 ||| e.epoch <<< 13 ||| e.id)

/-- Writes one block's free bit, summary bit and owner entries into the pool's metadata (R431). -/
def ketMirror (s : State) (p : KPool) (b : Nat) : State :=
  let free := (tget p.owners b).isNone
  let bm := p.metaAt + 64 + b / 8
  let ob := (memRd s.mem bm).toNat
  let nb := if free then ob ||| 2 ^ (b % 8) else ob &&& (255 - 2 ^ (b % 8))
  let s := wrMem s bm [BitVec.ofNat 8 nb]
  let w := b / 64
  let any := rdLe s (p.metaAt + 64 + 8 * w) 8 != 0
  let sm := p.metaAt + 64 + 64 * cdiv p.nblocks 512 + w / 8
  let os := (memRd s.mem sm).toNat
  let ns := if any then os ||| 2 ^ (w % 8) else os &&& (255 - 2 ^ (w % 8))
  let s := wrMem s sm [BitVec.ofNat 8 ns]
  let ents := (tgetD p.owners b []).flatMap ownBytes
  wrMem s (p.metaAt + 64 + 64 * cdiv p.nblocks 512 + 64 * cdiv p.nblocks 32768 + 32 * b) (fitBytes 32 ents)

/-- Sets the owner entries of a block; an empty list frees it. -/
def setOwners (s : State) (pn : Nat) (p : KPool) (b : Nat) (es : List Own) : State :=
  let p' := if es.isEmpty then { p with owners := tdel p.owners b } else { p with owners := tset p.owners b es }
  ketMirror (setPool s pn p') p' b

/-- The SPACE that Kettle's BLK_FAULT_CTX and Tocsin's log give an owner (R435). -/
def ketSpace (space : Nat) : Nat := if space = 2 then 1 else if space = 3 then 2 else 3

/-- A pool fault: on the context when the named owner is one, otherwise recorded in Kettle's page (R435). -/
def ketFault (s : State) (code space id : Nat) : State :=
  let s := bump s 0x160 (if code = 6 then 3 else 4)
  if space = 1 then ctxFault s id code 0x160 0
  else
    let sp := ketSpace space
    let id := if sp = 3 then 0 else id
    holdFault (logRec s 0 code 0 sp id 0x160 0 0) 0x160 code sp id

/-- The metadata sectors an operation on a block reads: its bitmap word, its summary word and its owner entry; an
uncorrectable one puts the pool into BROKEN (R419, R433, R439). -/
def ketTouch (s : State) (pn b : Nat) : State :=
  match pool s pn with
  | none => s
  | some p =>
    let sm := p.metaAt + 64 + 64 * cdiv p.nblocks 512
    let r := [p.metaAt + 64 + b / 8, sm + b / 512, sm + 64 * cdiv p.nblocks 32768 + 32 * b].foldl
      (fun (acc : State × Bool) a =>
        let q := eccSector acc.1 0 (a / 64)
        (q.1, acc.2 || q.2)) (s, false)
    if r.2 then setPool r.1 pn { p with broken := true } else r.1

/-- `ketTouch` for the block that an ALLOC finds. -/
def ketTouchFree (s : State) (pn : Nat) : State :=
  match pool s pn with
  | none => s
  | some p =>
    match firstFree p 0 p.nblocks with
    | some b => ketTouch s pn b
    | none => s

/-- `ketTouch` for the block that a pointer names. -/
def ketTouchPtr (s : State) (ptr : Nat) : State :=
  match s.ket.pools.find? (fun q => q.2.base ≤ ptr && ptr < q.2.base + q.2.nblocks * q.2.bsize) with
  | some (pn, p) => if p.broken then s else ketTouch s pn ((ptr - p.base) / p.bsize)
  | none => s

/-- ALLOC of n blocks in one operation for an owner and a class (R433, R435, R438). A refusal takes nothing. -/
def ketAlloc (s : State) (pn space id cls n : Nat) : State × KRes :=
  let s := ketTouchFree s pn
  match pool s pn with
  | none => (ketFault s 6 space id, .ptr)
  | some p =>
    if p.broken then (ketFault s 6 space id, .ptr)
    else
      match quotaRule s p space id cls n with
      | .quota i => (bump s 0x160 7, .quota i)
      | .ok _ =>
        let ep := if space = 1 then (ctx s id).epoch else 0
        forN n (fun _ (acc : State × KRes) =>
          match pool acc.1 pn, acc.2 with
          | some p, .ok l =>
            match firstFree p 0 p.nblocks with
            | some b => (bump (setOwners acc.1 pn p b [⟨1, space, ep, id⟩]) 0x160 0, .ok (l ++ [p.addr b]))
            | none => acc
          | _, _ => acc) (s, .ok [])
      | r => (bump s 0x160 1, r)

/-- The pool and block a pointer names, when it passes the checks of R435. -/
def ketPtr (s : State) (ptr : Nat) : Option (Nat × KPool × Nat) :=
  match s.ket.pools.find? (fun q => q.2.base ≤ ptr && ptr < q.2.base + q.2.nblocks * q.2.bsize) with
  | none => none
  | some (pn, p) =>
    if p.broken || (ptr - p.base) % p.bsize != 0 then none
    else
      let b := (ptr - p.base) / p.bsize
      match tget p.owners b with
      | none => none
      | some _ => some (pn, p, b)

/-- Owner entries of a block that are live. -/
def liveOwners (s : State) (p : KPool) (b : Nat) : List Own := (tgetD p.owners b []).filter (ownLive s)

/-- CLAIM (Table 18-6). -/
def ketClaim (s : State) (ptr space id : Nat) : State × KRes :=
  let s := ketTouchPtr s ptr
  match ketPtr s ptr with
  | none => (ketFault s 6 space id, .ptr)
  | some (pn, p, b) =>
    let live := liveOwners s p b
    let mine := fun (e : Own) => e.space == space && e.id == id
    let ep := if space = 1 then (ctx s id).epoch else 0
    match live.find? mine with
    | some e =>
      if 255 ≤ e.count then (ketFault s 7 space id, .owner)
      else (setOwners s pn p b (live.map (fun x => if mine x then { x with count := x.count + 1 } else x)), .ok [])
    | none =>
      if 8 ≤ live.length then (ketFault s 7 space id, .owner)
      else (setOwners s pn p b (live ++ [⟨1, space, ep, id⟩]), .ok [])

/-- RELEASE (Table 18-6). -/
def ketRelease (s : State) (ptr space id : Nat) : State × KRes :=
  let s := ketTouchPtr s ptr
  match ketPtr s ptr with
  | none => (ketFault s 6 space id, .ptr)
  | some (pn, p, b) =>
    let live := liveOwners s p b
    let mine := fun (e : Own) => e.space == space && e.id == id
    if live.any mine then
      let es := (live.map (fun x => if mine x then { x with count := x.count - 1 } else x)).filter
        (fun x => x.count != 0)
      let s := setOwners s pn p b es
      (if es.isEmpty then bump s 0x160 2 else s, .ok [])
    else (ketFault s 7 space id, .owner)

/-- FREE (Table 18-6). -/
def ketFree (s : State) (ptr space id : Nat) : State × KRes :=
  let s := ketTouchPtr s ptr
  match ketPtr s ptr with
  | none => (ketFault s 6 space id, .ptr)
  | some (pn, p, b) =>
    let live := liveOwners s p b
    if live.isEmpty || live.any (fun e => !(e.space == space && e.id == id)) then (ketFault s 7 space id, .owner)
    else (bump (setOwners s pn p b []) 0x160 2, .ok [])

/-- An owner holds a live claim on a block. -/
def ketHolds (s : State) (ptr space id : Nat) : Bool :=
  match ketPtr s ptr with
  | none => false
  | some (_, p, b) => (liveOwners s p b).any (fun e => e.space == space && e.id == id)

/-- Releases every claim of an owner, in every pool (R134, R334): counts do not matter. -/
def ketReleaseAll (s : State) (space id : Nat) : State :=
  s.ket.pools.foldl (fun s pq =>
    pq.2.owners.foldl (fun s be =>
      if be.2.any (fun e => e.space == space && e.id == id) then
        match pool s pq.1 with
        | none => s
        | some p =>
          let es := (liveOwners s p be.1).filter (fun e => !(e.space == space && e.id == id))
          let s := setOwners s pq.1 p be.1 es
          if es.isEmpty then bump s 0x160 2 else s
      else s) s) s

/-- The epoch of a context advances by one (R437): every claim that names it is dead, and the sweep has to read
every allocated block. -/
def epochAdvance (s : State) (n : Nat) : State :=
  let s := updCtx s n (fun c => { c with epoch := (c.epoch + 1) % 256 })
  let s := { s with ket := { s.ket with passAdv := tmodD s.ket.passAdv n 0 (· + 1) } }
  let blocks := s.ket.pools.flatMap (fun pq => pq.2.owners.map (fun be => (pq.1, be.1)))
  let dead := s.ket.pools.any (fun pq => pq.2.owners.any (fun be => be.2.any (fun e => !ownLive s e)))
  if dead && s.ket.sweep.isEmpty then
    setStatus { s with ket := { s.ket with sweep := blocks } } 0x160 8 true
  else s

/-- An epoch advance has to wait: the context would have advanced 256 epochs within one sweep pass (R437). -/
def epochWaits (s : State) (n : Nat) : Bool := !s.ket.sweep.isEmpty && 255 ≤ tgetD s.ket.passAdv n 0

/-- Quads that a region needs READY (R439). -/
def regionReady (s : State) (region : Nat) : Bool :=
  if region = 0 then [0, 1, 2, 3].all (fun q => ready s (0x130 + q)) else ready s (0x130 + (region - 1))

/-- Usable by a unit's packet takes and allocations, which are not held (R439). -/
def poolUsable (s : State) (pn : Nat) : Bool :=
  match pool s pn with
  | some p => regionReady s p.region
  | none => false

end Sys2Proof.Machine
end

