-- ==== Sys2Proof/Machine/Ports.lean ====
section
/-!
DEFINITION. Machine/Ports.lean: the command ports (R104, R134): staged operands, queues, tags, holding and results.
-/
namespace Sys2Proof.Machine

/-- Key of a port's queue. -/
def Port.key : Port → Nat
  | .flow => 0
  | .stm => 1
  | .scl => 2
  | .car => 3
  | .enc => 4
  | .adapt => 5
  | .ket => 6
  | .upd => 7
  | .peal => 8

/-- The nine ports in order. -/
def allPorts : List Port := [.flow, .stm, .scl, .car, .enc, .adapt, .ket, .upd, .peal]

/-- The page that holds a port's registers; a shared port has one home, its first page. -/
def Port.page : Port → Nat
  | .flow => 0x172
  | .stm => 0x100
  | .scl => 0x128
  | .car => 0x190
  | .enc => 0x120
  | .adapt => 0x1D0
  | .ket => 0x160
  | .upd => 0x002
  | .peal => 0x1E0

/-- Offset of the command register. -/
def Port.cmdOfs : Port → Nat
  | .flow => 0x100
  | _ => 0x400

/-- Offset of the staging registers. -/
def Port.stageOfs : Port → Nat
  | .flow => 0x200
  | _ => 0x500

/-- Number of staging registers. -/
def Port.stageN : Port → Nat
  | .flow => 32
  | .ket => 32
  | _ => 16

/-- Offset of result 0. -/
def Port.resOfs : Port → Nat
  | .car => 0x2000
  | _ => 0x800

/-- Offset of the status record. -/
def Port.statusOfs : Port → Nat
  | .flow => 0x300
  | _ => 0x600

/-- A port's waiting commands. -/
def portQ (s : State) (p : Port) : List PCmd := tgetD s.ports p.key []

/-- Replaces a port's queue. -/
def setPortQ (s : State) (p : Port) (q : List PCmd) : State := { s with ports := tset s.ports p.key q }

/-- Writes a result register: CODE and DETAIL (Table 04-6). -/
def portResult (s : State) (p : Port) (tag code detail : Nat) : State :=
  putR s p.page (p.resOfs + 4 * (tag % 256)) (word (code <<< 28 ||| min detail 0xFFFF))

/-- Writes a port's status record. -/
def portStatus (s : State) (p : Port) (l : List Byte) : State := putRec s p.page p.statusOfs l

/-- An orderly stop has begun or the module has stopped: every command is refused with FAULT_FENCED (R467, R477). -/
def stopping (s : State) : Bool :=
  3 ≤ bits (getR s 0x1B0 0x108) 31 28 || bit (getR s 0x1B2 0x100) 2 || bit (getR s 0x1B2 0x100) 3

/-- Disposal by the best of several targets. -/
def dispAny (l : List Disp) : Disp :=
  if l.any (· == .run) then .run
  else if l.any (· == .held) then .held
  else if l.any (· == .fenced) then .fenced
  else .notReady

/-- Disposal by targets that must all be ready. -/
def dispAll (l : List Disp) : Disp :=
  if l.any (· == .notReady) then .notReady
  else if l.any (· == .fenced) then .fenced
  else if l.any (· == .held) then .held
  else .run

/-- Decoders of the enabled partitions. -/
def enabledDecs (s : State) : List Nat :=
  (List.range 32).filter (fun d => decPresent s d && (partMask s).testBit (d / 8))

/-- A profile switch holds the OPEN commands of flows, streams and contexts (R76). -/
def switchHolds (s : State) (p : Port) (op : Nat) : Bool :=
  s.life.switchTo.isSome && op == 1 && (p == .flow || p == .stm || p == .car)

/-- The pool region a Kettle command needs, where its pool is known. -/
def ketCmdReady (s : State) (op idx : Nat) (operand : List Byte) : Bool :=
  match pool s idx with
  | some p => p.broken || op = 4 || regionReady s p.region
  | none => if op = 1 then regionReady s (byteAt operand 1 % 5) else true

/-- Disposal of a port's command by its target alone (Table 03-6, R134, R159, R391, R439, R534). -/
def targetDisp (s : State) (p : Port) (op idx : Nat) (operand : List Byte) : Disp :=
  match p with
  | .flow => dispOf s 0x172
  | .stm => dispAny ((enabledDecs s).map (fun d => dispOf s (0x100 + d)) ++
      (if (enabledDecs s).isEmpty then [.held] else []))
  | .scl => dispAny ([0, 1, 2, 3].map (fun q => dispOf s (0x128 + q)))
  | .enc => dispAny [dispOf s 0x120, dispOf s 0x121]
  | .car => dispOf s 0x190
  | .adapt => dispAll [dispOf s 0x190, dispOf s 0x1D0]
  | .ket => if dispOf s 0x160 = .run && !ketCmdReady s op idx operand then .held else dispOf s 0x160
  | .upd => if fnReady s 0 && fnReady s 1 then .run else .held
  | .peal => dispOf s 0x1E0

/-- Disposal of a port's command: refused from an orderly stop on, held while a profile switch holds it, and held instead
of carried out while a low event lasts (R76, R474, R477; log 92). -/
def portDisp (s : State) (p : Port) (op idx : Nat) (operand : List Byte) : Disp :=
  if stopping s then .fenced
  else if switchHolds s p op then .held
  else if lowEvent s && targetDisp s p op idx operand == .run then .held
  else targetDisp s p op idx operand

/-- Disposal of a doorbell, whose target is Carillon (R313, R474). -/
def tailDisp (s : State) : Disp :=
  if stopping s then .fenced else if lowEvent s && dispOf s 0x190 == .run then .held else dispOf s 0x190

/-- A result of a command: the new state, CODE and DETAIL. -/
abbrev PRes := State × Nat × Nat

/-- What one operation of a port does: INDEX, operand, TAG. -/
abbrev POp := Nat → List Byte → Nat → State → PRes

/-- DONE with detail 0. -/
def done (s : State) : PRes := (s, 1, 0)

/-- A refusal that changes nothing. -/
def refuse (s : State) (code detail : Nat) : PRes := (s, code, detail)

/-- ILLEGAL_FIELD at an offset. -/
def illegal (s : State) (ofs : Nat) : PRes := (s, 2, ofs)

/-- Runs one operation and writes its result register. -/
def portRun (p : Port) (run : POp) (idx : Nat) (operand : List Byte) (tag : Nat) (s : State) : State :=
  let r := run idx operand tag s
  portResult r.1 p tag r.2.1 r.2.2

/-- Counts a dropped command write: the queue is full. -/
def portDrop (s : State) (p : Port) : State :=
  match p with
  | .flow => bump s 0x172 7
  | _ => bumpR s p.page 0x408 1

/-- Refuses a command with FAULT_NOT_READY (result 0xA) and counts it (R67, R70). -/
def portNotReady (s : State) (p : Port) (tag : Nat) : State := bump (portResult s p tag 0xA 0x17) 0x001 3

/-- Refuses a command with FAULT_FENCED (result 0xB). -/
def portFenced (s : State) (p : Port) (tag : Nat) : State := portResult s p tag 0xB 0x16

/-- The page through which a port is reached: a shared port through any present, powered page (R134, R159, R391). -/
def portPage (s : State) (p : Port) : Nat :=
  let cands := match p with
    | .stm => (List.range 32).map (0x100 + ·)
    | .scl => (List.range 4).map (0x128 + ·)
    | .enc => [0x120, 0x121]
    | _ => [p.page]
  (cands.find? (fun g => pageOn s g && (blk s g).st != .fenced && !bit (blk s g).fence.maj 0)).getD p.page

/-- A write of a command register (R104): copies the operand, marks the result PENDING and carries the command
out, refuses it, or holds it behind the queue. -/
def portCmd (p : Port) (m : Master) (op tag idx : Nat) (run : POp) (s : State) : State :=
  guarded m (portPage s p) p.cmdOfs s (fun s =>
    let operand := getRec s p.page p.stageOfs p.stageN
    let s := if p = .flow && op = 5 then putRec s 0x172 0x200 (zeros 128) else s
    if 256 ≤ (portQ s p).length then portDrop s p
    else
      let s := portResult s p tag 0xF 0
      let d := portDisp s p op idx operand
      if (portQ s p).isEmpty && d = .run then portRun p run idx operand tag s
      else if (portQ s p).isEmpty && d = .notReady then portNotReady s p tag
      else if (portQ s p).isEmpty && d = .fenced then portFenced s p tag
      else
        let s := setPortQ s p (portQ s p ++ [⟨op, tag, idx, operand, now s⟩])
        if switchHolds s p op then s else bump s 0x001 2)

/-- Refuses the waiting commands whose target has become absent, FAILED or FENCED, in order (R68). -/
def portRefuse (s : State) (p : Port) : State :=
  let q := portQ s p
  let s := setPortQ s p (q.filter (fun c =>
    let d := portDisp s p c.op c.idx c.operand
    d == .run || d == .held))
  q.foldl (fun t c =>
    match portDisp s p c.op c.idx c.operand with
    | .notReady => portNotReady t p c.tag
    | .fenced => portFenced t p c.tag
    | _ => t) s

/-- The same for every port. -/
def portsRefuse (s : State) : State := allPorts.foldl portRefuse s

end Sys2Proof.Machine
end

