-- ==== Sys2Proof/Machine/Peers.lean ====
section
/-!
DEFINITION. Machine/Peers.lean: messages between modules and their rings (R538-R540).
-/
namespace Sys2Proof.Machine

/-- A peer. -/
def peer (s : State) (m : Nat) : Peer := tgetD s.peal.peers m {}

/-- Changes a peer. -/
def updPeer (s : State) (m : Nat) (f : Peer → Peer) : State :=
  { s with peal := { s.peal with peers := tset s.peal.peers m (f (peer s m)) } }

/-- PEAL_CFG.EN. -/
def pealEn (s : State) : Bool := bit (getR s 0x1E0 0x100) 31

/-- Peal runs and uses a peer. -/
def peerEn (s : State) (m : Nat) : Bool :=
  m < 16 && m != s.life.modId && pealEn s && ready s 0x1E0 && bit (getR s 0x1E0 (0x208 + 16 * m)) 31

/-- Address of this module's inbox: BAR2 slot 254 (R538). -/
def inbox (s : State) : Nat := getR64 s 0x181 (0x1000 + 16 * 254)

/-- Address that BAR2 slot 255, the landing slot, maps. -/
def landing (s : State) : Nat := getR64 s 0x181 (0x1000 + 16 * 255)

/-- Writes through peer window m; a FROZEN endpoint drops the write (R462). -/
def peerPut (s : State) (m ofs : Nat) (l : List Byte) : State :=
  if s.pcie.frozen then s else hostPut s (peerAddr s m ofs) l

/-- Offset of a peer's inbox in its window. -/
def inboxWin : Nat := 0xFE0000000

/-- Offset of a peer's landing blocks in its window. -/
def landWin : Nat := 0xFF0000000

/-- Messages to a peer that it has not consumed. -/
def peerLag (s : State) (m : Nat) : Nat :=
  ((peer s m).prod + 2 ^ 32 - rdLe s (inbox s + 0x10400 + 64 * m) 4) % 2 ^ 32

/-- Writes a message into this module's ring at the peer, then its PROD word. -/
def peerWrite (s : State) (m : Nat) (msg : List Byte) : State :=
  let p := (peer s m).prod
  let me := s.life.modId
  let s := peerPut s m (inboxWin + 0x1000 * me + 64 * (p % 64)) msg
  let s := peerPut s m (inboxWin + 0x10000 + 64 * me) (leBytes 4 (p + 1))
  bump (updPeer s m (fun x => { x with prod := (p + 1) % 2 ^ 32 })) 0x1E0 0

/-- Sends a message; it waits, and the wait is counted, while the peer has 64 messages unconsumed (R539). -/
def peerSend (s : State) (m ty : Nat) (body : List Byte) : State :=
  let msg := leBytes 1 ty ++ leBytes 1 s.life.modId ++ zeros 2 ++ leBytes 4 (peer s m).seq ++ fitBytes 56 body
  let s := updPeer s m (fun x => { x with seq := (x.seq + 1) % 2 ^ 32 })
  if !(peer s m).waitQ.isEmpty || 64 ≤ peerLag s m then
    bump (updPeer s m (fun x => { x with waitQ := x.waitQ ++ [msg] })) 0x1E0 5
  else peerWrite s m msg

/-- Waiting messages go while the ring has space. -/
def peerFlush (s : State) (m : Nat) : Nat → State
  | 0 => s
  | k + 1 =>
    match (peer s m).waitQ with
    | [] => s
    | g :: t => if 64 ≤ peerLag s m then s else peerFlush (peerWrite (updPeer s m (fun x => { x with waitQ := t })) m g) m k

/-- GOODBYE to every peer in UP (R540). -/
def goodbyes (s : State) (cause : Nat) : State :=
  (s.peal.peers.filter (fun (q : Nat × Peer) => q.2.st == 1)).foldl (fun s (q : Nat × Peer) =>
    peerSend s q.1 2 (leBytes 1 cause)) s

/-- Landing offset of a device address, in 64 KiB units. -/
def landOfs (s : State) (a : Nat) : Nat := (a - landing s) / 0x10000

end Sys2Proof.Machine
end

