-- ==== Sys2Proof/Machine/StmOps.lean ====
section
/-!
DEFINITION. Machine/StmOps.lean: what the stages of a stream share: stream fields and sizes (R111, R112), stream
events (R494), the tracker's order stage (R359, R360), the evidence window (R377-R379), block releases and the
allocation of picture and map blocks to waiting streams (R118).
-/
namespace Sys2Proof.Machine

/-! ### Streams -/

/-- A stream context's state. -/
def stm (s : State) (n : Nat) : Stm := tgetD s.stms n {}

/-- Replaces a stream. -/
def setStm (s : State) (n : Nat) (x : Stm) : State := { s with stms := tset s.stms n x }

/-- Changes a stream. -/
def updStm (s : State) (n : Nat) (f : Stm → Stm) : State := setStm s n (f (stm s n))

/-- SOURCE_HOST. -/
def Stm.host (x : Stm) : Bool := (byteAt x.recd 1).testBit 0

/-- ADAPT_INPUT. -/
def Stm.adapt (x : Stm) : Bool := (byteAt x.recd 1).testBit 1

/-- MAX_DPB. -/
def Stm.maxDpb (x : Stm) : Nat := byteAt x.recd 3

/-- MAX_W. -/
def Stm.maxW (x : Stm) : Nat := leAt x.recd 4 2

/-- MAX_H. -/
def Stm.maxH (x : Stm) : Nat := leAt x.recd 6 2

/-- MAX_DEPTH. -/
def Stm.depth (x : Stm) : Nat := byteAt x.recd 8

/-- PART: the partition a stream is pinned to. -/
def Stm.pin (x : Stm) : Option Nat := if byteAt x.recd 9 = 0xFF then none else some (byteAt x.recd 9)

/-- PIC_POOL. -/
def Stm.picPool (x : Stm) : Nat := byteAt x.recd 0x16

/-- MAP_POOL. -/
def Stm.mapPool (x : Stm) : Nat := byteAt x.recd 0x17

/-- STALE_LIMIT in ticks. -/
def Stm.stale (x : Stm) : Nat := leAt x.recd 0x14 2 * Config.tMs

/-- Bytes of a Tambour tile slot (R112, R154). -/
def tileBytes (b : Nat) : Nat := 64 * b / 8 + 2

/-- Bytes of one plane (R112). -/
def planeSize (w h b : Nat) : Nat := cdiv w 8 * cdiv h 8 * tileBytes b

/-- PIC_SIZE (R112). -/
def picSize (w h b : Nat) : Nat := planeSize w h b + 2 * planeSize (w / 2) (h / 2) b

/-- MAP_SIZE (R112). -/
def mapSize (w h : Nat) : Nat := 64 + 4 * cdiv w 16 * cdiv h 16

/-- EXPECT of R122, in ticks. -/
def Stm.expect (x : Stm) : Nat := cdiv (x.maxW * x.maxH * 25) 78

/-- DEC_BUDGET in ticks (R122). -/
def Stm.budget (x : Stm) : Nat :=
  if leAt x.recd 0xC 4 = 0 then 4 * x.expect else leAt x.recd 0xC 4 * Config.tUs

/-- A capture stamp has reached an age limit: the half-open rule of R18. -/
def aged (s : State) (stamp limit : Nat) : Bool := decide (limit ≤ now s - stamp)

/-- A stream event (R494): its count, and an entry of the stream event ring. STM_SHED counts in Gong's CNT6. -/
def stmEvent (s : State) (n code detail frameNo : Nat) : State :=
  let s := if code = 0x0B then bump s 0x1B0 6
    else updStm s n (fun x => { x with cnt := tmodD x.cnt (code - 1) 0 satInc })
  evtEntry s code detail n frameNo

/-! ### The order stage of the tracker -/

/-- A track set. -/
def trkSet (s : State) (n : Nat) : TrkSet := tgetD s.sets n {}

/-- Changes a track set. -/
def updSet (s : State) (n : Nat) (f : TrkSet → TrkSet) : State :=
  { s with sets := tset s.sets n (f (trkSet s n)) }

/-- ENABLE of a set. -/
def TrkSet.on (t : TrkSet) : Bool := byteAt t.recd 0 == 1

/-- Writes the header of a gap entry into the firmware area (R360, Table 15-3): its address. -/
def gapHeader (s : State) (n frameNo stamp gap : Nat) : State × Nat :=
  let a := s.ket.resv.getD 0 + Config.gapOfs + 64 * (s.fwBlk % 65536)
  let h := leBytes 1 1 ++ leBytes 1 8 ++ leBytes 2 n ++ leBytes 4 frameNo ++ leBytes 8 stamp ++ zeros 11 ++
    leBytes 1 gap
  (wrMem { s with fwBlk := s.fwBlk + 1 } a (fitBytes 64 h), a)

/-- Resolves an entry of a set as a gap. -/
def gapResolve (s : State) (n : Nat) (e : TrkEnt) (gap : Nat) : State :=
  let r := gapHeader s n e.frameNo e.stamp gap
  updSet r.1 n (fun t => { t with ents := t.ents.map (fun x =>
    if x.frameNo = e.frameNo && x.seq = e.seq then { x with post := some r.2, gap := gap } else x) })

/-- The unresolved entry with the earliest capture stamp. -/
def firstOpen (t : TrkSet) : Option TrkEnt :=
  (t.ents.filter (fun e => e.post.isNone)).foldl (fun (b : Option TrkEnt) e =>
    match b with
    | none => some e
    | some x => if e.stamp < x.stamp then some e else b) none

/-- Registers a frame in its set's order stage; a 33rd registration turns the earliest unresolved entry into
gap 7 (R360). -/
def trkRegister (s : State) (n frameNo stamp src : Nat) (passed : Bool) : State :=
  let t := trkSet s n
  if !t.on || t.ending then s
  else
    let s := if 32 ≤ t.ents.length then
        match firstOpen t with
        | some e => bumpR (gapResolve s n e 7) 0x190 0x6014 1
        | none => s
      else s
    updSet s n (fun t => { t with
      ents := t.ents ++ [{ frameNo := frameNo, stamp := stamp, seq := t.passed, src := src }],
      passed := t.passed + b2n passed })

/-- A frame that will not reach TRK_POST becomes a gap entry (R359); one never passed on is registered first. -/
def trkGap (s : State) (n frameNo stamp gap : Nat) : State :=
  let t := trkSet s n
  if !t.on || t.ending then s
  else
    let s := if t.ents.any (fun e => e.frameNo == frameNo) then s else trkRegister s n frameNo stamp 0 false
    match (trkSet s n).ents.find? (fun e => e.frameNo == frameNo && e.post.isNone) with
    | some e => gapResolve s n e gap
    | none => s

/-! ### Blocks and waiting streams -/

/-- Evidence state of a stream. -/
def evid (s : State) (n : Nat) : Evid := tgetD s.evids n {}

/-- Changes a stream's evidence state. -/
def updEvid (s : State) (n : Nat) (f : Evid → Evid) : State :=
  { s with evids := tset s.evids n (f (evid s n)) }

/-- A stream is armed (R377). -/
def Evid.armed (e : Evid) : Bool := byteAt e.recd 0 == 1

/-- A clip in progress holds a window picture (R378). -/
def Evid.held (e : Evid) (p : WinPic) : Bool :=
  match e.clip with
  | some c => c.todo.any (fun q => q.pic == p.pic)
  | none => false

/-- A stream waits for a block of pool p (R118). -/
def Stm.waits (x : Stm) (p : Nat) : Bool :=
  x.st != 0 && !x.queue.isEmpty && x.dec.isNone &&
    ((x.picBlk.isNone && x.picPool == p) || (x.mapBlk.isNone && x.mapPool == p))

/-- A stream comes before another in the order of R118: effective priority, entry of its head access unit, number. -/
def stmBefore (a b : Nat × Stm) : Bool :=
  let q := fun (x : Stm) => match x.queue with
    | h :: _ => h.entry
    | [] => 0
  decide (a.2.prio < b.2.prio) || (a.2.prio == b.2.prio && (decide (q a.2 < q b.2) || (q a.2 == q b.2 &&
    decide (a.1 < b.1))))

/-- The first of a list of streams in the order of R118. -/
def firstStm (l : List (Nat × Stm)) : Option (Nat × Stm) :=
  l.foldl (fun (b : Option (Nat × Stm)) x =>
    match b with
    | none => some x
    | some y => if stmBefore x y then some x else b) none

/-- One allocation of a decoder for a stream, class 1; pools of regions that are not READY grant nothing. -/
def stmAlloc (s : State) (n pn : Nat) : State × Option Nat :=
  if !poolUsable s pn then (s, none)
  else
    match ketAlloc s pn 2 n 1 1 with
    | (s', .ok (a :: _)) => (s', some a)
    | (s', _) => (s', none)

/-- Allocates what a stream without a frame in decode lacks: one attempt for each block (R118). -/
def stmTry1 (s : State) (n : Nat) : State :=
  let x := stm s n
  if x.st = 0 || x.queue.isEmpty || x.dec.isSome then s
  else
    let s := if x.picBlk.isSome then s else
      let r := stmAlloc s n x.picPool
      updStm r.1 n (fun y => { y with picBlk := r.2 })
    if x.mapBlk.isSome then s else
      let r := stmAlloc s n x.mapPool
      updStm r.1 n (fun y => { y with mapBlk := r.2 })

/-- RELEASE of one claim by a unit; when it frees a block, the first stream that waits for the pool is granted
(R118, R433). -/
def relBlock (s : State) (ptr space id : Nat) : State :=
  match ketPtr s ptr with
  | none => (ketRelease s ptr space id).1
  | some (pn, _, b) =>
    let s := (ketRelease s ptr space id).1
    match pool s pn with
    | none => s
    | some p =>
      match tget p.owners b with
      | some _ => s
      | none =>
        match firstStm (s.stms.filter (fun q => q.2.waits pn)) with
        | some (m, _) => stmTry1 s m
        | none => s

/-- One entry of each picture block in a list of window pictures. -/
def distinctPics : List WinPic → List WinPic
  | [] => []
  | p :: t => if t.any (fun q => q.pic == p.pic) then distinctPics t else p :: distinctPics t

/-- Releases the encoder's claim of a window picture; the claim of a block goes with the last entry that names it
(R377). -/
def winRelease (s : State) (n : Nat) (p : WinPic) : State :=
  let e := evid s n
  if e.window.any (fun q => q.pic == p.pic) || e.held p then s else relBlock s p.pic 4 2

/-- R378: with no free picture block for an armed stream, the encoder releases its oldest window picture that no
clip in progress holds. Answers whether one was released. -/
def prerollRelease (s : State) (n : Nat) : State × Bool :=
  let e := evid s n
  if !e.armed then (s, false)
  else
    match e.window.find? (fun p => !e.held p) with
    | none => (s, false)
    | some p =>
      let s := updEvid s n (fun e => { e with window := e.window.filter (fun q => !(q.pic == p.pic)) })
      (bump (winRelease s n p) (0x120 + (match e.clip with
        | some c => c.enc
        | none => 0)) 5, true)

/-- Allocation for a waiting stream, with the pre-roll giving way (R118, R378). -/
def stmTryK (s : State) (n : Nat) : Nat → State
  | 0 => s
  | k + 1 =>
    let s := stmTry1 s n
    let x := stm s n
    if x.st != 0 && !x.queue.isEmpty && x.dec.isNone && x.picBlk.isNone then
      let r := prerollRelease s n
      if r.2 then stmTryK r.1 n k else r.1
    else s

/-- Allocation for a waiting stream: at most as many pre-roll releases as the window holds pictures. -/
def stmTry (s : State) (n : Nat) : State := stmTryK s n ((evid s n).window.length + 1)

/-- Grants blocks to every waiting stream of a pool in the order of R118, for releases of many blocks at once. -/
def poolGrant (s : State) (pn : Nat) : Nat → State
  | 0 => s
  | k + 1 =>
    match firstStm (s.stms.filter (fun q => q.2.waits pn)) with
    | none => s
    | some (m, _) =>
      let s' := stmTry1 s m
      if (stm s' m).waits pn then s' else poolGrant s' pn k

/-- Releases every claim of an owner, then grants what waits. -/
def relAll (s : State) (space id : Nat) : State :=
  let s := ketReleaseAll s space id
  (tkeys s.ket.pools).foldl (fun s pn => poolGrant s pn 1024) s

/-- Tries an allocation for every stream that waits. -/
def grantAll (s : State) : State := (tkeys s.ket.pools).foldl (fun s pn => poolGrant s pn 1024) s

/-! ### Decode queues (R114, R116, R123) -/

/-- Releases the bitstream block of an access unit that a stream is done with; while the stream's inbound migration
lasts, a landing block goes back to the source by FREE (R542). -/
def auRelease (s : State) (n : Nat) (a : Au) : State :=
  if a.block = 0 then s
  else
    match s.peal.migIn with
    | some g => if a.landed && g.stm = n then peerSend s g.peer 14 (leBytes 4 (landOfs s a.block)) else relBlock s a.block 2 n
    | none => relBlock s a.block 2 n

/-! ### The end of a migration on this side (R543) -/

/-- A migration of this stream ends ABORTED with a reason; ABORT goes to the other side while it is UP. -/
def migEnds (s : State) (n reason : Nat) : State :=
  let s := match s.peal.migOut with
    | some g =>
      if g.stm != n then s
      else
        let s := if (peer s g.peer).st = 1 then peerSend s g.peer 11 (leBytes 2 g.stm ++ leBytes 2 g.dst ++ leBytes 1 reason) else s
        let s := { s with peal := { s.peal with migOut := none } }
        bump (portResult (updStm s n (fun x => { x with migHold := false })) .peal g.tag 0xC reason) 0x1E0 3
    | none => s
  match s.peal.migIn with
  | some g =>
    if g.stm != n then s
    else
      let s := if (peer s g.peer).st = 1 then peerSend s g.peer 11 (leBytes 2 g.src ++ leBytes 2 g.stm ++ leBytes 1 reason) else s
      let s := { s with peal := { s.peal with migIn := none } }
      let s := relBlock s g.pkg 2 n
      bump (if g.phase = 0 then g.refs.foldl (fun s b => relBlock s b 2 n) s else s) 0x1E0 3
  | none => s

/-- An access unit leaves the queue unread: it counts as consumed, and with a cause its frame is a gap (R20). -/
def auLeave (s : State) (n : Nat) (a : Au) (gap : Option Nat) : State :=
  let x := stm s n
  let s := updStm s n (fun x => { x with consumed := satInc x.consumed, frameNo := x.frameNo + 1 })
  let s := match gap with
    | some g => trkGap s n x.frameNo a.stamp g
    | none => s
  auRelease s n a

/-- An access unit is discarded; for an adaptation stream its sample is rejected (R406). -/
def auDiscard (s : State) (n : Nat) (a : Au) (gap : Option Nat) : State :=
  let t := auLeave s n a gap
  if (stm s n).adapt then { t with adaptIn := t.adaptIn ++ [{ stm := n, sample := a.sample, cause := 3 }] } else t

/-- An access unit enters a decode queue; at a full queue the head is discarded (R114). -/
def auQueue (s : State) (n : Nat) (a : Au) : State :=
  let x := stm s n
  let s := if 16 ≤ x.queue.length then
      match x.queue with
      | h :: t => auDiscard (setStm s n { x with queue := t }) n h (some 2)
      | [] => s
    else s
  stmTry (updStm s n (fun x => { x with queue := x.queue ++ [a] })) n

/-! ### The evidence window (R377) -/

/-- A clip's picture list takes a picture while the clip wants more. -/
def clipTake (e : Evid) (p : WinPic) : Evid :=
  match e.clip with
  | none => e
  | some c =>
    if c.more = 0 then e
    else { e with clip := some { c with todo := c.todo ++ [p], more := c.more - 1, total := c.total + 1 } }

/-- Window entries past the last PREROLL pictures whose track update has completed leave (R377). -/
def winTrim (s : State) (n : Nat) : State :=
  let e := evid s n
  let keepN := leAt e.recd 2 2
  let k := e.window.length - keepN
  let gone := (e.window.take k).filter (·.updated)
  let stay := ((e.window.take k).filter (fun p => !p.updated)) ++ e.window.drop k
  (distinctPics gone).foldl (fun s p => winRelease s n p) (updEvid s n (fun e => { e with window := stay }))

/-- A picture passed on enters the window of an armed stream with one claim of the encoder (R377). -/
def winAdd (s : State) (n : Nat) (p : WinPic) : State :=
  let e := evid s n
  if !e.armed then s
  else
    let s := if e.window.any (fun q => q.pic == p.pic) then s else (ketClaim s p.pic 4 2).1
    winTrim (updEvid s n (fun e => clipTake { e with window := e.window ++ [p] } p)) n

/-- The track update of a frame has completed (R377, R382). -/
def winUpdated (s : State) (n frameNo : Nat) (boxes : List (List Byte)) : State :=
  let m := fun (p : WinPic) => if p.frameNo = frameNo then { p with updated := true, boxes := boxes } else p
  winTrim (updEvid s n (fun e => { e with
    window := e.window.map m, clip := e.clip.map (fun c => { c with todo := c.todo.map m }) })) n

/-- The stream has no enabled track set: its pictures wait for no update. -/
def noTrack (s : State) (n : Nat) : Bool := !(trkSet s n).on

/-! ### Scaler claims and gating status -/

/-- A stream's gate state. -/
def gate (s : State) (n : Nat) : Gate := tgetD s.gates n {}

/-- Changes a stream's gate state. -/
def updGate (s : State) (n : Nat) (f : Gate → Gate) : State := { s with gates := tset s.gates n (f (gate s n)) }

/-- A GATE_SET configuration is in force. -/
def Gate.gated (g : Gate) : Bool := !g.recd.isEmpty

/-- The scaler's claim of a frame is released (R147): on its picture and on its map. -/
def sframeDrop (s : State) (f : SFrame) : State :=
  let s := { s with sframes := s.sframes.filter (fun g => !(g.stm == f.stm && g.frameNo == f.frameNo &&
    g.map == f.map)) }
  relBlock (relBlock s f.pic 4 1) f.map 4 1

/-- Changes a frame that the scaler holds. -/
def updSframe (s : State) (f : SFrame) (g : SFrame → SFrame) : State :=
  { s with sframes := s.sframes.map (fun x =>
    if x.stm = f.stm && x.frameNo = f.frameNo && x.map = f.map then g x else x) }

end Sys2Proof.Machine
end

