-- ==== Sys2Proof/Machine/Post.lean ====
section
/-!
DEFINITION. Machine/Post.lean: Clave counters (R251), completion records (R314), and trigger posts (R315).
-/
namespace Sys2Proof.Machine

/-! ### Clave -/

/-- A Clave counter. -/
def clv (s : State) (k : Nat) : Word := tgetD s.clave k 0

/-- Offset of a ring's registers in its cluster page. -/
def ringOfs (n : Nat) : Nat := 0x200 + 0x10 * n

/-- A producer counter above RING_CONS + slots faults the ring's owner with FAULT_SEQ_ILLEGAL and disables the ring;
otherwise the slots that the counter has passed are runnable from now (R138, R145). -/
def ringCheck (s : State) (p n : Nat) : State :=
  let pg := 0x128 + p
  let cfg := getR s pg (ringOfs n + 8)
  let k := 8 * p + n
  let ahead := (clv s (bits cfg 15 8) - getR s pg (ringOfs n + 12)).toNat
  if !bit cfg 31 then s
  else if 2 ^ bits cfg 3 0 < ahead then
    ctxFault (putRV s pg (ringOfs n + 8) (setBits cfg 31 31 0)) (bits cfg 27 16) 0x13 pg 0
  else
    let have' := (tgetD s.rjobs k []).length + (tgetD s.ringAt k []).length
    { s with ringAt := tmodD s.ringAt k [] (fun l => l ++ List.replicate (ahead - have') (now s)) }

/-- Sets a Clave counter and checks the job rings it produces for. -/
def clvSet (s : State) (k : Nat) (v : Word) : State :=
  let s := { s with clave := tset s.clave k v }
  forN 4 (fun p s => forN 8 (fun n s =>
    if bits (getR s (0x128 + p) (ringOfs n + 8)) 15 8 = k then ringCheck s p n else s) s) s

/-- A fetch-and-add on a Clave counter (R251). -/
def clvAdd (s : State) (k : Nat) (n : Nat) : State := clvSet s k (clv s k + word n)

/-! ### Completion records -/

/-- Writes a completion record where the ring has space: the ring's next entry, the producer index, MSI-X. -/
def cplWrite (s : State) (n : Nat) (r : List Byte) : Option State :=
  let c := ctx s n
  let size := 2 ^ byteAt c.recd 0x19
  if size ≤ (c.cplProd - c.cplCons).toNat then none
  else
    let w := unitWrite s (leAt c.recd 0x10 8 + 32 * (c.cplProd.toNat % size)) r
    some (msixReq (updCtx w.1 n (fun c => { c with cplProd := c.cplProd + 1 })) (leAt c.recd 6 2))

/-- Moves held completions to the ring while it has space. -/
def cplDrain (s : State) (n : Nat) : Nat → State
  | 0 => s
  | k + 1 =>
    match (ctx s n).cplWait with
    | [] => s
    | r :: t =>
      match cplWrite s n r with
      | some s' => cplDrain (updCtx s' n (fun c => { c with cplWait := t })) n k
      | none => s

/-- The completion of an invocation (R314, Table 13-3): written in order, held back while the ring is full (log 26). A
ring entry is consumed with it. A batch's step writes none (R341). -/
def complete (s : State) (n : Nat) (i : Inv) (status code grant : Nat) : State :=
  let c := ctx s n
  let r := leBytes 8 (leAt i.recd 0x10 8) ++ leBytes 1 status ++ leBytes 1 code ++
    leBytes 2 (if i.recd.isEmpty then 0xFFFF else leAt i.recd 0x18 2) ++ leBytes 4 i.seq ++ leBytes 8 grant ++
    leBytes 8 (now s)
  let s := updCtx s n (fun c => { c with
    cplWait := if i.special = 1 then c.cplWait else c.cplWait ++ [r], lastStatus := status, lastCode := code,
    ringCons := if i.ring then c.ringCons + 1 else c.ringCons,
    nDone := if status = 0 then satInc c.nDone else c.nDone, nFault := if status = 1 then satInc c.nFault else c.nFault,
    nStale := if status = 3 then satInc c.nStale else c.nStale, nTrig := if status = 4 then satInc c.nTrig else c.nTrig })
  cplDrain s n (c.cplWait.length + 1)

/-! ### Queued invocations and posts -/

/-- An IDLE context with a queued invocation waits (Table 13-4). -/
def ctxWake (s : State) (n : Nat) : State :=
  let c := ctx s n
  if c.st = .idle && !c.queue.isEmpty then setCtx s n { c with st := .waiting } else s

/-- The next sequence number of a context's invocations. -/
def seqNext (s : State) (n : Nat) : State × Nat :=
  (updCtx s n (fun c => { c with seqNo := c.seqNo + 1 }), (ctx s n).seqNo)

/-- A frame dropped at dispatch: reported to gating, whose ages stay raised, and to the tracker as a gap (R150, R359). -/
def dispatchDrop (s : State) (n frameNo stamp gap : Nat) : State :=
  let s := updGate s n (fun g =>
    { g with dropped := if g.gated then satInc g.dropped else g.dropped, pend := g.pend.filter (fun q => q.1 != frameNo) })
  trkGap s n frameNo stamp gap

/-- The detector's results for a frame are delivered: its processed tiles' AGE becomes 0 (R150). -/
def dispatchDone (s : State) (n stamp : Nat) : State :=
  updGate s n (fun g => { g with
    age := (g.pend.filter (fun q => q.2.1 == stamp)).foldl (fun a q => q.2.2.foldl (fun a t => tset a t 0) a) g.age,
    pend := g.pend.filter (fun q => q.2.1 != stamp) })

/-- A track release that never ran: its post block returns and its set may release again, the step still to be
predicted (R361). -/
def trackLost (s : State) (set : Nat) : State :=
  match (trkSet s set).busy with
  | none => s
  | some e =>
    let s := updSet s set (fun t => { t with busy := none })
    match e.post with
    | some b => if e.gap = 0 then relBlock s b 4 4 else s
    | none => s

/-- A frame's gating record says which frame it is: stream, FRAME_NO, capture stamp (Table 06-5). -/
def gateRecFrame (s : State) (blk : Nat) : Nat × Nat × Nat := (rdLe s (blk + 6) 2, rdLe s (blk + 0xC) 4, rdLe s (blk + 0x10) 8)

/-- What an invocation that will not run reports of its frame. -/
def invDropped (s : State) (n : Nat) (i : Inv) (gap : Nat) : State :=
  if i.special = 3 then trackLost s i.owner
  else if i.block = 0 then
    if i.recd.isEmpty || leAt i.recd 0x18 2 = 0xFFFF then s
    else
      let m := leAt i.recd 0x18 2
      match (gate s m).pend.find? (fun q => q.2.1 == leAt i.recd 0x20 8) with
      | some q => dispatchDrop s m q.1 q.2.1 gap
      | none =>
        match (trkSet s m).ents.find? (fun e => e.stamp == leAt i.recd 0x20 8 && e.post.isNone) with
        | some e => dispatchDrop s m e.frameNo e.stamp gap
        | none => s
  else
    let f := gateRecFrame s i.block
    relBlock (dispatchDrop s f.1 f.2.1 f.2.2 gap) i.block 1 n

/-- A trigger post: the template with STM and CAPTURE of the post; at a full queue of 16 the oldest post is displaced
and completed with STATUS 4 (R315). -/
def ctxPost (s : State) (n m stamp block special owner : Nat) : State :=
  let c := ctx s n
  let posts := c.queue.filter (fun i => !i.ring && i.special != 1 && i.special != 2)
  let s := if 16 ≤ posts.length then
      match posts with
      | o :: _ =>
        let s := setCtx s n { c with queue := c.queue.filter (fun i => !(i.arrival == o.arrival && i.seq == o.seq && !i.ring)) }
        invDropped (bump (complete s n o 4 0 0) 0x190 6) n o 5
      | [] => s
    else s
  let tpl := rdMem s (leAt c.recd 0x28 8) 64
  let r := putAt (putAt tpl 0x18 (leBytes 2 m)) 0x20 (leBytes 8 stamp)
  let q := seqNext s n
  let i : Inv := { recd := r, arrival := now s, ring := false, block := block, special := special, owner := owner,
                   seq := q.2 }
  ctxWake (updCtx q.1 n (fun c => { c with queue := c.queue ++ [i] })) n

/-- FLAGS of a context record. -/
def Ctx.flag (c : Ctx) (k : Nat) : Bool := (byteAt c.recd 1).testBit k

/-- Gating's SIGNAL on a counter, posted to each TRIGGERED context that names it (R152, R315). -/
def gateSignal (s : State) (k m stamp block : Nat) : State :=
  let s := clvAdd s k 1
  let ns := (s.ctxs.filter (fun q => q.2.st != .closed && q.2.st != .held && q.2.flag 1 && leAt q.2.recd 0x1A 2 == k)).map (·.1)
  ns.foldl (fun s n => ctxPost s n m stamp block 0 0) s

end Sys2Proof.Machine
end

