-- ==== Sys2Proof/Machine/Gating.lean ====
section
/-!
DEFINITION. Machine/Gating.lean: Muffle gating (R23, R148-R153) and scaler start (R18, R137).
-/
namespace Sys2Proof.Machine

/-- Page of a scaler cluster. -/
def sclPage (p : Nat) : Nat := 0x128 + p

/-- TILE_W. -/
def Gate.tileW (g : Gate) : Nat := leAt g.recd 4 2

/-- TILE_H. -/
def Gate.tileH (g : Gate) : Nat := leAt g.recd 6 2

/-- K: REFRESH_K or the profile's (R148). -/
def gateK (s : State) (g : Gate) : Nat := if byteAt g.recd 1 = 0 then profF s 0x10F 1 8 else byteAt g.recd 1

/-- RE_EFF (R148). -/
def reEff (s : State) (g : Gate) (depth : Nat) : Nat :=
  let r := if leAt g.recd 8 2 = 0xFFFF then profF s 0x110 2 1024 else leAt g.recd 8 2
  if depth = 10 then min (4 * r) 65534 else r

/-- MV_EFF. -/
def mvEff (s : State) (g : Gate) : Nat := if leAt g.recd 0xA 2 = 0xFFFF then profF s 0x112 2 4 else leAt g.recd 0xA 2

/-- A box of the predicted-box list overlaps a tile's rectangle with positive area (R149). -/
def boxHits (x0 y0 x1 y1 : Nat) (b : List Byte) : Bool :=
  let bx0 := leAt b 0 2
  let by0 := leAt b 2 2
  let bx1 := leAt b 4 2
  let by1 := leAt b 6 2
  decide (max x0 bx0 < min x1 bx1 ∧ max y0 by0 < min y1 by1)

/-- The predicted-box list at gating: boxes, FRAME_NO, and the count; none when it cannot be read (R149). -/
def boxList (s : State) (a : Nat) : State × Option (Nat × Nat × List (List Byte)) :=
  let h := unitRead s a 8
  if !h.2.2 then (h.1, none)
  else
    let n := leAt h.2.1 0 4
    let r := unitRead h.1 (a + 8) (8 * min n 1024)
    if !r.2.2 then (r.1, none)
    else (r.1, some (n, leAt h.2.1 4 4, (List.range (min n 1024)).map (fun i => (r.2.1.drop (8 * i)).take 8)))

/-- Reason of R149 for one tile of a frame that is not processed whole. -/
def tileReason (s : State) (g : Gate) (map w h re mv k t : Nat) (boxes : List (List Byte)) : Nat :=
  let gw := cdiv w g.tileW
  let c := t % gw
  let r := t / gw
  let mw := cdiv w 16
  let mh := cdiv h 16
  let mg := byteAt g.recd 2
  let bx0 := c * g.tileW / 16 - mg
  let by0 := r * g.tileH / 16 - mg
  let bx1 := min mw ((c + 1) * g.tileW / 16 + mg)
  let by1 := min mh ((r + 1) * g.tileH / 16 + mg)
  let past := (List.range (by1 - by0)).any (fun y => (List.range (bx1 - bx0)).any (fun x =>
    let e := rdLe s (map + 64 + 4 * ((by0 + y) * mw + bx0 + x)) 4
    decide (re < bitsN e 15 0 ∨ mv < bitsN e 23 16)))
  let box := boxes.any (boxHits (c * g.tileW) (r * g.tileH) ((c + 1) * g.tileW) ((r + 1) * g.tileH))
  if past then 2
  else if box then 3
  else if (g.no + t) % k = 0 || k - 1 ≤ tgetD g.age t 0 then 4
  else 0

/-- WHOLE of Table 06-5: why the whole frame is processed, 0 when it is not. -/
def wholeOf (g : Gate) (ftype flags w h : Nat) (late past : Bool) : Nat :=
  if ftype = 0 then 1
  else if flags.testBit 1 then 2
  else if flags.testBit 5 then 3
  else if g.whole || g.size != some (w, h) then 4
  else if byteAt g.recd 0 = 0 then 5
  else if late then 6
  else if past then 7
  else 0

/-- The gating record (Table 06-5). -/
def gateRecord (s : State) (n : Nat) (g : Gate) (f : SFrame) (whole w h k re mv : Nat) (tiles : List (Nat × Nat)) :
    List Byte :=
  let carried := (tiles.filter (fun t => t.1 == 0)).length
  [0x43, 0x58, 0x47, 0x54] ++ leBytes 1 1 ++ leBytes 1 whole ++ leBytes 2 n ++ leBytes 4 g.no ++ leBytes 4 f.frameNo ++
    leBytes 8 (rdLe s (f.map + 0x18) 8) ++ leBytes 1 (cdiv w g.tileW) ++ leBytes 1 (cdiv h g.tileH) ++ leBytes 1 k ++
    zeros 1 ++ leBytes 2 g.tileW ++ leBytes 2 g.tileH ++ leBytes 2 (tiles.length - carried) ++ leBytes 2 carried ++
    leBytes 2 re ++ leBytes 2 mv ++ leBytes 8 f.map ++ zeros 16 ++ zeros 64 ++
    tiles.map (fun t => BitVec.ofNat 8 ((if t.1 = 0 then min t.2 15 else 0) + 16 * t.1))

/-- Writes a frame's gating record with its destinations and signals its counter (R152). -/
def gateFinish (s : State) (f : SFrame) : State :=
  match f.gateBlk with
  | none => s
  | some b =>
    let outs := (List.range 8).flatMap (fun i => leBytes 8 (tgetD f.outAddr i 0))
    let s := (wrGddr s b (putAt f.gateRec 0x40 outs)).1
    let k := leAt (gate s f.stm).recd 0x18 2
    if (gate s f.stm).gated && k ≤ 255 then gateSignal s k f.stm f.stamp b else s

/-- The standing list of a frame is complete: the gating record is written, and without CROP_HOLD the scaler's claim
is released (R147, R152). -/
def listDone (s : State) (f : SFrame) : State :=
  let s := gateFinish (updSframe s f (fun x => { x with phase := 2 })) f
  if byteAt (gate s f.stm).recd 3 = 1 then s else sframeDrop s f

/-- A frame dropped at scaler start: no record, no SIGNAL, the claim released (R18, R152). -/
def startDrop (s : State) (f : SFrame) (gap : Nat) : State :=
  let s := match f.gateBlk with
    | some b => relBlock s b 1 (leAt (gate s f.stm).recd 0xE 2)
    | none => s
  let s := updGate s f.stm (fun g =>
    { g with dropped := if g.gated then satInc g.dropped else g.dropped, pend := g.pend.filter (fun q => q.1 != f.frameNo) })
  sframeDrop (trkGap s f.stm f.frameNo f.stamp gap) f

/-- Scaler start (R137): the staleness check, the drop of a shed stream's frame (R482), then the standing list is runnable; a frame with no list is complete. -/
def scalerStart (s : State) (f : SFrame) : State :=
  let x := stm s f.stm
  if !x.adapt && aged s f.stamp x.stale then
    startDrop (bump (stmEvent s f.stm 4 0 f.frameNo) (sclPage f.cluster) 2) f 1
  else if 1 ≤ shedLevel s f.stm then startDrop s f 5
  else
    let g := { f with phase := 1, runAt := now s, list := (gate s f.stm).list }
    let s := updSframe s f (fun _ => g)
    if g.list.isEmpty then listDone s g else s

/-- Gating decides one frame (R149): every tile, the ages, the record's block, then scaler start. -/
def gateDecide (s : State) (f : SFrame) : State :=
  let n := f.stm
  let g := gate s n
  let w := rdLe s (f.map + 0xC) 2
  let h := rdLe s (f.map + 0xE) 2
  let ftype := rdLe s (f.map + 5) 1
  let flags := rdLe s (f.map + 6) 2
  let bl := leAt g.recd 0x10 8
  let r := if bl = 0 then (s, some (0, 0, [])) else boxList s bl
  let s := r.1
  let late := bl != 0 && (match r.2, g.prev with
    | none, _ => true
    | some (_, fn, _), some p => decide (fn < p)
    | some _, none => false)
  let cnt := match r.2 with
    | some (c, _, _) => c
    | none => 0
  let boxes := match r.2 with
    | some (_, _, l) => l
    | none => []
  let whole := wholeOf g ftype flags w h late (1024 < cnt)
  let k := gateK s g
  let re := reEff s g (stm s n).depth
  let mv := mvEff s g
  let nt := cdiv w g.tileW * cdiv h g.tileH
  let tiles := (List.range nt).map (fun t =>
    let rs := if whole = 0 then tileReason s g f.map w h re mv k t boxes else 1
    (rs, tgetD g.age t 0 + 1))
  let procd := (List.range nt).filter (fun t => (tiles.getD t (0, 0)).1 != 0)
  let pg := sclPage f.cluster
  let s := bumpN (bumpN s pg 3 procd.length) pg 4 (nt - procd.length)
  let s := if whole = 6 || whole = 7 then bump s pg 5 else s
  let rec' := gateRecord s n g f whole w h k re mv tiles
  let s := updGate s n (fun g => { g with
    last := g.no, no := g.no + 1, whole := false, size := some (w, h), prev := some f.frameNo,
    age := (List.range nt).foldl (fun a t => tset a t ((tiles.getD t (0, 0)).2)) [],
    procd := procd.length, carried := nt - procd.length, frames := satInc g.frames,
    wholes := if whole = 0 then g.wholes else satInc g.wholes,
    fallback := if late then satInc g.fallback else g.fallback,
    boxOvf := if 1024 < cnt then satInc g.boxOvf else g.boxOvf })
  let q := stmAllocCtx s (byteAt g.recd 0xC) (leAt g.recd 0xE 2)
  let f' := { f with gateRec := rec', gateBlk := q.2 }
  let s := updSframe (updGate q.1 n (fun g => { g with pend := g.pend ++ [(f.frameNo, f.stamp, procd)] })) f (fun _ => f')
  match q.2 with
  | none => startDrop s f' 5
  | some _ => scalerStart s f'
where
  /-- A block of class 1 with one claim of a consuming context (Table 18-5). -/
  stmAllocCtx (s : State) (pn c : Nat) : State × Option Nat :=
    if !poolUsable s pn then (s, none)
    else
      match ketAlloc s pn 1 c 1 1 with
      | (s', .ok (a :: _)) => (s', some a)
      | (s', _) => (s', none)

/-- GATING_DECIDE: the oldest undecided picture of a gated stream (R149, R153); a stream without a gate configuration
starts scaling at write-back and has none. -/
def execGatingDecide (n : Nat) (s : State) : Host.Outcome State Fault Refusal :=
  .next (match s.sframes.find? (fun f => f.stm == n && f.phase == 0) with
    | some f => if (gate s n).gated then gateDecide s f else scalerStart s f
    | none => s)

end Sys2Proof.Machine
end

