-- ==== Sys2Proof/Machine/SeqOps.lean ====
section
/-!
DEFINITION. Machine/SeqOps.lean: the sequencer of a logical core: handles and scratchpad access (R230, R276-R281),
faults and their deferral (R225, R228, R301), ordering (R227), issue and completion of descriptors.
-/
namespace Sys2Proof.Machine

/-! ### Logical cores -/

/-- Page of core c. -/
def corePg (c : Nat) : Nat := 0x010 + c

/-- Page of engine e of core c. -/
def engPg (c e : Nat) : Nat := 0x040 + 4 * c + e

/-- The sequencer of logical core lc of context n. -/
def seq (s : State) (n lc : Nat) : Seq := tgetD s.seqs (64 * n + lc) {}

/-- Replaces a sequencer. -/
def setSeq (s : State) (n lc : Nat) (q : Seq) : State := { s with seqs := tset s.seqs (64 * n + lc) q }

/-- Changes a sequencer. -/
def updSeq (s : State) (n lc : Nat) (f : Seq → Seq) : State := setSeq s n lc (f (seq s n lc))

/-- A context runs on logical core lc: it is RUNNING, or an eviction was asked for and its pause is not yet reached. -/
def seqLive (s : State) (n lc : Nat) : Bool :=
  ((ctx s n).st == .running || ((ctx s n).st == .evicting && s.car.parkedOn.all (fun (q : Nat × Nat) => q.2 != n))) &&
    decide (lc < (ctx s n).cores.length)

/-- Logical cores of a context. -/
def lcores (s : State) (n : Nat) : List Nat := List.range (ctx s n).cores.length

/-- The contexts whose streams a physical core runs, with the logical core: at most two (R320). -/
def onCore (s : State) (c : Nat) : List (Nat × Nat) :=
  (s.seqs.filter (fun q => q.2.core = c && q.2.base != 0 && (ctx s (q.1 / 64)).cores[q.1 % 64]? == some c)).map
    (fun q => (q.1 / 64, q.1 % 64))

/-- A logical engine of a logical core. -/
def Seq.eng (q : Seq) (e : Nat) : LEng := tgetD q.engs e {}

/-- Replaces a logical engine. -/
def Seq.setEng (q : Seq) (e : Nat) (x : LEng) : Seq := { q with engs := tset q.engs e x }

/-- A tag. -/
def Seq.tag (q : Seq) (t : Nat) : STag := tgetD q.tags t {}

/-- Replaces a tag. -/
def Seq.setTag (q : Seq) (t : Nat) (x : STag) : Seq := { q with tags := tset q.tags t x }

/-- A physical core's scratchpad state. -/
def coreSt (s : State) (c : Nat) : CoreSt := tgetD s.cores c {}

/-- Replaces a core's scratchpad state. -/
def setCore (s : State) (c : Nat) (x : CoreSt) : State := { s with cores := tset s.cores c x }

/-! ### Scratchpad rows (R272, R286) -/

/-- Ranges without the rows [a, b). -/
def rowsCut (l : List (Nat × Nat)) (a b : Nat) : List (Nat × Nat) :=
  l.flatMap (fun r => ([(r.1, min r.2 a), (max r.1 b, r.2)] : List (Nat × Nat)).filter (fun x => decide (x.1 < x.2)))

/-- Rows of [a, b) that lie in a list of ranges. -/
def rowsIn (l : List (Nat × Nat)) (a b : Nat) : Nat := (l.map (fun r => min r.2 b - max r.1 a)).sum

/-- Number of rows of disjoint ranges. -/
def rowsN (l : List (Nat × Nat)) : Nat := (l.map (fun r => r.2 - r.1)).sum

/-- Adds rows to a list of ranges, keeping them disjoint. -/
def rowsAdd (l : List (Nat × Nat)) (a b : Nat) : List (Nat × Nat) := if a < b then rowsCut l a b ++ [(a, b)] else l

/-- Rows touched by bytes [o, o + n). -/
def rowSpan (o n : Nat) : Nat × Nat := if n = 0 then (o / 64, o / 64) else (o / 64, (o + n - 1) / 64 + 1)

/-- Reads a scratchpad. PENDING rows were zeroed when they were marked; each read of one counts (R286). -/
def scrRead (s : State) (c o n : Nat) : State × List Byte :=
  let r := rowSpan o n
  let k := rowsIn (coreSt s c).pend r.1 r.2
  (if k = 0 then s else bumpR s (corePg c) 0x410 k, rdMem s (scratchAddr c o) n)

/-- Writes a scratchpad: PENDING clears in the rows written (R286). -/
def scrWrite (s : State) (c o : Nat) (l : List Byte) : State :=
  let r := rowSpan o l.length
  let x := coreSt s c
  let s := if rowsIn x.pend r.1 r.2 = 0 then s else setCore s c { x with pend := rowsCut x.pend r.1 r.2 }
  wrMem s (scratchAddr c o) l

/-- Marks rows [a, b) of a core PENDING: no master can read their former contents (R286). -/
def markPending (s : State) (c a b who : Nat) : State :=
  let x := coreSt s c
  let s := setCore s c { x with pend := rowsAdd x.pend a b, who := who,
                                pendAt := if x.pend.isEmpty then now s else x.pendAt }
  { s with mem := memZero s.mem (scratchAddr c (64 * a)) (64 * (b - a)) }

/-! ### Handles (R230, R276-R280) -/

/-- A resolved handle. -/
structure HRef where
  num : Nat
  scr : Bool          -- SCRATCH
  core : Nat          -- physical core of a SCRATCH handle
  base : Nat          -- byte offset, or device address
  ext : Nat
  ro : Bool           -- READONLY, or remote (R278)
  excl : Bool
  fmt : Nat
  scale : Nat
  prov : Bool
  ptag : Nat
  wide : Bool
  remote : Bool
  deriving DecidableEq, Repr

/-- The handle of a number, when it is valid. FMT, SCALE and PROVISIONAL of a remote handle are those of the same
number on the named logical core (R278). -/
def href (s : State) (n lc num : Nat) : Option HRef :=
  let e := tgetD (seq s n lc).handles num []
  if byteAt e 0 % 2 = 0 then none
  else
    let scr := !(byteAt e 0).testBit 4
    let l := byteAt e 1
    let remote := scr && l != lc
    let v := if remote then tgetD (seq s n l).handles num [] else e
    some { num := num, scr := scr, core := (ctx s n).cores.getD l 0, base := leAt e 8 8, ext := leAt e 0x10 8,
           ro := (byteAt e 0).testBit 1 || remote, excl := (byteAt e 0).testBit 2, fmt := byteAt v 2,
           scale := leAt v 4 4, prov := (byteAt v 0).testBit 3, ptag := byteAt v 3 % 8, wide := (byteAt v 3).testBit 3,
           remote := remote }

/-- Changes the bytes of a handle entry. -/
def updHandle (s : State) (n lc num : Nat) (f : List Byte → List Byte) : State :=
  updSeq s n lc (fun q => { q with handles := tmod q.handles num f })

/-- Records a tensor's format and scale in a handle entry (R279). -/
def hTensor (s : State) (n lc num fmt scale : Nat) : State :=
  updHandle s n lc num (fun e => putAt (putAt e 2 (leBytes 1 fmt)) 4 (leBytes 4 scale))

/-- Sets or clears PROVISIONAL and PTAG. -/
def hProv (s : State) (n lc num : Nat) (on : Bool) (ptag : Nat) (wide : Bool) : State :=
  updHandle s n lc num (fun e =>
    putAt (putAt e 0 (leBytes 1 (byteAt e 0 - 8 * (byteAt e 0 / 8 % 2) + 8 * b2n on))) 3
      (leBytes 1 (ptag + 8 * b2n wide)))

/-- IDX added by a handle byte's ISEL (R230). -/
def iselOf (i : Iss) (hb : Nat) : Nat := if hb / 64 = 0 then 0 else i.idx.getD (hb / 64 - 1) 0

/-- Reads through a SCRATCH handle at a byte offset modulo 2^32: the bytes before the first failing one, and the fault
code (R230, R259, R277). -/
def hRead (s : State) (n lc : Nat) (i : Iss) (hb ofs len : Nat) : State × List Byte × Option Nat :=
  match href s n lc (hb % 64) with
  | none => (s, [], some 3)
  | some h =>
    if !h.scr then (s, [], some 3)
    else
      let o := (ofs + iselOf i hb) % 2 ^ 32
      let k := min len (h.ext - o)
      let r := scrRead s h.core (h.base + o) k
      (r.1, r.2, if k < len then some 2 else none)

/-- Writes through a SCRATCH handle: what lies before the first failing byte is written. -/
def hWrite (s : State) (n lc : Nat) (i : Iss) (hb ofs : Nat) (l : List Byte) : State × Option Nat :=
  match href s n lc (hb % 64) with
  | none => (s, some 3)
  | some h =>
    if !h.scr || h.ro then (s, some 3)
    else
      let o := (ofs + iselOf i hb) % 2 ^ 32
      let k := min l.length (h.ext - o)
      (scrWrite s h.core (h.base + o) (l.take k), if k < l.length then some 2 else none)

/-! ### Faults of descriptors (R225, R228, R301) -/

/-- Codes that a tag defers (R301, Table 21-1); FAULT_SEQ_ILLEGAL is deferred only under R293, through `deferFault`. -/
def deferrable (code : Nat) : Bool :=
  (1 ≤ code && code ≤ 8) || code = 0x0D || code = 0x0E || code = 0x0F || code = 0x10

/-- DETAIL of a fault's log record: the last-event register of the raising unit (Table 21-4). -/
def lastEvent (s : State) (code page : Nat) : Nat :=
  if code = 5 then (getR s page 0x108).toNat
  else if code = 8 && 0x140 ≤ page && page ≤ 0x15F then (getR s page 0x110).toNat
  else if code = 0x0E then (getR s 0x180 0x108).toNat
  else if code = 0x10 then (getR s page 0x404).toNat
  else 0

/-- A descriptor's fault acts on its context: the sequencer issues nothing further, and descriptors issued and not
begun are discarded (R225, R228). -/
def seqFaultNow (s : State) (n lc : Nat) (i : Iss) (code page : Nat) : State :=
  let c := (seq s n lc).core
  let s := putR64 s (corePg c) 0x210 i.addr
  let s := raiseFault s (.ctx n) code page i.addr (lastEvent s code page) 0 0
  (lcores s n).foldl (fun s l => updSeq s n l (fun q => { q with st := if l = lc then 4 else q.st, issued := [] })) s

/-- Closes a lease that an iteration held (R252). -/
def leaseClose (s : State) (n lc : Nat) (l : Option (Nat × Nat)) : State :=
  match l with
  | none => s
  | some (k, v) => { s with leases := s.leases.erase (k, v, n, lc) }

/-- Discards issued descriptors without effect; an iteration whose last descriptor is discarded has ended. -/
def dropIss (s : State) (n lc : Nat) (p : Iss → Bool) : State :=
  let gone := (seq s n lc).issued.filter p
  let s := updSeq s n lc (fun q => { q with issued := q.issued.filter (fun i => !p i) })
  gone.foldl (fun s i => leaseClose s n lc i.lease) s

/-- A fault deferred into a tag: the first one is kept, and the tag's descriptors not yet begun are discarded (R291,
R301). -/
def deferFault (s : State) (n lc : Nat) (i : Iss) (t code : Nat) : State :=
  let s := bumpR s (corePg (seq s n lc).core) 0x544 1
  updSeq (dropIss s n lc (fun j => j.tag == some t)) n lc (fun q =>
    let x := q.tag t
    if x.st = 1 then q.setTag t { x with st := 2, code := if x.code = 0 then code else x.code,
                                         desc := if x.code = 0 then i.addr else x.desc }
    else q)

/-- A descriptor's fault, deferred into its tag where R301 says so. -/
def seqFault (s : State) (n lc : Nat) (i : Iss) (code page : Nat) : State :=
  match i.tag with
  | none => seqFaultNow s n lc i code page
  | some t => if deferrable code then deferFault s n lc i t code else seqFaultNow s n lc i code page

/-! ### Ordering by handle and slot (R227) -/

/-- Kind of a descriptor: its OPCODE. -/
def Iss.kind (i : Iss) : Nat := byteAt i.d 0

/-- A descriptor is a pass: MPASS, PPASS or CPASS. -/
def Iss.isPass (i : Iss) : Bool := decide (1 ≤ byteAt i.d 0 ∧ byteAt i.d 0 ≤ 3)

/-- The engine that a pass or drain names. -/
def Iss.engine (i : Iss) : Nat := byteAt i.d 8 % 4

/-- Handle numbers that a descriptor reads (Tables 09-4 to 09-11). A VEC may read any of its six. -/
def Iss.reads (i : Iss) : List Nat :=
  let h := fun o => byteAt i.d o % 64
  match i.kind with
  | 1 => [h 0xE, h 0xF] ++ (if (byteAt i.d 9).testBit 6 || byteAt i.d 0xA / 4 % 4 != 0 then [h 0x20] else [])
  | 2 => [h 0xE, h 0xF]
  | 3 => [h 0x20, h 0x21]
  | 4 => [h 0x13] ++ (if (List.range 8).any (fun k => leAt i.d (0x30 + 2 * k) 2 == 5) then [h 0x11] else [])
  | 8 => if (byteAt i.d 8).testBit 1 && !(byteAt i.d 8).testBit 4 then [h 9] else []
  | 9 => [h 0x15]
  | 0x20 => (List.range 6).map (fun k => h (0xA + k))
  | _ => []

/-- Handle numbers that a descriptor writes. -/
def Iss.writes (i : Iss) : List Nat :=
  let h := fun o => byteAt i.d o % 64
  match i.kind with
  | 4 => [h 0x10] ++ (if (byteAt i.d 8).testBit 7 then [h 0x12] else [])
  | 8 => if (byteAt i.d 8).testBit 2 then [h 0xA] else []
  | 9 => [h 0x16]
  | 0x20 => (List.range 6).map (fun k => h (0xA + k))
  | _ => []

/-- Architectural slots that a pass or drain names, within 0-15 (R162, R177, R236, R239). -/
def Iss.slots (i : Iss) : List Nat :=
  let rng := fun b m => (List.range (cdiv m 16)).map (b + ·)
  let base := byteAt i.d 0xB % 16
  match i.kind with
  | 1 => rng base (leAt i.d 0xC 2) ++ (if byteAt i.d 0xA / 4 % 4 = 0 then [] else rng (byteAt i.d 0xB / 16) (leAt i.d 0xC 2))
  | 2 => rng base (leAt i.d 0xC 2) ++ (if (byteAt i.d 8).testBit 2 then rng (base + cdiv (leAt i.d 0xC 2) 16) (leAt i.d 0xC 2) else [])
  | 3 => rng base (leAt i.d 0xE 2)
  | 4 => rng (byteAt i.d 9 % 16) (leAt i.d 0xA 2) ++
      (if (byteAt i.d 8).testBit 2 then rng (byteAt i.d 9 / 16) (leAt i.d 0xA 2) else [])
  | _ => []

/-- Two descriptors are ordered by a handle or a slot that both name. -/
def Iss.conflicts (a b : Iss) : Bool :=
  a.writes.any (fun h => b.reads.contains h || b.writes.contains h) || a.reads.any (fun h => b.writes.contains h) ||
    (a.kind ≤ 4 && b.kind ≤ 4 && byteAt a.d 8 % 4 == byteAt b.d 8 % 4 && a.slots.any (fun x => b.slots.contains x))

/-- Descriptors issued before one. -/
def Seq.before (q : Seq) (i : Iss) : List Iss := q.issued.takeWhile (fun j => !(j.addr == i.addr && j.iter == i.iter))

/-- Nothing earlier in the stream holds a descriptor back (R227). A PPASS and its DRAIN run together (R237). -/
def Seq.clear (q : Seq) (i : Iss) : Bool :=
  (q.before i).all (fun j => !j.conflicts i || (match i.pp with
    | some p => p.1 == j.addr
    | none => false))

/-- What a PROVISIONAL handle asks of a descriptor that reads or writes it: 0 goes on, 1 waits, 2 faults (R293). -/
def hGate (s : State) (n lc : Nat) (i : Iss) (num : Nat) (wr : Bool) : Nat :=
  match href s n lc num with
  | none => 0
  | some h =>
    if !h.prov then 0
    else
      match i.tag with
      | some t => if !h.wide && h.ptag = t && !h.remote then 0 else if wr then 2 else 1
      | none => 1

/-- The gates of every handle of a descriptor. -/
def gatesOf (s : State) (n lc : Nat) (i : Iss) : Nat :=
  let g := i.reads.map (fun h => hGate s n lc i h false) ++ i.writes.map (fun h => hGate s n lc i h true)
  if g.contains 2 then 2 else if g.contains 1 then 1 else 0

/-! ### Issue and completion -/

/-- Passes of an engine that a physical core holds issued (R165). -/
def passesOf (s : State) (c e : Nat) : Nat :=
  ((onCore s c).map (fun q => ((seq s q.1 q.2).issued.filter (fun i => i.kind ≤ 3 && byteAt i.d 8 % 4 == e)).length)).sum

/-- An issue stall at a bound of Table 12-5. -/
def stall (s : State) (c k : Nat) : State := putR s (corePg c) 0x558 (word k)

/-- Moves the PC over the descriptors that DONE_MASK marks (R326). -/
def skipDone (q : Seq) : Nat → Seq
  | 0 => q
  | k + 1 => if q.skip.contains q.pc then skipDone { q with pc := q.pc + 64, skip := q.skip.erase q.pc } k else q

/-- The sequencer goes on to the next descriptor; behind the last descriptor of a CLAIM's body the next take is due
(R252). -/
def advance (s : State) (n lc : Nat) (i : Iss) : State :=
  updSeq s n lc (fun q =>
    let q := { q with pc := q.pc + 64, np := byteAt i.d 1 % 4 != 0 }
    let q := skipDone q 32
    match q.claim with
    | some k => if q.pc = k.stop then { q with claim := some { k with due := true } } else q
    | none => q)

/-- The lease that a descriptor closes when it completes: it is the last of an iteration's body. -/
def Seq.leaseAt (q : Seq) : Option (Nat × Nat) :=
  match q.claim with
  | some k => if k.lease && q.pc + 64 = k.stop then k.val.map (fun v => (k.ctr, v)) else none
  | none => none

/-- Counts a completed descriptor and restarts the progress window (R226, R498). -/
def retire (s : State) (n lc : Nat) (i : Iss) (past : Bool) : State :=
  let pg := corePg (seq s n lc).core
  let s := bumpR s pg 0x218 1
  let s := if past then bumpR s pg 0x21C 1 else s
  let s := updCtx s n (fun c => { c with progress := now s })
  leaseClose (updSeq s n lc (fun q =>
    { q with issued := q.issued.filter (fun j => !(j.addr == i.addr && j.iter == i.iter)) })) n lc i.lease

/-- Takes a descriptor into the issued list. -/
def enqueue (s : State) (n lc : Nat) (i : Iss) : State :=
  advance (updSeq s n lc (fun q => { q with issued := q.issued ++ [i] })) n lc i

/-- Issues and completes a descriptor at once. -/
def immediate (s : State) (n lc : Nat) (i : Iss) (past : Bool) : State := retire (advance s n lc i) n lc i past

/-- Replaces an issued descriptor. -/
def setIss (s : State) (n lc : Nat) (i : Iss) : State :=
  updSeq s n lc (fun q => { q with issued := q.issued.map (fun j => if j.addr == i.addr && j.iter == i.iter then i else j) })

/-! ### Decode checks (R224, R225, R231-R248, R256, R260, R265, R282, R290) -/

/-- A kind that may carry a tag (Table 12-1). -/
def mayTag (d : List Byte) : Bool :=
  match byteAt d 0 with
  | 1 | 2 | 3 | 4 | 0x20 | 8 | 0x11 => true
  | 0x30 => decide (byteAt d 8 ≤ 1)
  | _ => false

/-- Opcodes of Table 09-3. -/
def knownOp (o : Nat) : Bool :=
  [1, 2, 3, 4, 8, 9, 0x10, 0x11, 0x12, 0x18, 0x19, 0x1A, 0x20, 0x30].contains o

/-- A value lies in a range. -/
def inR (v lo hi : Nat) : Bool := decide (lo ≤ v ∧ v ≤ hi)

/-- The common header is legal (Table 09-2), CTX and OPCODE apart. -/
def headOk (d : List Byte) : Bool :=
  byteAt d 1 % 4 != 3 && byteAt d 1 / 64 == 0 && leAt d 2 2 / 4096 == 0 && byteAt d 7 == 0 && inR (leAt d 4 3) 1 16777215

/-- MODE and ELEM of a pass are a legal combination (R231). -/
def modeOk (d : List Byte) : Bool :=
  let m := byteAt d 9
  let f := m % 4
  let x := byteAt d 0xA
  m / 128 == 0 && x / 16 == 0 && x / 4 % 4 != 3 && !(m.testBit 4 && f == 1) && !(m.testBit 5 && !m.testBit 4) &&
    !(m.testBit 6 && f != 2) && !(f == 3 && x % 4 != 0) && !(m.testBit 3 && f != 0)

/-- Row size of a pass's activations. -/
def rowSize (d : List Byte) : Nat := if byteAt d 9 % 4 = 3 then 64 else 32

/-- MPASS (Table 09-4). -/
def mpassOk (d : List Byte) : Bool :=
  let rs := rowSize d
  byteAt d 8 / 4 == 0 && modeOk d && inR (leAt d 0xC 2) 1 256 && leAt d 0x10 4 % rs == 0 && leAt d 0x14 4 % rs == 0 &&
    leAt d 0x18 4 % 64 == 0 && (leAt d 0x1C 4 == 0xFFFFFFFF || leAt d 0x1C 4 % 64 == 0) && zeroAt d 0x21 3 &&
    leAt d 0x24 4 % 4 == 0 && leAt d 0x28 4 % 4 == 0 && leAt d 0x30 4 % 64 == 0 && leAt d 0x34 4 % 64 == 0 &&
    leAt d 0x38 4 % 64 == 0 && zeroAt d 0x3C 4 &&
    (byteAt d 0xA / 4 % 4 != 0 || (byteAt d 9).testBit 6 || (byteAt d 0x20 == 0 && zeroAt d 0x24 0xC))

/-- PPASS (Table 09-5). -/
def ppassOk (d : List Byte) : Bool :=
  let pk := byteAt d 0x12
  byteAt d 8 / 8 == 0 && modeOk d && !(byteAt d 9).testBit 3 && byteAt d 0xA / 4 == 0 && byteAt d 0xB / 16 == 0 &&
    inR (leAt d 0xC 2) 1 256 && inR (leAt d 0x10 2) 1 4096 && [1, 2, 4, 8].contains pk &&
    (pk == 1 || (!(byteAt d 9).testBit 4 && !(byteAt d 9).testBit 6)) && inR (byteAt d 0x13) 1 255 &&
    leAt d 0x14 4 % rowSize d == 0 && leAt d 0x24 4 % 64 == 0 && leAt d 0x28 4 % 64 == 0 && leAt d 0x2C 4 % 64 == 0 &&
    zeroAt d 0x38 8

/-- Output size of a window operator along one axis (R260), at least 1 when it exists. -/
def winOut (inp pads dil k str : Nat) : Nat :=
  if inp + pads < dil * (k - 1) + 1 then 0 else (inp + pads - dil * (k - 1) - 1) / str + 1

/-- CPASS (Table 09-6, R256, R260, R265). -/
def cpassOk (d : List Byte) : Bool :=
  let diag := (byteAt d 8).testBit 2
  let f := byteAt d 9 % 4
  let on := leAt d 0xE 2
  let iw := leAt d 0x12 2
  let ih := leAt d 0x14 2
  let kh := byteAt d 0x16
  let kw := byteAt d 0x17
  let sh := byteAt d 0x18 % 16
  let sw := byteAt d 0x18 / 16
  let dh := byteAt d 0x19 % 16
  let dw := byteAt d 0x19 / 16
  let pt := byteAt d 0x1C
  let pb := byteAt d 0x1D
  let pl := byteAt d 0x1E
  let pr := byteAt d 0x1F
  let ow := winOut iw (pl + pr) dw kw sw
  let oh := winOut ih (pt + pb) dh kh sh
  byteAt d 8 / 8 == 0 && modeOk d && byteAt d 0xA / 4 == 0 && byteAt d 0xB / 16 == 0 && inR on 1 256 && inR iw 1 8192 &&
    inR ih 1 8192 && inR kh 1 15 && inR kw 1 15 && inR sh 1 8 && inR sw 1 8 && inR dh 1 8 && inR dw 1 8 &&
    byteAt d 0x1A / 8 == 0 && pt ≤ 15 && pb ≤ 15 && pl ≤ 15 && pr ≤ 15 && inR (leAt d 0x22 2) 1 4096 &&
    leAt d 0x24 4 % 32 == 0 && leAt d 0x28 4 % 32 == 0 && leAt d 0x2C 4 % 32 == 0 && leAt d 0x30 4 % 64 == 0 &&
    (leAt d 0x34 4 == 0xFFFFFFFF || leAt d 0x34 4 % 64 == 0) && zeroAt d 0x38 8 &&
    1 ≤ ow && 1 ≤ oh && leAt d 0xC 2 + on ≤ ow && leAt d 0x10 2 < oh && !(byteAt d 9).testBit 6 &&
    (byteAt d 0x1A % 4 != 2 || (pl < iw && pr < iw && pt < ih && pb < ih)) &&
    !(f == 1 && !(byteAt d 0x1A).testBit 2) &&
    (!diag || ((f == 0 || f == 2) && sw == 1 && dw ≤ 2 && kw ≤ 8 && leAt d 0x22 2 == 1 && on + (kw - 1) * dw ≤ 256))

/-- KIND of operation k of a DRAIN. -/
def opKind (d : List Byte) (k : Nat) : Nat := leAt d (0x30 + 2 * k) 2

/-- Operations of a DRAIN's chain, up to the first KIND 0. -/
def drainOps (d : List Byte) : List Nat := ((List.range 8).map (opKind d)).takeWhile (· != 0)

/-- DRAIN (Table 09-7, R240, R241). -/
def drainOk (d : List Byte) : Bool :=
  let ops := drainOps d
  let quant := ops.contains 6
  inR (leAt d 0xA 2) 1 256 && inR (byteAt d 0xC % 32) 1 16 && byteAt d 0xD < 16 * (byteAt d 0xC % 32) &&
    (if quant then decide (leAt d 0xE 2 ≤ 1023) else leAt d 0xE 2 == 0xFFFF) &&
    leAt d 0x14 4 % 64 == 0 && leAt d 0x18 4 % 64 == 0 && leAt d 0x24 4 % 64 == 0 && leAt d 0x28 4 % 64 == 0 &&
    leAt d 0x2C 4 % 64 == 0 && ops.all (fun k => decide (k ≤ 6)) && !(ops.dropLast).contains 6 &&
    ((List.range 8).drop ops.length).all (fun k => opKind d k == 0) &&
    ((byteAt d 8).testBit 7 || (byteAt d 0x12 == 0 && zeroAt d 0x28 8)) &&
    (ops.contains 5 || (byteAt d 0x11 == 0 && zeroAt d 0x1C 8))

/-- DMA (Table 09-9, R282). -/
def dmaOk (d : List Byte) : Bool :=
  let c := byteAt d 8
  let el := byteAt d 0xB
  let tr := c.testBit 3
  let fill := c.testBit 4
  c / 32 == 0 && [1, 2, 4].contains el && inR (leAt d 0xC 4) 1 1048576 && inR (leAt d 0x20 4) 1 16777216 &&
    (!c.testBit 1 || zeroAt d 0x14 4) && (!c.testBit 2 || zeroAt d 0x1C 4) && zeroAt d 0x30 16 &&
    (c.testBit 1 || byteAt d 9 == 0) && (c.testBit 2 || byteAt d 0xA == 0) &&
    !(tr && leAt d 0x20 4 % el != 0) && !(tr && fill) && !(tr && leAt d 0x28 4 < leAt d 0xC 4 * el) && (tr || el == 1)

/-- RESHARD (Table 09-10); logical cores 0 to nc − 1. -/
def reshardOk (d : List Byte) (nc : Nat) : Bool :=
  let el := byteAt d 0x14
  let parts := leAt d 0x18 8
  byteAt d 8 / 16 == 0 && [1, 2, 4].contains el && inR (leAt d 0xC 4) 1 16777215 && inR (leAt d 0x10 4) 1 1048576 &&
    leAt d 0x10 4 % el == 0 && byteAt d 0x17 == 0 && parts != 0 && parts / 2 ^ nc == 0 && parts.testBit (byteAt d 9) &&
    leAt d 0x20 4 % 32 == 0 && leAt d 0x24 4 % 32 == 0 && leAt d 0x28 4 % 32 == 0 && leAt d 0x2C 4 % 32 == 0 &&
    zeroAt d 0x30 16

/-- The small kinds (Table 09-11). -/
def smallOk (d : List Byte) (nc : Nat) : Bool :=
  match byteAt d 0 with
  | 0x10 =>
    (byteAt d 8 &&& 0xF2) == 0 && zeroAt d 0x14 44 &&
      (if byteAt d 8 % 2 = 0 then byteAt d 9 < nc && leAt d 0xA 2 ≤ 15 else byteAt d 9 == 0 && leAt d 0xA 2 ≤ 255)
  | 0x11 =>
    byteAt d 8 / 4 == 0 && byteAt d 9 == 0 && zeroAt d 0x10 48 &&
      (if byteAt d 8 % 2 = 0 then byteAt d 8 / 2 == 0 && leAt d 0xA 2 ≤ 15 else leAt d 0xA 2 ≤ 255)
  | 0x12 =>
    byteAt d 8 / 2 == 0 && byteAt d 9 == 0 && leAt d 0xA 2 ≤ 255 && inR (leAt d 0xC 2) 1 255 && 1 ≤ leAt d 0xE 2 &&
      zeroAt d 0x20 32
  | 0x18 | 0x19 | 0x1A => byteAt d 8 / 8 == 0 && zeroAt d 9 55
  | 0x20 => leAt d 8 2 ≤ 1023
  | 0x30 => byteAt d 8 ≤ 3 && byteAt d 9 == 0 && (byteAt d 8 == 2 || zeroAt d 0xA 2) && zeroAt d 0xC 52
  | _ => true

/-- Reserved bits and fields of a descriptor are legal. -/
def descOk (d : List Byte) (nc : Nat) : Bool :=
  headOk d &&
    (match byteAt d 0 with
     | 1 => mpassOk d
     | 2 => ppassOk d
     | 3 => cpassOk d
     | 4 => drainOk d
     | 8 => dmaOk d
     | 9 => reshardOk d nc
     | _ => smallOk d nc)

/-! ### The next descriptor -/

/-- Number of tagged descriptors issued and not complete (R300). -/
def Seq.tagged (q : Seq) : Nat := (q.issued.filter (fun i => i.tag.isSome)).length

/-- The descriptor at the PC, as it would be issued. -/
def nextIss (s : State) (n lc : Nat) (d : List Byte) : Iss :=
  let q := seq s n lc
  { addr := q.pc, d := d, idx := q.idx, tag := if (byteAt d 1).testBit 2 then some (byteAt d 1 / 8 % 8) else none,
    lease := q.leaseAt, iter := match q.claim with
      | some k => k.iter
      | none => 0
    since := now s }

/-- The page that a descriptor needs: its engine's for a pass that the engine does not take up, else its core's. -/
def seqTarget (s : State) (q : Seq) (d : List Byte) : Nat :=
  let e := engPg q.core (byteAt d 8 % 4)
  if 1 ≤ byteAt d 0 && byteAt d 0 ≤ 3 && dispOf s e != .run then e else corePg q.core

/-- Disposal of a descriptor by its core and its engine (Table 03-6). -/
def seqDisp (s : State) (q : Seq) (d : List Byte) : Disp := dispOf s (seqTarget s q d)

/-- Issues the next descriptor of a stream when it is one of the row's, by the checks of R225 in their order:
CTX, OPCODE, the state of its tag (R290, R291, R299), reserved bits and fields, and the bounds of Table 12-5. A row
that does not match the next descriptor is no event of this stream, and changes nothing. -/
def issue (s : State) (n lc : Nat) (isRow : List Byte → Bool) (act : Iss → State → State) : State :=
  let q := seq s n lc
  if !seqLive s n lc || q.st != 1 || q.ended || q.base = 0 then s
  else if (match q.claim with
    | some k => k.due
    | none => false) then s
  else if q.stop ≤ q.pc then seqFaultNow s n lc { addr := q.pc, d := [] } 0x13 (corePg q.core)
  else
    let r := unitRead s q.pc 64
    let d := r.2.1
    let i := nextIss s n lc d
    if !r.2.2 then seqFaultNow r.1 n lc { i with tag := none } 0x08 (corePg q.core)
    else
      let s := r.1
      let pg := corePg q.core
      let now' := { i with tag := none }
      if leAt d 2 2 % 4096 != n then seqFaultNow s n lc now' 0x0C pg
      else if !knownOp (byteAt d 0) then seqFaultNow s n lc now' 0x04 pg
      else if !isRow d then s
      else if lowEvent s && !(q.np && byteAt d 1 % 4 == 2) then s
      else if seqDisp s q d = .held then
        if q.heldAt.any (fun (h : Nat × Nat) => h.1 == q.pc) then s
        else bump (updSeq s n lc (fun q => { q with heldAt := some (q.pc, now s) })) 0x001 2
      else if seqDisp s q d = .notReady then bump (seqFault s n lc now' 0x17 (seqTarget s q d)) 0x001 3
      else if seqDisp s q d = .fenced then seqFault s n lc now' 0x16 (seqTarget s q d)
      else
        let st := match i.tag with
          | some t => (q.tag t).st
          | none => 1
        if st = 2 || st = 3 || st = 5 then leaseClose (bumpR (advance s n lc i) pg 0x540 1) n lc i.lease
        else if i.tag.isSome && !mayTag d then seqFaultNow s n lc now' 0x04 pg
        else if st != 1 then seqFaultNow s n lc now' 0x13 pg
        else if !descOk d (ctx s n).cores.length then
          let s := seqFault s n lc i 0x04 pg
          if i.tag.isSome then advance s n lc i else s
        else if 32 ≤ q.issued.length then stall s q.core 2
        else if i.tag.isSome && 8 ≤ q.tagged then stall s q.core 3
        else act i s

/-- The row of an opcode. -/
def isOp (o : Nat) (d : List Byte) : Bool := byteAt d 0 == o

end Sys2Proof.Machine
end

