-- ==== Sys2Proof/Machine/Units.lean ====
section
/-!
DEFINITION. Machine/Units.lean: what a reset does to the work of decoders, scaler clusters and encoders (R127, R147,
R392, R502), with the encoder's completion ring (R390).
-/
namespace Sys2Proof.Machine

/-- A decoder. -/
def dec (s : State) (d : Nat) : Dec := tgetD s.decs d {}

/-- Replaces a decoder; BUSY follows its job (R135). -/
def setDec (s : State) (d : Nat) (x : Dec) : State :=
  setStatus { s with decs := tset s.decs d x } (0x100 + d) 8 x.job.isSome

/-- The frame in decode goes back to the head of its stream's queue, its budget window unchanged (R127). -/
def decRequeue (s : State) (d : Nat) (count : Bool) : State :=
  match (dec s d).job with
  | none => s
  | some j =>
    let s := setDec s d { dec s d with job := none, row := 0 }
    updStm s j.stm (fun x => { x with
      dec := none, picBlk := some j.pic, mapBlk := some j.map, frameNo := j.frameNo,
      queue := { j.au with intr := j.au.intr + b2n count } :: x.queue })

/-! ### The encoders' completion ring (R390) -/

/-- Writes one completion entry into the ring where it has space. -/
def encCplWrite (s : State) (r : List Byte) : Option State :=
  let cfg := getR s 0x120 0x208
  let prod := getR s 0x120 0x20C
  let cons := getR s 0x120 0x210
  let size := 2 ^ bits cfg 3 0
  if !bit cfg 31 || size ≤ (prod - cons).toNat then none
  else
    let w := unitWrite s (getR64 s 0x120 0x200 + 64 * (prod.toNat % size)) r
    if w.2 then some (msixReq (putR w.1 0x120 0x20C (prod + 1)) (bits cfg 14 4)) else none

/-- Moves held completions to the ring while it has space. -/
def encCplDrain (s : State) : Nat → State
  | 0 => s
  | k + 1 =>
    match s.encCpl with
    | [] => s
    | r :: t =>
      match encCplWrite s r with
      | some s' => encCplDrain { s' with encCpl := t } k
      | none => s

/-- A completion entry (Table 16-3), held back in order while the ring is full. -/
def encComplete (s : State) (r : List Byte) : State :=
  let s := { s with encCpl := s.encCpl ++ [r] }
  encCplDrain s s.encCpl.length

/-- Table 16-3. -/
def cplEntry (s : State) (kind status n trackId blk bytes pics conc capped enc first trig : Nat) : List Byte :=
  leBytes 1 kind ++ leBytes 1 status ++ leBytes 2 n ++ leBytes 4 trackId ++ leBytes 8 blk ++ leBytes 4 bytes ++
    leBytes 2 pics ++ leBytes 2 conc ++ leBytes 2 capped ++ leBytes 1 enc ++ zeros 5 ++ leBytes 8 first ++
    leBytes 8 trig ++ leBytes 8 (now s) ++ zeros 8

/-- The clip header's fields, in the order R383 names them (log 23). -/
def clipHeader (n : Nat) (c : Clip) : List Byte :=
  [0x43, 0x58, 0x45, 0x56] ++ leBytes 1 1 ++ zeros 1 ++ leBytes 2 n ++ leBytes 4 c.done ++ leBytes 4 c.bytes ++
    leBytes 8 c.trig ++ leBytes 4 c.trackId ++ zeros 36

/-- An encoder. -/
def enc (s : State) (e : Nat) : Enc := tgetD s.encs e {}

/-- Replaces an encoder. -/
def setEnc (s : State) (e : Nat) (x : Enc) : State := { s with encs := tset s.encs e x }

/-- Ends a clip with a STATUS, with the pictures encoded so far: its header and completion entry are written, its work blocks return, its held
pictures are released, and it counts in CNT2 of its encoder (R383, R390, R392). -/
def clipEnd (s : State) (n status : Nat) : State :=
  let e := evid s n
  match e.clip with
  | none => s
  | some c =>
    let s := updEvid s n (fun e => { e with clip := none })
    let s := match (enc s c.enc).job with
      | some (.clip m _ _) => if m = n then setEnc s c.enc { enc s c.enc with job := none, row := 0 } else s
      | _ => s
    let s := (wrGddr s c.out (clipHeader n c)).1
    let s := c.work.foldl (fun s b => relBlock s b 4 2) s
    let s := (distinctPics c.todo).foldl (fun s p => winRelease s n p) s
    let maxF := leAt c.cfg 6 2
    let s := encComplete s (cplEntry s 0 status n c.trackId c.out (64 + 32 * maxF + c.bytes) c.done c.conc c.capped
      c.enc c.first c.trig)
    bump s (0x120 + c.enc) 2

/-- Streams with a clip bound to an encoder. -/
def clipsOf (s : State) (e : Nat) : List Nat :=
  (s.evids.filter (fun q => match q.2.clip with
    | some c => c.enc == e
    | none => false)).map (·.1)

/-- An encoder's reset ends its bound clips with STATUS 6, their bytes standing; a snapshot in progress ends so too
(R392). -/
def encAbort (s : State) (e : Nat) : State :=
  let s := match (enc s e).job with
    | some (.snap sn) =>
      let s := encComplete s (cplEntry s 1 6 sn.stm sn.trackId sn.out 0 0 0 0 e sn.pic.stamp sn.trig)
      relBlock s sn.pic.pic 4 2
    | _ => s
  let s := setEnc s e { enc s e with job := none, row := 0 }
  (clipsOf s e).foldl (fun s n => clipEnd s n 6) s

end Sys2Proof.Machine
end

