-- ==== Sys2Proof/Machine/Resets.lean ====
section
/-!
DEFINITION. Machine/Resets.lean: the reset ladder (R58, R500-R506) and out of service (R507).
-/
namespace Sys2Proof.Machine

/-! ### Reports -/

/-- A report to the tray controller over MCTP: 1 POWER_CYCLE, 2 OUT_OF_SERVICE, 3 RAIL_FAULT, 4 THERM_TRIP, 5 stop
notice, 6 image or counter. -/
def report (s : State) (kind detail : Nat) : State := { s with out := .mctp kind detail :: s.out }

/-- FLEET_EN of the active profile. -/
def fleetEn (s : State) : Bool := profF s 0x114 1 0 == 1

/-- The reset record of Tocsin's log and TOC_RESET_LAST (R496, R511). -/
def resetLog (s : State) (level cause parts page : Nat) : State :=
  putR (logRec s 1 level 0 3 0 page 0 (cause ||| parts <<< 8)) 0x1A0 0x124
    (word (level <<< 28 ||| cause <<< 20 ||| parts <<< 16 ||| (if level = 2 then page else 0)))

/-- A condition on which Tocsin would start a reset while out of service: a fault record with SPACE 3 (R507). Its code
is that of the watchdog (log 24). -/
def oosNote (s : State) (page : Nat) : State := logRec s 0 0x09 0 3 0 page 0 0

/-! ### Level 2: unit -/

/-- Page of an engine: 0x040 + 4c + e (Table 02-1). -/
def isEngine (page : Nat) : Bool := decide (0x040 ≤ page ∧ page ≤ 0x0FF)

/-- The header of a unit's page after its reset: counters, held fault, QUIESCE and FENCE at their reset values
(R505; log 25). -/
def headerReset (b : Blk) (st : BlkSt) : Blk :=
  { b with st := st, degraded := false, ctrl := Tri.all 0, fence := Tri.all 0, faultCtx := 0, cnt := [], voteErr := 0,
           status := 0 }

/-- Resets the header of a page, with its READY edges. -/
def pageReset (s : State) (page : Nat) (st : BlkSt) : State :=
  updBlk (setSt s page st) page (fun b => headerReset b st)

/-- Kills a context without naming it (R502): STATUS 2, CODE 0x00. -/
def killQuiet (s : State) (n : Nat) : State := if (ctx s n).st.live then startTeardown s n 0 true else s

/-- Contexts that hold a core of a set. -/
def ctxsOn (s : State) (p : Nat → Bool) : List Nat :=
  (s.ctxs.filter (fun q => q.2.st.live && q.2.cores.any p)).map (·.1)

/-- Drops what an engine holds of each context: its passes, and its slots scrubbed to zero (R500). -/
def engineDrop (s : State) (page : Nat) : State :=
  let e := (page - 0x040) % 4
  { s with engs := tdel s.engs (page - 0x040), seqs := s.seqs.map (fun q =>
    if q.2.core = (page - 0x040) / 4 then
      (q.1, { q.2 with engs := tdel q.2.engs e, issued := q.2.issued.filter (fun i => !(i.isPass && i.engine == e)) })
    else q) }

/-- Contexts with a pass in an engine (R502). -/
def engineCtxs (s : State) (page : Nat) : List Nat :=
  (s.seqs.filter (fun q => q.2.core = (page - 0x040) / 4 &&
    q.2.issued.any (fun i => i.isPass && i.engine == (page - 0x040) % 4))).map (fun q => q.1 / 64)

/-- What a unit reset does to the unit's work (R502). The entries that a scaler cluster's pipes hold run again from
their start (R147): an entry writes nothing before it completes, so they stay held. -/
def unitWork (s : State) (page : Nat) : State :=
  if isEngine page then engineDrop ((engineCtxs s page).foldl killQuiet s) page
  else if 0x100 ≤ page && page ≤ 0x11F then
    if (dec s (page - 0x100)).job.isSome then decRequeue s (page - 0x100) true else s
  else if page = 0x120 || page = 0x121 then encAbort s (page - 0x120)
  else s

/-- Times of resets inside the half-open window of `w` ticks before now. -/
def recentTimes (s : State) (l : List Nat) (w : Nat) : List Nat := l.filter (fun t => decide (now s < t + w ∨ now s ≤ t))

/-- The functions that a block's bring-up needs are ready (Table 03-4, R74, R507). -/
def needsMet (s : State) (p : Nat) : Bool :=
  let prof := s.life.profile.isSome && !s.toc.oos
  let enabled := match pagePart p with
    | some q => (partMask s).testBit q
    | none => true
  s.life.phase == .up &&
    (if p ≤ 0x00F || p = 0x1F0 || p = 0x1A0 || p = 0x1B0 || p = 0x1B1 || p = 0x1B2 || p = 0x1C0 then true
     else if p = 0x180 || p = 0x181 then s.life.refclk
     else if p = 0x1D0 then prof
     else if p = 0x170 || p = 0x171 then prof && fnReady s 102
     else if inR p 0x130 0x133 || inR p 0x140 0x15F then !s.toc.oos && fnReady s 102
     else if p = 0x160 then !s.toc.oos && [0, 1, 2, 3].any (fun q => ready s (0x130 + q))
     else if p = 0x172 then prof && fnReady s 7 && (ready s 0x170 || ready s 0x171)
     else if p = 0x1E0 then prof && fnReady s 2 && fnReady s 7
     else if p = 0x190 || p = 0x191 then prof && fnReady s 7
     else if p ≤ 0x0FF then prof && fnReady s 8 && enabled
     else prof && fnReady s 7 && enabled)

/-- The units of a partition reset: their headers, scratchpads and work (R58, R500, R502). Each comes up again from
INIT; those that were READY are what the level waits for. -/
def partitionDo (s : State) (parts cause : Nat) : State :=
  let pages := allPages.filter (fun p => pagePresent s p && (match pagePart p with
    | some q => parts.testBit q
    | none => false))
  let was := pages.filter (fun p => ready s p)
  let s := resetLog s 3 cause parts 0
  let s := { s with toc := { s.toc with rsts := { level := 3, page := 0, parts := parts, start := now s, wasReady := was } ::
    s.toc.rsts } }
  let s := (ctxsOn s (fun c => parts.testBit (c / 12))).foldl killQuiet s
  let s := pages.foldl (fun s p => unitWork s p) s
  let s := pages.foldl (fun s p => pageReset s p (if pageOn s p && needsMet s p then .init else .reset)) s
  let s := forN 48 (fun c s =>
    if parts.testBit (c / 12) then
      { s with mem := memZero s.mem (scratchAddr c 0) 0x400000, cores := tdel s.cores c }
    else s) s
  let s := { s with toc := { s.toc with hist3 := (List.range 4).foldl (fun h q =>
    if parts.testBit q then tmodD h q [] (fun l => now s :: l.take 3) else h) s.toc.hist3 } }
  bump (setStatus (bump s 0x1A0 3) 0x1A0 9 true) 0x004 1

/-! ### Level 4: warm chip, and what contains it -/

/-- The registers that a warm chip reset keeps: the pages of the management and always-on domains, the timebase, the
slot-emulation page and the security page (R57, R500), TOC_LOG_PROD (R505), and the training values (R424). -/
def warmKeeps (key : Nat) : Bool :=
  let p := key / 0x10000
  p ≤ 0x00F || p = 0x1F0 || p = 0x1B2 || p = 0x1C0 || key == rkey 0x1A0 0x100 ||
    (0x140 ≤ p && p ≤ 0x15F && 0x200 ≤ key % 0x10000 && key % 0x10000 < 0x250)

/-- The flash image as a reset finds it: a commit of a firmware bundle that it interrupts leaves it invalid (R531). -/
def imageLeft (x : Sec) : Option Bundle :=
  match x.st, x.staged with
  | .committing, some b => if b.kind = 0 then none else x.image
  | _, _ => x.image

/-- The security block after a warm chip reset (R527): IDLE, nothing staged, the flash image's components running. -/
def secWarm (x : Sec) : Sec :=
  { x with st := .idle, copy := [], staged := none, todo := [], active := 0, reload := false, cur := none,
           thenCommit := false, pct := 0, image := imageLeft x, imageInvalid := (imageLeft x).isNone,
           running := match imageLeft x with
             | some b => (b.comps.map (fun c => (c.ty, c))).foldl (fun t q => tset t q.1 q.2) []
             | none => x.running }

/-- A chip reset ends a profile switch that has not applied (R76). -/
def switchStop (s : State) : State :=
  setStatus (putR s 0x002 0x108 (setBits (getR s 0x002 0x108) 3 0 0)) 0x002 8 false

/-- A warm chip reset (R58, R504, R505): everything but the always-on, security and management domains and the
timebase; training values, the active profile and GDDR6 contents are kept. -/
def warmDo (s : State) (cause rcause : Nat) : State :=
  let s := resetLog s 4 rcause 0 0
  let s := bump s 0x004 0
  let was := (List.range 103).filter (fnReady s)
  let last := getR s 0x1A0 0x124
  let t : State :=
    { pending := s.pending, part := s.part, tb := s.tb,
      regs := s.regs.filter (fun q => warmKeeps q.1), rvs := s.rvs.filter (fun q => warmKeeps q.1),
      blks := s.blks.filter (fun q => warmKeeps (rkey q.1 0)),
      life := { s.life with phase := .waitB, switchTo := none, groups := 0 },
      mem := s.mem.filter (fun c => c.1 < 0x000E00000000), pcieMem := s.pcieMem, ecc := s.ecc,
      keys := s.keys,
      toc := { log := s.toc.log, fleet := s.toc.fleet, oos := s.toc.oos,
               rsts := [{ level := 4, page := 0, parts := 0, start := now s, wasReady := was }] },
      gong := { flashLog := s.gong.flashLog, trip := s.gong.trip, rail := s.gong.rail, stopCause := s.gong.stopCause },
      sec := secWarm s.sec, out := s.out, free := s.free,
      pcie := { wake := s.pcie.wake } }
  let t := switchStop (setPd (setPd (setPd t 69 2 0) 70 2 0) 71 2 0)
  let t := bumpN t 0x001 1 (was.filter (fun n => n != 0 && n != 1 && n != 98)).length
  let t := setStatus (setStatus t 0x001 8 false) 0x1A0 9 true
  putR (putR t 0x1A0 0x124 last) 0x004 0x100 (word (0x100 ||| cause))

/-! ### Power domains (R48, R487) -/

/-- Pages of present units in a power domain. -/
def domPages (s : State) (n : Nat) : List Nat := allPages.filter (fun p => pagePresent s p && pageDomain p == some n)

/-- A domain's rail goes off: what its units held is lost and their blocks are in RESET (R65, R487). -/
def domainOff (s : State) (n src : Nat) : State :=
  let ps := domPages s n
  let s := ps.foldl (fun s p => pageReset (unitWork s p) p .reset) s
  let s := { s with regs := s.regs.filter (fun q => !ps.contains (q.1 / 0x10000)),
                    rvs := s.rvs.filter (fun q => !ps.contains (q.1 / 0x10000)) }
  let s := if n < 48 then { s with mem := memZero s.mem (scratchAddr n 0) 0x400000, cores := tdel s.cores n } else s
  setPd s n 0 src

/-! ### Doorbells held for Carillon (R68, R313) -/

/-- CTX of a batch. -/
def Batch.ctx (x : Batch) : Nat := leAt x.recd 0 2
/-- CTX of a job. -/
def AJob.ctx (x : AJob) : Nat := leAt x.recd 0 2

/-- The batch open on a context, if one is (R339). -/
def batchOf (s : State) (n : Nat) : Option Nat := (s.batches.find? (fun (q : Nat × Batch) => q.2.st != 0 && q.2.ctx == n)).map (·.1)

/-- The job open on a context, if one is. -/
def jobOf (s : State) (n : Nat) : Option Nat := (s.ajobs.find? (fun (q : Nat × AJob) => q.2.st != 0 && q.2.ctx == n)).map (·.1)

/-- Reads the next record of a ring and completes it as refused, not ready or fenced (STATUS 5). -/
def ringRefuse (s : State) (n code : Nat) : State :=
  let c := ctx s n
  let r := unitRead s (leAt c.recd 8 8 + 64 * (c.ringProd.toNat % 2 ^ byteAt c.recd 0x18)) 64
  let q := seqNext r.1 n
  complete (updCtx q.1 n (fun c => { c with ringProd := c.ringProd + 1 })) n
    { recd := r.2.1, arrival := now s, ring := true, seq := q.2 } 5 code 0

/-- A DB_TAIL write is accepted, or ignored and counted in CAR_DB_BAD (R313, R341, R403); `take` handles each new entry. -/
def tailMove (s : State) (n : Nat) (v : Word) (take : State → State) : State :=
  let c := ctx s n
  let d := (v - c.ringCons).toNat
  if c.st = .closed || (batchOf s n).isSome || (jobOf s n).isSome || 2 ^ byteAt c.recd 0x18 < d ||
      d < (c.ringProd - c.ringCons).toNat then bumpR s 0x190 0x134 1
  else forN (v - c.ringProd).toNat (fun _ s => take s) s

/-- The context whose oldest held doorbell arrived first. -/
def nextTail (s : State) : Option (Nat × Word × Nat) :=
  s.ctxs.foldl (fun (b : Option (Nat × Word × Nat)) q =>
    match q.2.heldTails, b with
    | [], _ => b
    | (v, t) :: _, none => some (q.1, v, t)
    | (v, t) :: _, some (_, _, u) => if t < u then some (q.1, v, t) else b) none

/-- Doorbells held. -/
def tailsWaiting (s : State) : Nat := (s.ctxs.map (fun (q : Nat × Ctx) => q.2.heldTails.length)).sum

/-- Every doorbell held is refused with FAULT_FENCED, in the order of arrival (R68). -/
def tailsFence : Nat → State → State
  | 0, s => s
  | fuel + 1, s =>
    match nextTail s with
    | none => s
    | some (n, v, _) =>
      tailsFence fuel (tailMove (updCtx s n (fun c => { c with heldTails := c.heldTails.tail })) n v
        (fun s => ringRefuse s n 0x16))

/-- Enters out of service (R507); what is held is refused (R68). -/
def enterOos (s : State) : State :=
  if s.toc.oos then s
  else
    let kept := fun (p : Nat) => p ≤ 0x00F || p = 0x180 || p = 0x181 || p = 0x1F0 || p = 0x1A0 || p = 0x1B0 ||
      p = 0x1B1 || p = 0x1B2 || p = 0x1C0
    let s := goodbyes (tailsFence (tailsWaiting s) s) 1
    let s := { s with toc := { s.toc with oos := true } }
    let s := (allPages.filter (fun p => !kept p && pagePresent s p)).foldl (fun s p =>
      match (blk s p).st with
      | .run | .updating | .retraining | .quiesced => setSt s p .fenced
      | _ => s) s
    let s := portsRefuse s
    let s := forN 2 (fun c s => putR s (0x170 + c) 0x104 0) s
    let s := forN 72 (fun n s => if (n ≤ 57 || (65 ≤ n && n ≤ 68)) && pdState s n != 0 then bump (domainOff s n 2) 0x1B1 1 else s) s
    let s := logRec s 3 0 0 3 0 0x1A0 0 0
    report (setStatus s 0x1A0 8 true) 2 0

/-- A level-5 request: POWER_CYCLE, or out of service with FLEET_EN (R500, R506). -/
def level5 (s : State) : State :=
  if fleetEn s then enterOos s else report (resetLog s 5 3 0 0) 1 0

/-- Decides a warm chip reset (R506, R531, R479): an invalid image makes it level 5, FLEET_RESETS turns it into out of
service, a low event makes Tocsin's request wait. `cause` is RESET_CAUSE, `rcause` the cause of Table 21-4. -/
def warmDecide (s : State) (cause rcause : Nat) : State :=
  if s.toc.oos then oosNote s 0x1A0
  else if lowEvent s then { s with toc := { s.toc with waitRst := s.toc.waitRst ++ [(4, cause, rcause)] } }
  else if s.sec.imageInvalid then level5 s
  else
    let w := profF s 0x124 4 600 * Config.tSec
    let n := (s.toc.fleet.filter (fun t => decide (now s ≤ t + w ∧ t < now s))).length
    if fleetEn s && profF s 0x115 1 3 ≤ n + 1 then enterOos s
    else
      let s := { s with toc := { s.toc with fleet := (now s :: s.toc.fleet).take 15 } }
      let s := if cause = 4 || cause = 8 then bump s 0x1A0 4 else s
      warmDo s cause rcause

/-- Decides a partition reset (R501, R479). -/
def partDecide (s : State) (parts cause : Nat) : State :=
  if s.toc.oos then oosNote s 0x1A0
  else if lowEvent s then { s with toc := { s.toc with waitRst := s.toc.waitRst ++ [(3, parts, cause)] } }
  else if (List.range 4).any (fun q => parts.testBit q &&
      2 ≤ (recentTimes s (tgetD s.toc.hist3 q []) (60 * Config.tSec)).length) then warmDecide s 4 3
  else partitionDo s parts cause

/-- A level-2 reset of one unit (R500-R502): the unit's work is disposed of, its header reset, and with its self-test
passed it is in RUN; otherwise the level stays in progress. A unit with two earlier level-2 resets inside 10 s is
reset with its partition, an encoder with the chip. -/
def unitReset (s : State) (page cause : Nat) (ok : Bool) : State :=
  if s.toc.oos then oosNote s page
  else if !pagePresent s page || !pageOn s page then s
  else if 2 ≤ (recentTimes s (tgetD s.toc.hist2 page []) (10 * Config.tSec)).length then
    match pagePart page with
    | some q => partDecide s (2 ^ q) 3
    | none => warmDecide s 4 3
  else
    let s := resetLog s 2 cause (match pagePart page with
      | some q => 2 ^ q
      | none => 0) page
    let s := bump s 0x1A0 2
    let s := { s with toc := { s.toc with hist2 := tmodD s.toc.hist2 page [] (fun l => now s :: l.take 3) } }
    let was := if ready s page then [page] else []
    let s := pageReset (unitWork s page) page .selftest
    let s := if 0x100 ≤ page && page ≤ 0x11F || page = 0x120 || page = 0x121 then bump s page 7 else s
    if ok then setSt s page .run
    else
      let s := { s with toc := { s.toc with rsts := { level := 2, page := page, parts := 0, start := now s,
                                                      wasReady := was } :: s.toc.rsts } }
      setStatus s 0x1A0 9 true

end Sys2Proof.Machine
end

