-- ==== Sys2Proof/Machine/Tambour.lean ====
section
/-!
DEFINITION. Machine/Tambour.lean: Tambour tiles (R154-R158) and planes and pictures made of them (R112, R415).
-/
namespace Sys2Proof.Machine

/-- Zig-zag code of a quantised difference (R155). -/
def zigzag (q : Int) : Nat := if 0 ≤ q then (2 * q).toNat else (-2 * q - 1).toNat

/-- The difference of a zig-zag code. -/
def unzigzag (z : Nat) : Int := if z % 2 = 0 then (z / 2 : Nat) else -(((z + 1) / 2 : Nat) : Int)

/-- The prediction of raster sample k from the reconstructed samples before it (R155). -/
def tPred (r : List Nat) (k : Nat) : Nat :=
  let at' := fun (x y : Nat) => r.getD (8 * y + x) 0
  let x := k % 8
  let y := k / 8
  if y = 0 then at' (x - 1) 0
  else if x = 0 then at' 0 (y - 1)
  else
    let a := at' (x - 1) y
    let n := at' x (y - 1)
    let c := at' (x - 1) (y - 1)
    if max a n ≤ c then min a n else if c ≤ min a n then max a n else a + n - c

/-- Quantised difference (R156). -/
def tQuant (e : Nat) (d : Int) : Int :=
  let m : Int := ((d.natAbs + e) / (2 * e + 1) : Nat)
  if d < 0 then -m else m

/-- Reconstruction (R156). -/
def tRecon (b e pred : Nat) (q : Int) : Nat :=
  let v : Int := (pred : Int) + q * ((2 * e + 1 : Nat) : Int)
  if v < 0 then 0 else min v.toNat (2 ^ b - 1)

/-- DPCM over the samples after the first: the reconstructed samples and the differences, k done. -/
def tCode (b e : Nat) (smp : List Nat) : Nat → List Nat × List Int
  | 0 => ([smp.getD 0 0], [])
  | k + 1 =>
    let (r, q) := tCode b e smp k
    let p := tPred r (k + 1)
    let d := tQuant e ((smp.getD (k + 1) 0 : Int) - (p : Int))
    (r ++ [tRecon b e p d], q ++ [d])

/-- The least width that holds every code (R156). -/
def bitWidth (l : List Nat) : Nat := (l.map (fun z => if z = 0 then 0 else Nat.log2 z + 1)).foldl max 0

/-- Values of `w` bits each, first in the lowest bits. -/
def packBits (w : Nat) : List Nat → Nat
  | [] => 0
  | v :: t => v + 2 ^ w * packBits w t

/-- ERR of a bound E. -/
def errCode (e : Nat) : Nat := if e = 0 then 0 else if e = 1 then 1 else if e = 2 then 2 else 3

/-- A tile's slot (R154-R156), zeros behind its payload (R415). -/
def encodeTile (b e : Nat) (smp : List Nat) : List Byte :=
  let q := (tCode b e smp 63).2.map zigzag
  let w := bitWidth q
  let dep := if b = 10 then 256 else 0
  if w ≤ b - 1 then
    fitBytes (tileBytes b) (leBytes 2 (1 ||| errCode e <<< 2 ||| w <<< 4 ||| dep) ++
      leBytes (cdiv (b + 63 * w) 8) (smp.getD 0 0 + 2 ^ b * packBits w q))
  else fitBytes (tileBytes b) (leBytes 2 (errCode e <<< 2 ||| dep) ++ leBytes (8 * b) (packBits b (smp.take 64)))

/-- Reads DPCM samples back, k done. -/
def tDecode (b e w n : Nat) : Nat → List Nat
  | 0 => [n % 2 ^ b]
  | k + 1 =>
    let r := tDecode b e w n k
    r ++ [tRecon b e (tPred r (k + 1)) (unzigzag ((n >>> (b + w * k)) % 2 ^ w))]

/-- The samples of a slot, or none when its header is damaged (R158). -/
def decodeTile (b : Nat) (slot : List Byte) : Option (List Nat) :=
  let h := leAt slot 0 2
  let w := bitsN h 7 4
  let n := leNat (slot.drop 2)
  let e := [0, 1, 2, 4].getD (bitsN h 3 2) 0
  if 1 < h % 4 || 512 ≤ h || (h.testBit 8 != (b == 10)) then none
  else if h % 4 = 0 then
    if w != 0 then none else some ((List.range 64).map (fun k => (n >>> (b * k)) % 2 ^ b))
  else if b - 1 < w then none
  else some (tDecode b e w n 63)

/-- The mid-grey sample of a depth (R158). -/
def midGrey (b : Nat) : Nat := 2 ^ (b - 1)

/-- A sample of a plane, or the nearest in-plane one (R154). -/
def clampAt (w h : Nat) (p : List Nat) (x y : Nat) : Nat := p.getD (min y (h - 1) * w + min x (w - 1)) 0

/-- The bytes of a plane of samples (R154). -/
def encodePlane (b e w h : Nat) (p : List Nat) : List Byte :=
  (List.range (cdiv h 8)).flatMap (fun ty => (List.range (cdiv w 8)).flatMap (fun tx =>
    encodeTile b e ((List.range 64).map (fun k => clampAt w h p (8 * tx + k % 8) (8 * ty + k / 8)))))

/-- The bytes of a 4:2:0 picture: Y, Cb, Cr (R112). -/
def encodePicture (b e w h : Nat) (y cb cr : List Nat) : List Byte :=
  encodePlane b e w h y ++ encodePlane b e (w / 2) (h / 2) cb ++ encodePlane b e (w / 2) (h / 2) cr

/-- Writes a picture as one run of whole sectors, the last completed with zeros (R415). -/
def writePicture (s : State) (blk b e w h : Nat) (y cb cr : List Nat) : State :=
  let l := encodePicture b e w h y cb cr
  (wrGddr s blk (fitBytes (64 * cdiv l.length 64) l)).1

/-- Reads one tile of a plane: its samples, mid-grey when it is damaged or a sector is uncorrectable (R158, R419),
and whether that happened. A reader reads only the header and the payload it names (R154). -/
def readTile (s : State) (plane b w tx ty : Nat) : State × List Nat × Bool :=
  let a := plane + (ty * cdiv w 8 + tx) * tileBytes b
  let hd := rdMem s a 2
  let hv := leNat hd
  let n := if hv % 4 = 1 then 2 + cdiv (b + 63 * bitsN hv 7 4) 8 else tileBytes b
  let r := rdGddr s 0 a (min n (tileBytes b))
  match decodeTile b r.2.1, r.2.2 with
  | some l, false => (r.1, l, false)
  | _, _ => (r.1, List.replicate 64 (midGrey b), true)

/-- Reads a tile row: rows of samples from 8 tiles high, k tiles. -/
def readTiles (s : State) (plane b w ty : Nat) : Nat → State × List (List Nat) × Nat
  | 0 => (s, [], 0)
  | k + 1 =>
    let r := readTiles s plane b w ty k
    let q := readTile r.1 plane b w k ty
    (q.1, r.2.1 ++ [q.2.1], r.2.2 + b2n q.2.2)

/-- The samples of k rows of tiles of a plane, raster order over its tile grid, and the damaged tiles. -/
def readRows (s : State) (plane b w : Nat) : Nat → State × List Nat × Nat
  | 0 => (s, [], 0)
  | k + 1 =>
    let r := readRows s plane b w k
    let q := readTiles r.1 plane b w k (cdiv w 8)
    let rows := (List.range 8).flatMap (fun y => q.2.1.flatMap (fun t => slice8 t y))
    (q.1, r.2.1 ++ rows, r.2.2 + q.2.2)
where
  /-- Row y of a tile. -/
  slice8 (t : List Nat) (y : Nat) : List Nat := (t.drop (8 * y)).take 8

/-- A plane as read: its stride is a whole number of tiles. -/
structure Plane where
  w : Nat
  h : Nat
  stride : Nat
  smp : List Nat
  deriving DecidableEq, Repr

/-- Reads a plane of w × h samples at an address, and its damaged tiles. -/
def readPlane (s : State) (addr b w h : Nat) : State × Plane × Nat :=
  let r := readRows s addr b w (cdiv h 8)
  (r.1, { w := w, h := h, stride := 8 * cdiv w 8, smp := r.2.1 }, r.2.2)

/-- Reads the three planes of a picture, and its damaged tiles. -/
def readPicture (s : State) (blk b w h : Nat) : State × List Plane × Nat :=
  let y := readPlane s blk b w h
  let u := readPlane y.1 (blk + planeSize w h b) b (w / 2) (h / 2)
  let v := readPlane u.1 (blk + planeSize w h b + planeSize (w / 2) (h / 2) b) b (w / 2) (h / 2)
  (v.1, [y.2.1, u.2.1, v.2.1], y.2.2 + u.2.2 + v.2.2)

end Sys2Proof.Machine
end

