-- ==== Sys2Proof/Machine/Video.lean ====
section
/-!
DEFINITION. Machine/Video.lean: stream contexts and the decoders (R107-R135).
-/
namespace Sys2Proof.Machine

/-! ### Stream commands -/

/-- The largest picture and depth of a codec (Table 05-3): width, height. -/
def codecMax (codec : Nat) : Nat × Nat := if codec = 0 then (4096, 2304) else (8192, 4352)

/-- The block size of a pool is below a need, or the pool does not exist. -/
def poolBelow (s : State) (pn need : Nat) : Bool :=
  match pool s pn with
  | some p => decide (p.bsize < need)
  | none => true

/-- The first illegal field of a stream context record, in offset order (R111, R112, Table 05-3). -/
def stmBad (s : State) (o : List Byte) : Option Nat :=
  let c := byteAt o 0
  let dpb := byteAt o 3
  let w := leAt o 4 2
  let h := leAt o 6 2
  let dep := byteAt o 8
  (([(3 < c, 0), (3 < byteAt o 1, 1), (7 < byteAt o 2, 2),
    (if c = 3 then dpb != 0 else dpb < 1 || (if c = 2 then 8 else 16) < dpb, 3),
    (w < 16 || (codecMax c).1 < w || w % 8 != 0, 4), (h < 16 || (codecMax c).2 < h || h % 8 != 0, 6),
    (!(dep == 8 || (dep == 10 && (c == 1 || c == 2))), 8), (3 < byteAt o 9 && byteAt o 9 != 0xFF, 9),
    (leAt o 0xA 2 < 1 || 3600 < leAt o 0xA 2, 0xA),
    (leAt o 0xC 4 != 0 && (leAt o 0xC 4 < 100 || 2000000 < leAt o 0xC 4), 0xC),
    (leAt o 0x10 4 < 1 || 16000000 < leAt o 0x10 4, 0x10), (leAt o 0x14 2 < 1 || 10000 < leAt o 0x14 2, 0x14),
    (63 < byteAt o 0x16 || poolBelow s (byteAt o 0x16) (picSize w h dep), 0x16),
    (63 < byteAt o 0x17 || poolBelow s (byteAt o 0x17) (mapSize w h), 0x17),
    ((byteAt o 1).testBit 0 && (leAt o 0x18 2 < 16 || 8192 < leAt o 0x18 2), 0x18),
    (!zeroAt o 0x1A 38, 0x1A)] : List (Bool × Nat)).find? (·.1)).map (·.2)

/-- Open streams. -/
def openStms (s : State) : List (Nat × Stm) := s.stms.filter (fun q => q.2.st != 0)

/-- RATE_KPIX of the open streams (STM_ADMIT). -/
def stmRate (s : State) : Nat := ((openStms s).map (fun q => leAt q.2.recd 0x10 4)).sum

/-- The decode rate limit of R113 in kpix/s. -/
def rateLimit (s : State) : Nat := min (profF s 0x108 4 0 * 1000) (499200 * (enabledDecs s).length)

/-- STM OPEN (R111-R113). -/
def opStmOpen : POp := fun n o _ s =>
  if 1024 ≤ n then illegal s 0
  else
    match stmBad s o with
    | some f => illegal s f
    | none =>
      if (stm s n).st != 0 then refuse s 4 0
      else if profF s 0x104 2 0 < (openStms s).length + 1 then refuse s 9 0
      else if rateLimit s < stmRate s + leAt o 0x10 4 then refuse s 9 1
      else done (setStm s n { st := 1, recd := o.take 64, prio := byteAt o 2 })

/-- Ends what evidence a stream holds: its window claims, and its clip with a STATUS (R379). -/
def evidFlush (s : State) (n status : Nat) : State :=
  let e := evid s n
  let s := if e.clip.isSome then clipEnd s n status else s
  let w := (evid s n).window
  (distinctPics w).foldl (fun s p => winRelease s n p) (updEvid s n (fun e => { e with window := [] }))

/-- Releases every claim of a stream and discards its queue (R134): CLOSE closes it, and drops what it still has at the
scaler (log 91); FLUSH returns it to the wait for a random access point, and its pictures at the scaler go on (R147). -/
def stmClear (s : State) (n : Nat) (close : Bool) : State :=
  let x := stm s n
  let s := if close then (s.sframes.filter (fun f => f.stm == n)).foldl (fun s f =>
      if f.phase = 2 then sframeDrop s f else startDrop s f 5) s
    else s
  let s := evidFlush s n 1
  let y : Stm := if close then {} else
    { x with st := 1, queue := [], consumed := satAdd x.consumed x.queue.length, dpb := [], dec := none, picBlk := none, mapBlk := none, params := [],
             started := false, ending := none, limitBad := false, expiries := [], inWin := 0 }
  let s := setStm (if close then shedForget s n else s) n y
  let s := updGate s n (fun g => if close then {} else { g with no := 0, whole := true })
  relAll s 2 n

/-- CLOSE and FLUSH let the frame in decode complete (R134): then the result is written. -/
def stmEndCmd (op : Nat) : POp := fun n _ tag s =>
  let s := if n < 1024 && (stm s n).st != 0 then migEnds s n 7 else s
  let x := stm s n
  if 1024 ≤ n then illegal s 0
  else if x.st = 0 then refuse s 5 0
  else if x.dec.isSome then (setStm s n { x with
    ending := some (op, tag), queue := [],
    consumed := if op = 2 then x.consumed else satAdd x.consumed x.queue.length }, 0xF, 0)
  else
    let s := stmClear s n (op == 2)
    done (if op = 2 then clearFaults s 1 n else s)

/-- STM CLOSE. -/
def opStmClose : POp := stmEndCmd 2

/-- FLUSH. -/
def opStmFlush : POp := stmEndCmd 6

/-- Table 05-12. -/
def stmRecord (x : Stm) : List Byte :=
  leBytes 1 x.st ++ leBytes 1 x.prio ++ leBytes 1 x.dpb.length ++ leBytes 1 x.queue.length ++ leBytes 2 x.curW ++
    leBytes 2 x.curH ++ leBytes 4 x.frames.toNat ++ leBytes 4 x.consumed.toNat ++
    (List.range 10).flatMap (fun i => leBytes 4 (tgetD x.cnt i 0).toNat) ++ leBytes 8 x.lastStamp

/-- STM READ_STATUS (R134). -/
def opStmRead : POp := fun n _ _ s =>
  if 1024 ≤ n then illegal s 0 else done (portStatus s .stm (stmRecord (stm s n)))

/-- SET_PARAMS (R115, R131): the parameter sets are read at the address; a set above the maxima is refused, which the
codec standards decide (log 10; `above`). Applied before the next access unit. -/
def opSetParams (above : Bool) : POp := fun n o _ s =>
  let a := leAt o 0 8
  let len := leAt o 8 4
  if 1024 ≤ n then illegal s 0
  else if len < 1 || 16384 < len then illegal s 8
  else if (stm s n).st = 0 then refuse s 5 0
  else
    let r := unitRead s a len
    if !r.2.2 then illegal r.1 0
    else if above then refuse r.1 0xC 0
    else done (updStm r.1 n (fun x => { x with params := x.params ++ [r.2.1] }))

/-- SUBMIT (R114). -/
def opSubmit : POp := fun n o _ s =>
  let x := stm s n
  let len := leAt o 8 4
  if 1024 ≤ n then illegal s 0
  else if x.st = 0 then refuse s 5 0
  else if !x.host then refuse s 0xD 0
  else if leAt x.recd 0x18 2 * 1024 < len then illegal s 8
  else done (auQueue s n { addr := leAt o 0 8, len := len, stamp := leAt o 0x10 8, entry := now s,
                           sample := leAt o 0x18 4 })

/-- SET_PRIORITY (Table 05-10): also clears demotion. -/
def opSetPriority : POp := fun n o _ s =>
  let x := stm s n
  if 1024 ≤ n then illegal s 0
  else if 7 < byteAt o 0 then illegal s 0
  else if x.st = 0 then refuse s 5 0
  else done (setStm s n { x with recd := putAt x.recd 2 (leBytes 1 (byteAt o 0)), prio := byteAt o 0, inWin := 0 })

/-- RESYNC (R123): the skipping state without an expiry; STM_RAP_SKIP is raised when the state is entered. -/
def opResync : POp := fun n _ _ s =>
  let x := stm s n
  if 1024 ≤ n then illegal s 0
  else if x.st = 0 then refuse s 5 0
  else if x.st = 3 then done s
  else done (stmEvent (setStm s n { x with st := 3 }) n 6 0 0)

/-- STM_OPEN. -/
def execStmOpen (m : Master) (tag idx : Nat) (s : State) : Host.Outcome State Fault Refusal :=
  .next (portCmd .stm m 1 tag idx opStmOpen s)

/-- STM_CLOSE. -/
def execStmClose (m : Master) (tag idx : Nat) (s : State) : Host.Outcome State Fault Refusal :=
  .next (portCmd .stm m 2 tag idx opStmClose s)

/-- STM_READ_STATUS. -/
def execStmReadStatus (m : Master) (tag idx : Nat) (s : State) : Host.Outcome State Fault Refusal :=
  .next (portCmd .stm m 3 tag idx opStmRead s)

/-- SET_PARAMS; a waiting one keeps `above` with its operation number. -/
def execSetParams (m : Master) (tag idx : Nat) (above : Bool) (s : State) : Host.Outcome State Fault Refusal :=
  .next (portCmd .stm m (if above then 0x104 else 4) tag idx (opSetParams above) s)

/-- SUBMIT. -/
def execSubmit (m : Master) (tag idx : Nat) (s : State) : Host.Outcome State Fault Refusal :=
  .next (portCmd .stm m 5 tag idx opSubmit s)

/-- STM_FLUSH. -/
def execStmFlush (m : Master) (tag idx : Nat) (s : State) : Host.Outcome State Fault Refusal :=
  .next (portCmd .stm m 6 tag idx opStmFlush s)

/-- SET_PRIORITY. -/
def execSetPriority (m : Master) (tag idx : Nat) (s : State) : Host.Outcome State Fault Refusal :=
  .next (portCmd .stm m 7 tag idx opSetPriority s)

/-- RESYNC. -/
def execResync (m : Master) (tag idx : Nat) (s : State) : Host.Outcome State Fault Refusal :=
  .next (portCmd .stm m 8 tag idx opResync s)

/-! ### Dispatch (R116-R120, R128-R131) -/

/-- DISPATCH_HOLD of a page (BLK_CTRL bit 8). -/
def dispatchHold (s : State) (page : Nat) : Bool := bit (blk s page).ctrl.maj 8

/-- A decoder takes new frames: READY, in an enabled partition, free, neither quiescing, held nor loading. -/
def decFree (s : State) (d : Nat) : Bool :=
  ready s (0x100 + d) && decPresent s d && partStays s (d / 8) && (dec s d).job.isNone &&
    !quiesceOf (blk s (0x100 + d)) && !s.gong.railShed.testBit d && !stopping s && !dispatchHold s (0x100 + d) && (blk s (0x100 + d)).st == .run

/-- A stream is ready (R118). -/
def Stm.ready (x : Stm) : Bool :=
  x.st != 0 && !x.queue.isEmpty && x.dec.isNone && x.picBlk.isSome && x.mapBlk.isSome && !x.moveWait && !x.migHold &&
    x.ending.isNone

/-- The stream a decoder takes (R118). -/
def decPick (s : State) (d : Nat) : Option (Nat × Stm) :=
  firstStm (s.stms.filter (fun q => q.2.ready && (match q.2.pin with
    | some p => p == d / 8
    | none => true)))

/-- A frame is rejected: no picture, one event, a gap of cause 3 (R108, R128, R131). -/
def frameReject (s : State) (n : Nat) (a : Au) (ev detail : Nat) : State :=
  let f := (stm s n).frameNo
  auDiscard (stmEvent s n ev detail f) n a (some 3)

/-- A frame header exceeds the declared maxima (R131). -/
def overMaxima (x : Stm) (h : AuHdr) : Bool :=
  x.maxW < h.codedW || x.maxH < h.codedH || x.depth < h.depth || x.maxDpb < h.dpbSize

/-- The picture of the DPB with a FRAME_NO. -/
def dpbFind (x : Stm) (f : Nat) : Option Pic := x.dpb.find? (fun p => p.frameNo == f)

/-- An encoded size outside Table 16-1's clip range (R376, R379). -/
def evidSizeBad (recd : List Byte) (w h : Nat) : Bool :=
  let rw := leAt recd 0x2C 2
  let rh := leAt recd 0x2E 2
  if rw = 0 then decide (w < 64 ∨ h < 64 ∨ 4096 < w ∨ 2304 < h) || w % 8 != 0 || h % 8 != 0
  else decide (w < leAt recd 0x28 2 + rw ∨ h < leAt recd 0x2A 2 + rh)

/-- A new displayed size that breaks R376 disarms the stream (R379). -/
def evidSize (s : State) (n w h : Nat) : State :=
  let e := evid s n
  if e.armed && evidSizeBad e.recd w h then
    updEvid (evidFlush s n 5) n (fun e => { e with recd := [] })
  else s

/-- A picture passes on to gating, the tracker and the evidence window with its claims (R121, R360, R377). -/
def passOn (s : State) (n : Nat) (p : Pic) (stamp cluster : Nat) (reorder : Nat) : State :=
  let s := (ketClaim (ketClaim s p.blk 4 1).1 p.map 4 1).1
  let s := updStm s n (fun x => { x with lastStamp := stamp })
  let s := updSet s n (fun t => { t with reorder := reorder, size := (p.w, p.h) })
  let s := trkRegister s n p.frameNo stamp p.src true
  let w : WinPic := { frameNo := p.frameNo, pic := p.blk, map := p.map, stamp := stamp, w := p.w, h := p.h,
                      conc := p.dmg || p.taint, updated := noTrack s n, rep := p.isAlias }
  let s := match (evid s n).window.getLast? with
    | some q => if q.w != p.w || q.h != p.h then evidSize (clipEnd s n 5) n p.w p.h else s
    | none => evidSize s n p.w p.h
  let s := winAdd s n w
  let f : SFrame := { stm := n, frameNo := p.frameNo, pic := p.blk, map := p.map, stamp := stamp, cluster := cluster,
                      w := p.w, h := p.h, cw := p.cw, ch := p.ch, depth := (stm s n).depth, runAt := now s }
  let s := { s with sframes := s.sframes ++ [f] }
  if (gate s n).gated then s else scalerStart s f

/-- Takes the head access unit of a stream off its queue. -/
def popAu (s : State) (n : Nat) : State :=
  updStm s n (fun x => { x with queue := x.queue.drop 1 })

/-- Starts decoding a frame on a decoder: the context switch of Table 05-4, its FRAME_NO and the events that the
header raises (R119, R128, R129). -/
def frameStart (s : State) (d n : Nat) (a : Au) (h : AuHdr) (stale : Bool) : State :=
  let x := stm s n
  let refs := h.refs.filterMap (dpbFind x)
  let tainted := refs.any (fun p => p.dmg || p.taint)
  let change := x.started && h.rap && (x.curW != h.codedW || x.curH != h.codedH)
  let evs := (if stale then [4] else []) ++ (if change then [9] else []) ++ (if h.missing = 0 then [] else [2]) ++
    (if tainted then [5] else []) ++ (if h.paramDamage then [1] else [])
  let j : Job := { stm := n, au := a, hdr := h, pic := x.picBlk.getD 0, map := x.mapBlk.getD 0, frameNo := x.frameNo,
                   grantAt := now s, stale := stale, taint := tainted || h.missing != 0,
                   staleRef := refs.any (·.staleRef), evs := evs }
  let s := setStm s n { x with
    queue := x.queue.drop 1, dec := some d, picBlk := none, mapBlk := none, curW := h.codedW, curH := h.codedH,
    params := [], frameNo := x.frameNo + 1, started := true, st := 2, expiries := if x.st = 3 then [] else x.expiries }
  let s := evs.foldl (fun s e => stmEvent s n e 0 j.frameNo) s
  let s := if stale then trkGap s n j.frameNo a.stamp 1 else s
  let s := if (dec s d).lastStm = n then s else bump s (0x100 + d) 3
  setDec s d { dec s d with job := some j, row := 0, lastStm := n }

/-- AV1 show_existing_frame passes on the stored picture again with its own stamp (R121). -/
def showExisting (s : State) (d n : Nat) (a : Au) (f : Nat) : State :=
  let x := stm s n
  let s := updStm (popAu s n) n (fun y => { y with
    frameNo := y.frameNo + 1, frames := satInc y.frames, consumed := satInc y.consumed })
  let s := match dpbFind x f with
    | some p =>
      if !x.adapt && aged s a.stamp x.stale then trkGap (stmEvent s n 4 0 x.frameNo) n x.frameNo a.stamp 1
      else passOn s n { p with frameNo := x.frameNo, stamp := a.stamp, src := a.src, isAlias := true } a.stamp (d / 8) 0
    | none => trkGap (stmEvent s n 2 0 x.frameNo) n x.frameNo a.stamp 3
  stmTry (auRelease s n a) n

/-- DECODER_DISPATCH: a free decoder takes the first ready stream (R118) and disposes of its head access unit:
discarded while the stream waits or skips, rejected, dropped as stale, or decoded. `h` is what the head of the access
unit says under its codec standard. -/
def decDispatch (s : State) (d : Nat) (h : AuHdr) : State :=
  if !decFree s d then s
  else
    match decPick s d with
    | none => s
    | some (n, x) =>
      match x.queue with
      | [] => s
      | a :: _ =>
        if a.intr = 0 && x.st = 1 && !h.rap then auDiscard (popAu s n) n a none
        else if a.intr = 0 && shedLevel s n = 2 then auDiscard (popAu s n) n a (some 4)
        else if a.intr = 0 && x.st = 3 && !h.rap then auDiscard (popAu s n) n a (some 4)
        else if h.rasl && !x.started then auDiscard (popAu s n) n a none
        else if h.unsupported then frameReject (popAu s n) n a 7 0
        else if overMaxima x h || (x.limitBad && !h.newParams) then
          let s := popAu s n
          let s := raiseFault s (.stm n) 0x11 (0x100 + d) 0 0 0 0
          frameReject (updStm s n (fun y => { y with limitBad := true, st := 4 })) n a 8 0x11
        else if !h.parses then frameReject (popAu s n) n a 1 0
        else
          match h.existing with
          | some f => showExisting (setStm s n { x with limitBad := false }) d n a f
          | none =>
            let stale := !x.adapt && aged s a.stamp x.stale
            let s := updStm s n (fun y => { y with
              limitBad := false, st := if h.rap then 2 else y.st, expiries := if h.rap && x.st = 3 then [] else y.expiries })
            if stale && !h.isRef then
              let s := stmEvent s n 4 0 x.frameNo
              auDiscard (popAu s n) n a (some 1)
            else frameStart s d n a h stale

/-- DECODER_DISPATCH. -/
def execDecoderDispatch (d : Nat) (h : AuHdr) (s : State) : Host.Outcome State Fault Refusal := .next (decDispatch s d h)

/-! ### Write-back, concealment and the map (R110, R121, R128-R133) -/

/-- The two chroma planes in 4:2:0 (R110). -/
def chroma420 (f : DecFact) (w h b : Nat) (c : List Nat) : List Nat :=
  let cw := w / 2
  let chh := h / 2
  (List.range (cw * chh)).map (fun i =>
    let x := i % cw
    let y := i / cw
    if f.chroma = 0 then midGrey b
    else if f.chroma = 1 then c.getD i 0
    else if f.chroma = 2 then (c.getD (2 * y * cw + x) 0 + c.getD ((2 * y + 1) * cw + x) 0 + 1) / 2
    else (c.getD (2 * y * w + 2 * x) 0 + c.getD (2 * y * w + 2 * x + 1) 0 + c.getD ((2 * y + 1) * w + 2 * x) 0 +
      c.getD ((2 * y + 1) * w + 2 * x + 1) 0 + 2) / 4)

/-- A luma row is inside a damaged range. -/
def rowDamaged (l : List (Nat × Nat)) (y : Nat) : Bool := l.any (fun r => r.1 ≤ y && y < r.2)

/-- The samples of a plane with its damaged rows taken from the held picture, or mid-grey (R130). `sub` is the plane's
vertical subsampling. -/
def concealPlane (dmg : List (Nat × Nat)) (held : Option Plane) (b w h sub : Nat) (p : List Nat) : List Nat :=
  (List.range (w * h)).map (fun i =>
    let x := i % w
    let y := i / w
    if rowDamaged dmg (y * sub) then
      match held with
      | some q => q.smp.getD (y * q.stride + x) (midGrey b)
      | none => midGrey b
    else p.getD i 0)

/-- One map entry (Table 05-9, R133). -/
def mapEntry (m : MapBlk) (conc : Bool) : Word :=
  if conc then word (0x04FFFFFF ||| b2n m.subst <<< 27)
  else word (min m.re 0xFFFF ||| min m.mv 255 <<< 16 ||| b2n m.intra <<< 24 ||| b2n m.skip <<< 25)

/-- The map header (Table 05-8). -/
def mapHeader (n : Nat) (p : Pic) (depth ftype : Nat) (isRef refresh conc subst : Bool) (grant done conCount : Nat) :
    List Byte :=
  [0x43, 0x58, 0x4D, 0x50] ++ leBytes 1 1 ++ leBytes 1 ftype ++
    leBytes 2 (b2n isRef + 2 * b2n refresh + 4 * b2n conc + 8 * b2n p.staleRef + 16 * b2n subst + 32 * b2n p.isAlias) ++
    leBytes 2 n ++ leBytes 1 depth ++ zeros 1 ++ leBytes 2 p.w ++ leBytes 2 p.h ++ leBytes 2 (cdiv p.w 16) ++
    leBytes 2 (cdiv p.h 16) ++ leBytes 4 p.frameNo ++ leBytes 8 p.stamp ++ leBytes 8 grant ++ leBytes 8 done ++
    leBytes 8 p.blk ++ leBytes 4 conCount ++ zeros 4

/-- Writes a map: header and entries (R132). -/
def writeMap (s : State) (a : Nat) (hd : List Byte) (es : List Word) : State :=
  let l := hd ++ es.flatMap (fun w => leBytes 4 w.toNat)
  (wrGddr s a (fitBytes (64 * cdiv l.length 64) l)).1

/-- A frame completes: counts, budget window, held fault (R40, R122, R131). -/
def frameCount (s : State) (n : Nat) (a : Au) (inside : Bool) : State :=
  let s := updStm s n (fun x =>
    let x := { x with frames := satInc x.frames, consumed := satInc x.consumed }
    if inside then
      if 64 ≤ x.inWin + 1 then { x with inWin := 0, prio := max (byteAt x.recd 2) (x.prio - 1) }
      else { x with inWin := x.inWin + 1 }
    else x)
  auRelease (clearFaults s 1 n) n a

/-- The DPB after a picture: what its reference marking keeps, and the picture where it is a reference; the decoder
releases its claims on what leaves (R121). -/
def dpbUpdate (s : State) (n : Nat) (h : AuHdr) (p : Pic) : State :=
  let x := stm s n
  let gone := x.dpb.filter (fun q => !h.keep.contains q.frameNo)
  let stay := x.dpb.filter (fun q => h.keep.contains q.frameNo)
  let s := setStm s n { x with dpb := if h.isRef then stay ++ [p] else stay }
  let rel := fun (s : State) (q : Pic) => relBlock (relBlock s q.blk 2 n) q.map 2 n
  let s := gone.foldl rel s
  if h.isRef then s else rel s p

/-- An adaptation stream's picture is handed to the adaptation controller with its claim, or as substituted when it is
concealed (R405, R406). -/
def adaptHand (s : State) (n sample : Nat) (p : Pic) (ok : Bool) : State :=
  if ok then
    let s := (ketClaim (ketClaim s p.blk 4 6).1 p.map 4 6).1
    { s with adaptIn := s.adaptIn ++ [{ stm := n, sample := sample, cause := 0, pic := p.blk, map := p.map }] }
  else { s with adaptIn := s.adaptIn ++ [{ stm := n, sample := sample, cause := 2 }] }

/-- A stream event unless the frame has raised it (R128). -/
def eventOnce (s : State) (n : Nat) (evs : List Nat) (code frameNo : Nat) : State :=
  if evs.contains code then s else stmEvent s n code 0 frameNo

/-- The picture in decode on a decoder is complete: its samples with concealment, its map, the DPB, the pass-on
(R110, R121, R128-R133). `ev` is the event of its damage: STM_DAMAGED, or STM_BUDGET at an expiry. -/
def frameDone (s : State) (d : Nat) (j : Job) (f : DecFact) (ev : Nat) : State :=
  let n := j.stm
  let x := stm s n
  let h := j.hdr
  let b := x.depth
  let dmg := if j.extraDmg then [(0, h.codedH)] else f.damaged
  let hurt := !dmg.isEmpty || j.bound || f.suppressed != 0
  let subst := h.missing != 0 || f.blocks.any (·.subst)
  let taint := j.taint || subst
  let held := x.dpb.getLast?
  let hp := match held with
    | some q => if hurt && q.cw = h.codedW && q.ch = h.codedH then some (readPicture s q.blk b q.cw q.ch) else none
    | none => none
  let s := match hp with
    | some r => r.1
    | none => s
  let pl := fun (i : Nat) => match hp with
    | some r => r.2.1[i]?
    | none => none
  let w := h.codedW
  let ht := h.codedH
  let y := concealPlane dmg (pl 0) b w ht 1 f.y
  let cb := concealPlane dmg (pl 1) b (w / 2) (ht / 2) 2 (chroma420 f w ht b f.cb)
  let cr := concealPlane dmg (pl 2) b (w / 2) (ht / 2) 2 (chroma420 f w ht b f.cr)
  let s := writePicture s j.pic b 0 w ht y cb cr
  let conc := hurt || taint || j.au.damaged
  let p : Pic :=
    { frameNo := j.frameNo, blk := j.pic, map := j.map, isRef := h.isRef, dmg := hurt || j.au.damaged, taint := taint,
      staleRef := j.staleRef || j.stale, stamp := j.au.stamp, src := j.au.src, w := h.dispW, h := h.dispH, cw := w, ch := ht }
  let badRefs := (x.dpb.filter (fun q => q.dmg || q.taint)).map (·.frameNo)
  let mw := cdiv h.dispW 16
  let es := (List.range (mw * cdiv h.dispH 16)).map (fun i =>
    let m := f.blocks.getD i { re := 0, mv := 0, intra := true, skip := false, refs := [], subst := false }
    let top := 16 * (i / mw)
    let own := (List.range 16).any (fun k => rowDamaged dmg (top + k))
    (m, own || m.subst || m.refs.any badRefs.contains))
  let s := writeMap s j.map (mapHeader n { p with staleRef := j.staleRef } b h.ftype h.isRef h.refresh conc
    subst j.grantAt (now s) (es.filter (·.2)).length) (es.map (fun e => mapEntry e.1 e.2))
  let pg := 0x100 + d
  let s := if hurt || j.au.damaged then eventOnce s n j.evs ev j.frameNo else s
  let s := bumpN (bumpN (bump s pg 0) pg 4 f.suppressed) pg 5 f.syntaxBad
  let s := if hurt then bump s pg 1 else s
  let s := putR64 s pg 0x108 (getR64 s pg 0x108 + f.cycles)
  let s := putR64 s pg 0x110 (getR64 s pg 0x110 + w * ht)
  let s := setDec s d { dec s d with job := none, row := 0 }
  let s := frameCount s n j.au (ev != 3 && decide (now s < j.au.entry + x.budget))
  let s := updStm s n (fun y => { y with dec := none })
  match x.ending with
  | some (op, tag) =>
    let s := stmClear s n (op == 2)
    portResult (if op = 2 then clearFaults s 1 n else s) .stm tag 1 0
  | none =>
    let s := if x.adapt then adaptHand s n j.au.sample p (!conc)
      else if h.shown && !j.stale then passOn s n p j.au.stamp (d / 8) h.reorder else s
    stmTry (dpbUpdate s n h p) n

/-- DECODE_WRITEBACK_COMPLETE. -/
def execDecodeWritebackComplete (d : Nat) (f : DecFact) (s : State) : Host.Outcome State Fault Refusal :=
  .next (match (dec s d).job with
    | some j => frameDone s d j f 1
    | none => s)

/-! ### Budgets, bounds and watchdogs (R122, R123, R126, R127) -/

/-- An expiry demotes its stream and enters its history (R122, R123): three inside BUDGET_WIN_S put it into the
skipping state. -/
def expiryNote (s : State) (n at' frameNo : Nat) : State :=
  let x := stm s n
  let ex := (at' :: x.expiries).take 3
  let skip := decide (ex.length = 3) && decide (ex.getD 0 0 - ex.getD 2 0 < leAt x.recd 0xA 2 * Config.tSec) && x.st != 3
  let s := stmEvent (setStm s n { x with
    prio := min 7 (x.prio + 1), inWin := 0, expiries := ex, st := if skip then 3 else x.st }) n 3 0 frameNo
  if skip then stmEvent s n 6 0 frameNo else s

/-- A frame still queued at its window's end is abandoned: its DPB entry and pass-on use the newest held picture's
block with one more claim, and an alias map (R122, R130); otherwise it is rejected. -/
def expireQueued (s : State) (n : Nat) (a : Au) (h : AuHdr) : State :=
  let x := stm s n
  let s := popAu s n
  if x.adapt then
    let s := stmEvent s n 10 0 x.frameNo
    let s := { s with adaptIn := s.adaptIn ++ [{ stm := n, sample := a.sample, cause := 1 }] }
    auLeave s n a none
  else
    let s := expiryNote s n (a.entry + x.budget) x.frameNo
    match x.dpb.getLast? with
    | none => auDiscard s n a (some 3)
    | some q =>
      let mb := match x.mapBlk with
        | some m => (updStm s n (fun y => { y with mapBlk := none }), some m)
        | none => stmAlloc s n x.mapPool
      match mb with
      | (s, none) => auDiscard s n a (some 3)
      | (s, some m) =>
        let s := (ketClaim s q.blk 2 n).1
        let p : Pic := { q with frameNo := x.frameNo, map := m, isRef := h.isRef, dmg := true, isAlias := true,
                                stamp := a.stamp, src := a.src }
        let cnt := cdiv p.w 16 * cdiv p.h 16
        let s := writeMap s m (mapHeader n p x.depth h.ftype h.isRef false true false (now s) (now s) cnt)
          (List.replicate cnt 0x04FFFFFF#32)
        let s := updStm s n (fun y => { y with frameNo := y.frameNo + 1 })
        let s := frameCount s n a false
        let s := if !h.shown then s
          else if x.stale ≤ a.entry + x.budget - a.stamp then trkGap s n p.frameNo a.stamp 1
          else passOn s n p a.stamp (match x.pin with
            | some c => c
            | none => aliasCluster s n) h.reorder
        stmTry (dpbUpdate s n h p) n
where
  /-- The cluster of the partition whose decoder wrote the aliased picture (R137): that of the decoder which last
  ran the stream. -/
  aliasCluster (s : State) (n : Nat) : Nat :=
    match (List.range 32).find? (fun d => (dec s d).lastStm = n) with
    | some d => d / 8
    | none => 0

/-- The time a picture's remaining rows take to copy, in ticks: 64 bytes per CLK_DEC cycle (R122). -/
def copyTicks (x : Stm) : Nat := cdiv (cdiv (picSize x.maxW x.maxH x.depth) 64 * 160) 768

/-- DECODE_BUDGET_EXPIRY (R122, R123): the frame in decode is abandoned with what `f` says was decoded, or the head
of the queue. -/
def budgetExpiry (s : State) (n : Nat) (h : AuHdr) (f : DecFact) : State :=
  let x := stm s n
  match x.dec with
  | some d =>
    match (dec s d).job with
    | none => s
    | some j =>
      if now s + copyTicks x < j.au.entry + x.budget then s
      else
        let s := bump s (0x100 + d) 6
        if x.adapt then
          let s := setDec (stmEvent s n 10 0 j.frameNo) d { dec s d with job := none, row := 0 }
          let s := updStm s n (fun y => { y with dec := none, picBlk := some j.pic, mapBlk := some j.map })
          let s := { s with adaptIn := s.adaptIn ++ [{ stm := n, sample := j.au.sample, cause := 1 }] }
          stmTry (auRelease (updStm s n (fun y => { y with consumed := satInc y.consumed })) n j.au) n
        else
          let s := expiryNote s n (j.au.entry + x.budget) j.frameNo
          frameDone s d { j with bound := true, evs := 3 :: j.evs } f 3
  | none =>
    match x.queue with
    | a :: _ => if x.st != 0 && a.entry + x.budget ≤ now s then expireQueued s n a h else s
    | [] => s

/-- DECODE_BUDGET_EXPIRY. -/
def execDecodeBudgetExpiry (n : Nat) (h : AuHdr) (f : DecFact) (s : State) : Host.Outcome State Fault Refusal :=
  .next (budgetExpiry s n h f)

/-- CODING_BLOCK_CYCLE_BOUND: the block is ended, counted in CNT2, and is damage (R126). -/
def execCodingBlockCycleBound (d : Nat) (s : State) : Host.Outcome State Fault Refusal :=
  .next (match (dec s d).job with
    | some j => setDec (bump s (0x100 + d) 2) d { dec s d with job := some { j with bound := true } }
    | none => s)

/-- A frame interrupted a second time is concealed whole when its stream is next served, here at once: it has no
decoded rows (R127). -/
def concealWhole (s : State) (d : Nat) (j : Job) : State :=
  frameDone s d { j with extraDmg := true }
    { y := [], cb := [], cr := [], chroma := 1, blocks := [], damaged := [(0, j.hdr.codedH)], syntaxBad := 0,
      suppressed := 0, cycles := 0 } 1

end Sys2Proof.Machine
end

