-- ==== Sys2Proof/Machine/Evidence.lean ====
section
/-!
DEFINITION. Machine/Evidence.lean: evidence triggers (R380, R381), clips, snapshots and the encoders (R375-R392).
-/
namespace Sys2Proof.Machine

/-! ### Triggers -/

/-- The encoder with fewer clips, the lower number on a tie (R381). -/
def encPick (s : State) : Nat := if (clipsOf s 1).length < (clipsOf s 0).length then 1 else 0

/-- One block of a pool for the encoder (Table 18-5), or none. -/
def encAlloc (s : State) (pn n : Nat) : State × List Nat :=
  if !poolUsable s pn then (s, [])
  else
    match ketAlloc s pn 4 2 1 n with
    | (s', .ok l) => (s', l)
    | (s', _) => (s', [])

/-- A refused trigger: its completion entry, counted in CNT4 (R381, R390). -/
def evidRefuse (s : State) (kind status n trackId trig : Nat) : State :=
  let e := encPick s
  bump (encComplete s (cplEntry s kind status n trackId 0 0 0 0 0 e 0 trig)) (0x120 + e) 4

/-- The frame period of a stream from its last two stamps. -/
def framePeriod (e : Evid) : Nat :=
  match e.window.reverse with
  | a :: b :: _ => a.stamp - b.stamp
  | _ => 0

/-- Starts a clip at a trigger picture (R380, R381): the window's pictures, of those after the trigger at most
POSTROLL, and what is still to come. -/
def clipStart (s : State) (n frameNo trackId trig : Nat) : State :=
  let e := evid s n
  if 16 ≤ (clipsOf s 0).length && 16 ≤ (clipsOf s 1).length then evidRefuse s 0 2 n trackId trig
  else
    let en := encPick s
    let o := encAlloc s (byteAt e.recd 0x26) 1
    match o with
    | (s, out :: _) =>
      match encAlloc s (byteAt e.recd 0x27) 2 with
      | (s, [a, b]) =>
        let post := leAt e.recd 4 2
        let maxF := leAt e.recd 6 2
        let pre := e.window.takeWhile (fun p => p.frameNo != frameNo)
        let rest := e.window.drop pre.length
        let todo := (pre ++ rest.take (post + 1)).take maxF
        let more := min (post - (rest.length - 1)) (maxF - todo.length)
        let c : Clip := { enc := en, cfg := e.recd, out := out, work := [a, b], trig := trig, trackId := trackId,
                          todo := todo, more := more, total := todo.length, qp := byteAt e.recd 0xF,
                          period := framePeriod e }
        updEvid s n (fun e => { e with clip := some c })
      | (s, _) => evidRefuse (relBlock s out 4 2) 0 3 n trackId trig
    | (s, []) => evidRefuse s 0 3 n trackId trig

/-- A trigger during a clip moves its end (R380). -/
def clipExtend (s : State) (n frameNo : Nat) : State :=
  updEvid s n (fun e => match e.clip with
    | none => e
    | some c =>
      let after := (c.todo.filter (fun p => decide (frameNo < p.frameNo))).length
      let more := max c.more (min (leAt c.cfg 4 2 - after) (leAt c.cfg 6 2 - c.total))
      { e with clip := some { c with more := more } })

/-- Takes a snapshot of a held picture: its block and a claim on the picture (R388). -/
def snapStart (s : State) (n : Nat) (p : WinPic) (trackId trig : Nat) (region : List Nat) : State :=
  let e := evid s n
  match encAlloc s (byteAt e.recd 0x26) 1 with
  | (s, out :: _) =>
    let s := (ketClaim s p.pic 4 2).1
    { s with snaps := s.snaps ++ [{ stm := n, pic := p, trackId := trackId, trig := trig, region := region,
                                    out := out, cap := leAt e.recd 0x20 4 }] }
  | (s, []) => evidRefuse s 1 3 n trackId trig

/-- The pictures of a stream that the encoder holds (R388). -/
def Evid.pics (e : Evid) : List WinPic :=
  e.window ++ (match e.clip with
    | some c => c.todo
    | none => [])

/-- A rule snapshot's region: the box widened by SNAP_MARGIN, aligned outward to 8, clipped (R388). -/
def snapRegion (margin : Nat) (box : List Byte) (w h : Nat) : List Nat :=
  let x0 := leAt box 0 2
  let y0 := leAt box 2 2
  let x1 := leAt box 4 2
  let y1 := leAt box 6 2
  let mx := (x1 - x0) * margin / 100
  let my := (y1 - y0) * margin / 100
  let a := (x0 - mx) / 8 * 8
  let b := (y0 - my) / 8 * 8
  let c := min w (8 * cdiv (x1 + mx) 8)
  let d := min h (8 * cdiv (y1 + my) 8)
  [a, b, c - a, d - b]

/-- A record matches a stream's evidence rule (R380). -/
def ruleHit (cfg r : List Byte) : Bool :=
  let obj := byteAt r 0 == 2
  let cls := if obj then byteAt r 0x38 else byteAt r 0x1D
  let ev := byteAt r 0x1C
  decide (cls < 32) && (leAt cfg 8 4).testBit cls &&
    (if obj then (byteAt cfg 0xC).testBit 0 && (f32 (leAt cfg 0x10 4)).le (f32 (leAt r 0x34 4))
     else byteAt r 0 == 3 && decide (1 ≤ ev ∧ ev ≤ 4) && (byteAt cfg 0xC).testBit ev)

/-- A trigger of a stream at one of its held pictures. -/
def evidFire (s : State) (n : Nat) (p : WinPic) (trackId : Nat) (box : List Byte) (rule : Bool) : State :=
  let e := evid s n
  let fl := byteAt e.recd 1
  let s := match e.clip with
    | some _ => clipExtend s n p.frameNo
    | none => if fl.testBit 0 then clipStart s n p.frameNo trackId p.stamp else s
  if rule && fl.testBit 1 && trackId != 0 && !(evid s n).snapped.contains trackId then
    snapStart (updEvid s n (fun e => { e with snapped := trackId :: e.snapped })) n p trackId p.stamp
      (snapRegion (byteAt e.recd 0x30) box p.w p.h)
  else s

/-- A staged record of a stream (R380). -/
def evidTrigger (s : State) (n : Nat) (r : List Byte) : State :=
  let e := evid s n
  if !e.armed || !ruleHit e.recd r then s
  else
    match e.pics.find? (fun p => p.frameNo == leAt r 0xC 4) with
    | none => s
    | some p =>
      if byteAt r 0 = 2 then evidFire s n p (leAt r 0x30 4) (slice8 r 0x20) true
      else evidFire s n p (leAt r 0x18 4) (slice8 r 0x28) true
where
  /-- Eight bytes of a record. -/
  slice8 (l : List Byte) (o : Nat) : List Byte := (l.drop o).take 8

/-! ### Commands (R376, R391) -/

/-- The first illegal field of an evidence record, in offset order (R376, Table 16-2). -/
def evidBad (s : State) (x : Stm) (o : List Byte) : Option Nat :=
  let rx := leAt o 0x28 2
  let ry := leAt o 0x2A 2
  let rw := leAt o 0x2C 2
  let rh := leAt o 0x2E 2
  let w := if rw = 0 then x.maxW else rw
  let h := if rw = 0 then x.maxH else rh
  let ctu := cdiv w 32 * cdiv h 32
  let mcu := cdiv w 16 * cdiv h 16
  let pre := leAt o 2 2
  let post := leAt o 4 2
  let maxF := leAt o 6 2
  let qmin := byteAt o 0xD
  let qmax := byteAt o 0xE
  let qi := byteAt o 0xF
  let capP := leAt o 0x18 4
  let capI := leAt o 0x1C 4
  let small := fun (pn need : Nat) => match pool s pn with
    | some k => decide (k.bsize < need)
    | none => true
  let tiles := cdiv w 8 * cdiv h 8 + 2 * (cdiv (w / 2) 8 * cdiv (h / 2) 8)
  (([(1 < byteAt o 0, 0), (32 ≤ byteAt o 1 || byteAt o 1 / 8 = 3, 1), (150 < pre, 2), (post < 1 || 750 < post, 4),
    (maxF < pre + post || 1500 < maxF, 6), (32 ≤ byteAt o 0xC, 0xC), (qi < qmin, 0xD), (51 < qmax, 0xE),
    (qmax < qi, 0xF),
    (!((f32 (leAt o 0x10 4)).isFin && (Fl.ofNat 0).le (f32 (leAt o 0x10 4)) && (f32 (leAt o 0x10 4)).le (.ofNat 1)), 0x10),
    (leAt o 0x14 4 < 100 || 100000 < leAt o 0x14 4, 0x14), (capP < 72 + 3 * ctu, 0x18), (capI < 264 + 3 * ctu, 0x1C),
    (leAt o 0x20 4 < 1026 + 6 * mcu, 0x20), (byteAt o 0x24 < 1 || 100 < byteAt o 0x24, 0x24),
    (byteAt o 0x25 < 2 || 64 < byteAt o 0x25, 0x25),
    (63 < byteAt o 0x26 || small (byteAt o 0x26) (64 + 32 * maxF + capI + (maxF - 1) * capP), 0x26),
    (63 < byteAt o 0x27 || small (byteAt o 0x27) (w * h * 3 / 2 + 2 * tiles), 0x27),
    (rx % 8 != 0 || ry % 8 != 0 || rw % 8 != 0 || rh % 8 != 0 || w < 64 || h < 64 || 4096 < w || 2304 < h, 0x28),
    (100 < byteAt o 0x30, 0x30), (byteAt o 0x34 < 1 || 8 < byteAt o 0x34, 0x31), (!zeroAt o 0x35 11, 0x35)] :
      List (Bool × Nat)).find? (·.1)).map (·.2)

/-- EVID_SET (R376). Disarming releases the window, and a clip in progress ends after its last encoded picture
(log 30). -/
def opEvidSet : POp := fun n o _ s =>
  let x := stm s n
  if 1024 ≤ n then illegal s 0
  else if x.st = 0 then refuse s 5 0
  else
    match evidBad s x o with
    | some f => illegal s f
    | none =>
      let s := if byteAt o 0 = 0 then evidFlush s n 1 else s
      done (winTrim (updEvid s n (fun e => { e with
        recd := o.take 64, snapped := if e.armed then e.snapped else [] })) n)

/-- CLIP (R380): a trigger on the newest window picture. -/
def opClip : POp := fun n _ _ s =>
  let e := evid s n
  if 1024 ≤ n then illegal s 0
  else if (stm s n).st = 0 || !e.armed then refuse s 5 0
  else
    match e.window.getLast? with
    | none => done s
    | some p => done (evidFire s n p 0 [] false)

/-- SNAP (R388): the ROI of the newest picture, or the whole picture of a FRAME_NO. -/
def opSnap : POp := fun n o _ s =>
  let e := evid s n
  let fn := leAt o 0 4
  if 1024 ≤ n then illegal s 0
  else if (stm s n).st = 0 || e.recd.isEmpty then refuse s 5 0
  else
    let newest := fn == 0xFFFFFFFF
    match (if newest then e.window.getLast? else e.pics.find? (fun p => p.frameNo == fn)) with
    | none => done (encComplete s (cplEntry s 1 4 n 0 0 0 0 0 0 (encPick s) 0 0))
    | some p =>
      let roi := (List.range 4).map (fun i => leAt e.recd (0x28 + 2 * i) 2)
      done (snapStart s n p 0 p.stamp (if newest && roi.getD 2 0 != 0 then roi else [0, 0, p.w, p.h]))

/-- EVID_READ: armed, window pictures, clip in progress, its pictures so far, one word each (log 23). -/
def opEvidRead : POp := fun n _ _ s =>
  let e := evid s n
  if 1024 ≤ n then illegal s 0
  else done (portStatus s .enc (leBytes 4 (b2n e.armed) ++ leBytes 4 e.window.length ++
    leBytes 4 (b2n e.clip.isSome) ++ leBytes 4 (match e.clip with
      | some c => c.done
      | none => 0) ++ zeros 48))

/-- EVID_SET. -/
def execEvidSet (m : Master) (tag idx : Nat) (s : State) : Host.Outcome State Fault Refusal :=
  .next (portCmd .enc m 1 tag idx opEvidSet s)

/-- CLIP. -/
def execClip (m : Master) (tag idx : Nat) (s : State) : Host.Outcome State Fault Refusal :=
  .next (portCmd .enc m 2 tag idx opClip s)

/-- SNAP. -/
def execSnap (m : Master) (tag idx : Nat) (s : State) : Host.Outcome State Fault Refusal :=
  .next (portCmd .enc m 3 tag idx opSnap s)

/-- EVID_READ. -/
def execEvidRead (m : Master) (tag idx : Nat) (s : State) : Host.Outcome State Fault Refusal :=
  .next (portCmd .enc m 4 tag idx opEvidRead s)

/-! ### The encoders -/

/-- An encoder takes work: READY, free, neither held nor quiescing nor loading. -/
def encFree (s : State) (e : Nat) : Bool :=
  e < 2 && !lowEvent s && (blk s (0x120 + e)).st == .run && pagePresent s (0x120 + e) && (enc s e).job.isNone &&
    !quiesceOf (blk s (0x120 + e)) && !dispatchHold s (0x120 + e)

/-- The ready clip picture of a stream, where its clip is bound to an encoder (R382). -/
def clipReady (e : Nat) (v : Evid) : Option (Clip × WinPic) :=
  match v.clip with
  | some c =>
    match c.todo with
    | p :: _ => if c.enc = e && p.updated then some (c, p) else none
    | [] => none
  | none => none

/-- The clip picture an encoder takes: earliest capture stamp, then lowest stm (R382). -/
def clipPick (s : State) (e : Nat) : Option (Nat × Clip × WinPic) :=
  s.evids.foldl (fun (b : Option (Nat × Clip × WinPic)) q =>
    match clipReady e q.2 with
    | none => b
    | some (c, p) =>
      match b with
      | none => some (q.1, c, p)
      | some (_, _, p') => if p.stamp < p'.stamp then some (q.1, c, p) else b) none

/-- The target of a clip's next picture in bytes (R385). -/
def clipTarget (c : Clip) (p : WinPic) : Int :=
  let cap := if c.done = 0 then leAt c.cfg 0x1C 4 else leAt c.cfg 0x18 4
  let dt := if c.done = 0 then c.period else p.stamp - c.lastStamp
  min (cap : Int) ((leAt c.cfg 0x14 4 * 125 * dt / 160000000 : Nat) + c.carry)

/-- ENCODER_TAKE_PICTURE: snapshots in trigger order, then the earliest ready clip picture (R382). -/
def execEncoderTakePicture (e : Nat) (s : State) : Host.Outcome State Fault Refusal :=
  .next (if !encFree s e then s
    else
      match s.snaps with
      | sn :: t => setEnc { s with snaps := t } e { enc s e with job := some (.snap sn), row := 0 }
      | [] =>
        match clipPick s e with
        | none => s
        | some (n, c, p) => setEnc s e { enc s e with job := some (.clip n p (clipTarget c p).toNat), row := 0 })

/-- QP of the next row (R386). -/
def nextQp (qmin qmax t r rows u qp : Nat) : Nat :=
  let x := t * (r + 1)
  if t ≤ u && r + 1 < rows then qmax
  else
    let q : Nat := if 10 * u * rows > 12 * x then qp + 2 else if 100 * u * rows > 105 * x then qp + 1
      else if 10 * u * rows < 9 * x then qp - 1 else qp
    max qmin (min qmax q)

/-- The QPs of the rows of a picture, whether every row from one on is exhausted, and whether the projection makes the
rest minimal (R386). `us` are the bytes used after each row. -/
structure RowCtl where
  qps : List Nat := []
  exhausted : Bool := false
  minimal : Bool := false
  past : Nat := 0           -- rows past T_n
  u : Nat := 0
  deriving DecidableEq, Repr

/-- Row control over the rows of a picture. -/
def rowControl (qmin qmax t cap rows qp0 : Nat) : Nat → List Nat → RowCtl → RowCtl
  | _, [], c => c
  | r, u :: rest, c =>
    let qp := c.qps.getLastD qp0
    let ex := c.exhausted || (decide (t ≤ u) && decide (r + 1 < rows))
    let mini := c.minimal || (ex && decide (cap < u + (rows - (r + 1)) * (u - c.u) + 8) && decide (r + 1 < rows))
    let q := if ex then qmax else nextQp qmin qmax t r rows u qp
    rowControl qmin qmax t cap rows qp0 (r + 1) rest
      { qps := c.qps ++ [q], exhausted := ex, minimal := mini, past := c.past + b2n (decide (t ≤ u)), u := u }

/-- Mean of a list, 0 for none. -/
def meanOf (l : List Nat) : Nat := l.sum / l.length

/-- An encoded clip picture (R383-R387): the bitstream, the index entry, the carried difference, and the clip's end. -/
def clipPicture (s : State) (e n : Nat) (p : WinPic) (target : Nat) (f : EncFact) : State :=
  match (evid s n).clip with
  | none => setEnc s e { enc s e with job := none, row := 0 }
  | some c =>
    let body := f.rows.flatten
    let cap := if c.done = 0 then leAt c.cfg 0x1C 4 else leAt c.cfg 0x18 4
    if cap < body.length then s
    else
      let us := (List.range f.rows.length).map (fun i => ((f.rows.take (i + 1)).map List.length).sum)
      let rc := rowControl (byteAt c.cfg 0xD) (byteAt c.cfg 0xE) target cap f.rows.length c.qp 0 us {}
      let capped := f.minimal || rc.minimal
      let maxF := leAt c.cfg 6 2
      let sweep := c.done % byteAt c.cfg 0x25 = 0
      let fl := b2n (c.done == 0) + 2 * b2n sweep + 4 * b2n p.conc + 8 * b2n capped + 16 * b2n p.rep
      let s := (wrGddr s (c.out + 64 + 32 * maxF + c.bytes) body).1
      let s := (wrGddr s (c.out + 64 + 32 * c.done) (leBytes 4 c.bytes ++ leBytes 4 body.length ++ leBytes 8 p.stamp ++
        leBytes 4 p.frameNo ++ leBytes 4 fl ++ zeros 8)).1
      let d : Int := (target : Int) - (body.length : Int)
      let c' : Clip := { c with
        done := c.done + 1, bytes := c.bytes + body.length, conc := c.conc + b2n p.conc, capped := c.capped + b2n capped,
        first := if c.done = 0 then p.stamp else c.first, lastStamp := p.stamp,
        carry := max (-(target : Int)) (min target d), qp := meanOf (c.qp :: rc.qps.dropLast), todo := c.todo.drop 1 }
      let s := setEnc (updEvid s n (fun v => { v with clip := some c' })) e { enc s e with job := none, row := 0 }
      let s := bump s (0x120 + e) 0
      let s := if capped then bump s (0x120 + e) 3 else s
      let s := bumpN s (0x120 + e) 6 rc.past
      let s := winRelease s n p
      if c'.todo.isEmpty && c'.more = 0 then clipEnd s n 0 else s

/-- An encoded snapshot: its header (Table 16-4) and stream, and its completion (R388, R390). -/
def snapPicture (s : State) (e : Nat) (sn : Snap) (f : EncFact) : State :=
  let body := f.rows.flatten
  if sn.cap < body.length then s
  else
    let hd := [0x43, 0x58, 0x53, 0x4E] ++ leBytes 1 1 ++ leBytes 1 (b2n sn.pic.conc + 2 * b2n f.minimal) ++
      leBytes 2 sn.stm ++ leBytes 8 sn.pic.stamp ++ sn.region.flatMap (leBytes 2) ++ leBytes 4 body.length ++ zeros 36
    let s := (wrGddr s sn.out (hd ++ body)).1
    let s := setEnc s e { enc s e with job := none, row := 0 }
    let s := bump s (0x120 + e) 1
    let s := if f.minimal then bump s (0x120 + e) 3 else s
    let s := encComplete s (cplEntry s 1 0 sn.stm sn.trackId sn.out (64 + body.length) 1 (b2n sn.pic.conc)
      (b2n f.minimal) e sn.pic.stamp sn.trig)
    relBlock s sn.pic.pic 4 2

/-- ENCODER_PICTURE_COMPLETE: the bytes of each row are the encoder's own (R375; log 10); bytes above the hard cap are
no picture the encoder makes (R387). -/
def execEncoderPictureComplete (e : Nat) (f : EncFact) (s : State) : Host.Outcome State Fault Refusal :=
  .next (if lowEvent s then s else match (enc s e).job with
    | some (.clip n p t) => clipPicture s e n p t f
    | some (.snap sn) => snapPicture s e sn f
    | none => s)

end Sys2Proof.Machine
end

