-- ==== Sys2Proof/Machine/Ingest.lean ====
section
/-!
DEFINITION. Machine/Ingest.lean: ports, classification, SRTP, the jitter buffer and depacketisation (R78-R101).
-/
namespace Sys2Proof.Machine

/-! ### Ports -/

/-- Page of a logical port's cage. -/
def lportPage (p : Nat) : Nat := 0x170 + p / 4

/-- A cage is in breakout mode (MODE 1 in force, R80). -/
def breakout (s : State) (cage : Nat) : Bool := bit (tgetD s.portMode cage 0) 0

/-- A logical port exists in the present mode (R78). -/
def lportPresent (s : State) (p : Nat) : Bool := decide (p < 8) && (p % 4 = 0 || breakout s (p / 4))

/-- PORT_LINK.UP of a logical port. -/
def linkUp (s : State) (p : Nat) : Bool := lportPresent s p && bit (getR s (lportPage p) 0x104) (p % 4)

/-- A PORT_ADDR entry of the active profile (Table 03-8). -/
def portAddr (s : State) (p : Nat) : List Byte :=
  match s.life.profile with
  | some r => (r.drop (0x180 + 32 * p)).take 32
  | none => zeros 32

/-- Two big-endian bytes. -/
def be16 (l : List Byte) (o : Nat) : Nat := byteAt l o * 256 + byteAt l (o + 1)

/-- Four big-endian bytes. -/
def be32 (l : List Byte) (o : Nat) : Nat := be16 l o * 65536 + be16 l (o + 2)

/-- A slice of a frame. -/
def slice (l : List Byte) (o n : Nat) : List Byte := (l.drop o).take n

/-- What Ethernet and IP framing gives of a received frame. -/
structure Frame where
  vlan : Nat
  tagged : Bool
  etype : Nat
  l3 : Nat              -- offset of the network header
  doubleTag : Bool
  pause : Bool
  deriving DecidableEq, Repr

/-- The Ethernet header of a frame (Table 04-1). -/
def etherOf (f : List Byte) : Frame :=
  let t := be16 f 12
  if t = 0x8100 then
    let t2 := be16 f 16
    { vlan := be16 f 14 % 4096, tagged := true, etype := t2, l3 := 18,
      doubleTag := t2 = 0x8100 || t2 = 0x88A8, pause := t2 = 0x8808 }
  else { vlan := 0, tagged := false, etype := t, l3 := 14, doubleTag := t = 0x88A8, pause := t = 0x8808 }

/-- Offset of the transport header, protocol, and end of the IP packet. -/
def ipOf (f : List Byte) (e : Frame) : Nat × Nat × Nat :=
  if e.etype = 0x0800 then (e.l3 + 4 * (byteAt f e.l3 % 16), byteAt f (e.l3 + 9), e.l3 + be16 f (e.l3 + 2))
  else (e.l3 + 40, byteAt f (e.l3 + 6), e.l3 + 40 + be16 f (e.l3 + 4))

/-- The packet is an IP fragment (R82). -/
def isFragment (f : List Byte) (e : Frame) : Bool :=
  if e.etype = 0x0800 then be16 f (e.l3 + 6) % 16384 != 0
  else e.etype = 0x86DD && byteAt f (e.l3 + 6) = 44

/-- One's complement sum of a byte list, big-endian pairs. -/
def ocSum : List Byte → Nat
  | [] => 0
  | [a] => a.toNat * 256
  | a :: b :: t => a.toNat * 256 + b.toNat + ocSum t

/-- End-around carry. -/
def ocFold (n : Nat) : Nat := if n = 0 then 0 else (n - 1) % 65535 + 1

/-- Source and destination addresses, 16 bytes each as Table 04-2 stores them. -/
def addrsOf (f : List Byte) (e : Frame) : List Byte × List Byte :=
  if e.etype = 0x0800 then (fitBytes 16 (slice f (e.l3 + 12) 4), fitBytes 16 (slice f (e.l3 + 16) 4))
  else (slice f (e.l3 + 8) 16, slice f (e.l3 + 24) 16)

/-- The UDP checksum verifies (R82). -/
def udpOk (f : List Byte) (e : Frame) : Bool :=
  let (u, _, _) := ipOf f e
  let len := be16 f (u + 4)
  let ck := be16 f (u + 6)
  if 8 ≤ len && u + len ≤ f.length then
    if ck = 0 then e.etype == 0x0800
    else
      let a := addrsOf f e
      ocFold (ocSum a.1 + ocSum a.2 + 17 + len + ocSum (slice f u len)) == 65535
  else false

/-- The IP header is one that R82 accepts, with UDP directly behind it. -/
def udpShape (f : List Byte) (e : Frame) : Bool :=
  if e.etype = 0x0800 then byteAt f e.l3 / 16 == 4 && 5 ≤ byteAt f e.l3 % 16 && byteAt f (e.l3 + 9) == 17
  else e.etype == 0x86DD && byteAt f e.l3 / 16 == 6 && byteAt f (e.l3 + 6) == 17

/-- The UDP payload. -/
def udpPayload (f : List Byte) (e : Frame) : List Byte :=
  let (u, _, _) := ipOf f e
  slice f (u + 8) (be16 f (u + 4) - 8)

/-- Length of an RTP header with its CSRC list and extension (R83). -/
def rtpHdrLen (r : List Byte) : Nat :=
  let n := 12 + 4 * (byteAt r 0 % 16)
  if (byteAt r 0).testBit 4 then n + 4 + 4 * be16 r (n + 2) else n

/-- An RTP header of version 2 (R82). -/
def rtpShape (r : List Byte) : Bool := 12 ≤ r.length && byteAt r 0 / 64 == 2 && rtpHdrLen r ≤ r.length

/-! ### Flows -/

/-- A flow's state. -/
def flow (s : State) (n : Nat) : Flow := tgetD s.flows n {}

/-- Replaces a flow. -/
def setFlow (s : State) (n : Nat) (x : Flow) : State := { s with flows := tset s.flows n x }

/-- Changes a flow. -/
def updFlow (s : State) (n : Nat) (f : Flow → Flow) : State := setFlow s n (f (flow s n))

/-- Counts in a flow's status record (Table 04-7): count i at 0x24 + 4i. -/
def flowCnt (s : State) (n i : Nat) : State := updFlow s n (fun x => { x with cnt := tmodD x.cnt i 0 satInc })

/-- FLAGS0 bit k. -/
def Flow.flag (x : Flow) (k : Nat) : Bool := (byteAt x.recd 0).testBit k

/-- LPORT. -/
def Flow.lport (x : Flow) : Nat := byteAt x.recd 1

/-- CIPHER. -/
def Flow.cipher (x : Flow) : Nat := byteAt x.recd 3

/-- JITTER_PKTS. -/
def Flow.jpkts (x : Flow) : Nat := leAt x.recd 0x38 2

/-- JITTER_MS in ticks. -/
def Flow.jticks (x : Flow) : Nat := leAt x.recd 0x36 2 * Config.tMs

/-- CLOCK_RATE. -/
def Flow.rate (x : Flow) : Nat := leAt x.recd 0x3C 4

/-- JB_POOL. -/
def Flow.jbPool (x : Flow) : Nat := byteAt x.recd 0x4C

/-- BS_POOL. -/
def Flow.bsPool (x : Flow) : Nat := byteAt x.recd 0x4E

/-- STM. -/
def Flow.stmNo (x : Flow) : Nat := leAt x.recd 0x30 2

/-- MAX_AU_KIB in bytes. -/
def Flow.maxAu (x : Flow) : Nat := leAt x.recd 0x3A 2 * 1024

/-- The seven key fields but for the SSRC, as bytes of the flow record: logical port, VLAN, IP version, addresses and
ports (R86). -/
def flowKey7 (r : List Byte) : List Byte :=
  leBytes 1 (byteAt r 0 / 2 % 2) ++ slice r 1 1 ++ slice r 4 2 ++ slice r 8 36

/-- The same seven fields of a received packet. -/
def packetKey7 (p : Packet) (e : Frame) : List Byte :=
  let (u, _, _) := ipOf p.frame e
  let a := addrsOf p.frame e
  leBytes 1 (b2n (e.etype == 0x86DD)) ++ leBytes 1 p.lport ++ leBytes 2 e.vlan ++ a.1 ++ a.2 ++
    leBytes 2 (be16 p.frame u) ++ leBytes 2 (be16 p.frame (u + 2))

/-- Open flows, by rising number. -/
def openFlows (s : State) : List (Nat × Flow) := s.flows.filter (fun q => q.2.st != 0)

/-- A flow's key matches: the seven fields, and the SSRC or none learnt yet. -/
def flowMatch (x : Flow) (k : List Byte) (ssrc : Nat) : Bool :=
  flowKey7 x.recd == k && (!x.learnt || x.ssrc == ssrc)

/-- Two keys are equal under R89. -/
def keysEqual (k7 : List Byte) (ssrc : Nat) (any : Bool) (y : Flow) : Bool :=
  flowKey7 y.recd == k7 && (any || !y.learnt || y.ssrc == ssrc)

/-- The multicast MAC address of an IP multicast destination. -/
def mcastMac (x : Flow) : List Byte :=
  let d := slice x.recd 0x18 16
  if x.flag 1 then [0x33, 0x33] ++ slice d 12 4
  else [0x01, 0x00, 0x5E] ++ leBytes 1 (byteAt d 1 % 128) ++ slice d 2 2

/-- The destination MAC address is the port's, or a multicast address of an open flow on the port (R82). -/
def macAccepted (s : State) (lport : Nat) (f : List Byte) : Bool :=
  slice f 0 6 == slice (portAddr s lport) 0 6 ||
    (openFlows s).any (fun q => q.2.lport == lport && mcastMac q.2 == slice f 0 6)

/-! ### The exception ring (R84, R85) -/

/-- Offset of a lane's register block in its cage page. -/
def laneOfs (p : Nat) : Nat := 0x20 * (p % 4)

/-- KIND of a packet for the exception ring (Table 04-10). -/
def excKind (f : List Byte) (e : Frame) : Nat :=
  if e.etype = 0x0806 then 2
  else if e.etype = 0x0800 then
    let pr := byteAt f (e.l3 + 9)
    if pr = 1 then 4 else if pr = 2 then 5 else 0
  else if e.etype = 0x86DD then
    let nh := byteAt f (e.l3 + 6)
    let o := if nh = 0 then e.l3 + 40 + 8 + 8 * byteAt f (e.l3 + 41) else e.l3 + 40
    let nh := if nh = 0 then byteAt f (e.l3 + 40) else nh
    if nh = 58 then
      let t := byteAt f o
      if 133 ≤ t && t ≤ 137 then 3 else if (130 ≤ t && t ≤ 132) || t = 143 then 5 else 4
    else 0
  else 0

/-- Writes one packet into its port's exception ring, or drops and counts it (R85). -/
def excWrite (s : State) (p : Packet) (e : Frame) (kind fl arrival : Nat) : State :=
  let pg := lportPage p.lport
  let o := laneOfs p.lport
  let cfg := getR s pg (0x308 + o)
  let prod := getR s pg (0x30C + o)
  let cons := getR s pg (0x310 + o)
  let slots := 2 ^ bits cfg 3 0
  let size := 2 ^ bits cfg 7 4
  if !bit cfg 31 || slots ≤ (prod - cons).toNat then bump s pg 6
  else
    let trunc := decide (size - 32 < p.frame.length)
    let h := leBytes 2 p.frame.length ++ leBytes 1 kind ++ leBytes 1 (b2n trunc + 2 * b2n e.tagged) ++
      leBytes 2 fl ++ zeros 2 ++ leBytes 8 arrival ++ zeros 16
    let r := unitWrite s (getR64 s pg (0x300 + o) + size * (prod.toNat % slots)) (h ++ p.frame.take (size - 32))
    if r.2 then bump (msixReq (putR r.1 pg (0x30C + o) (prod + 1)) (bits cfg 30 20)) 0x172 1
    else bump r.1 pg 6

/-- A packet for the host: its address, its kind's checks, the rate limit, the ring (R84). -/
def excPass (s : State) (p : Packet) (e : Frame) (kind fl arrival : Nat) : State :=
  let mac := slice p.frame 0 6
  let control := kind = 2 || kind = 3 || kind = 5 || kind = 4
  let addressed := mac == slice (portAddr s p.lport) 0 6 || (control && byteAt p.frame 0 % 2 == 1)
  let checked := !isFragment p.frame e && (!udpShape p.frame e || udpOk p.frame e)
  if !addressed || !checked || 50000 ≤ tgetD s.excWin p.lport 0 then bump s 0x172 2
  else
    let s := { s with excWin := tmodD s.excWin p.lport 0 (· + 1) }
    excWrite s p e kind fl arrival

/-! ### Jitter buffer (R94, R95) -/

/-- The true 48-bit packet index of an internal index, which is 65,536 above it so that an index below the first
rollover can be told. -/
def trueIdx (i : Nat) : Nat := (i + 2 ^ 48 - 65536) % 2 ^ 48

/-- The packet index estimate of RFC 3711 Section 3.3.1 (R91). -/
def estIdx (x : Flow) (seq : Nat) : Nat :=
  match x.hi with
  | none => (leAt x.recd 0x48 4 + 1) * 65536 + seq
  | some h =>
    let sl := h % 65536
    let r := h / 65536
    let v := if sl < 32768 then (if 32768 < seq - sl then r - 1 else r)
      else (if seq < sl - 32768 then r + 1 else r)
    v * 65536 + seq

/-- Outside [expected − 512, expected + 512) modulo 2^16 (R96), where expected follows the highest accepted. -/
def isStray (x : Flow) (seq : Nat) : Bool :=
  match x.hi with
  | none => false
  | some h => decide (1024 ≤ (seq + 65536 - (h + 1) % 65536 + 512) % 65536)

/-- The head frame: the leading held packets that carry one RTP timestamp, up to a marker (R94). -/
def headRun : List Held → List Held
  | [] => []
  | [a] => [a]
  | a :: b :: t => if a.marker || b.ts != a.ts then [a] else a :: headRun (b :: t)

/-- The packets of a run before its first gap (R98). -/
def beforeGap : Nat → List Held → List Held
  | _, [] => []
  | i, a :: t => if a.ext = i then a :: beforeGap (i + 1) t else []

/-- The index a head frame's completeness is counted from. -/
def runStart (x : Flow) (run : List Held) : Nat :=
  match x.relNext, run with
  | some i, _ => i
  | none, a :: _ => a.ext
  | none, [] => 0

/-- The index at which the head frame ends, once it has ended: at its marker, or before the first packet that carries
another timestamp (R94). -/
def headEnd (x : Flow) : Option Nat :=
  match (headRun x.held).getLast? with
  | none => none
  | some l => if l.marker then some l.ext else (x.held[(headRun x.held).length]?).map (fun n => n.ext - 1)

/-- The index with which the head frame ends when it is released: at its end, or with the last packet held. -/
def headLast (x : Flow) : Nat :=
  match headEnd x, (headRun x.held).getLast? with
  | some e, _ => e
  | none, some l => l.ext
  | none, none => 0

/-- The sequence numbers missing from the head frame. -/
def headMissing (x : Flow) : Nat :=
  let run := headRun x.held
  (headLast x + 1 - runStart x run) - run.length

/-- The head frame is complete (R95): nothing is missing, and it has ended. -/
def headComplete (x : Flow) : Bool := (headEnd x).isSome && headMissing x == 0

/-- Earliest arrival of a run (R95, R100). -/
def firstArrival (run : List Held) : Nat :=
  match run with
  | [] => 0
  | a :: t => t.foldl (fun m p => min m p.arrival) a.arrival

/-- Returns the blocks of packets to JB_POOL. -/
def freePkts (s : State) (n : Nat) (l : List Held) : State :=
  l.foldl (fun s p => p.blocks.foldl (fun s b => relBlock s b 3 n) s) s

/-- Capture stamp and STAMP_SRC of a frame (R100). -/
def captureStamp (x : Flow) (ts arrival : Nat) : Nat × Nat :=
  match x.sr with
  | none => (arrival, 1)
  | some (rtp, tb) =>
    let d := sext 32 (ts + 2 ^ 32 - rtp)
    let st : Int := (tb : Int) + (d * 160000000) / (max 1 x.rate : Nat)
    if (arrival : Int) < st then (arrival, 2) else ((st % (2 ^ 64 : Nat)).toNat, 0)

/-- One flow event of ingest CNT6: POOL_FULL 7, OVERFLOW 8, SEQ_RESTART 9, NO_STREAM 10. -/
def flowEvt6 (s : State) (n i : Nat) : State := bump (flowCnt s n i) 0x172 6

/-- Releases the head frame (R95, R98, R100): its missing numbers are lost, and it goes to depacketisation in a block
of BS_POOL, or is discarded as POOL_FULL. -/
def releaseHead (s : State) (n : Nat) : State :=
  let x := flow s n
  let run := headRun x.held
  match run.getLast?, run.head? with
  | some _, some h =>
    let start := runStart x run
    let miss := headMissing x
    let cs := captureStamp x h.ts (firstArrival run)
    let s := setFlow s n { x with
      held := x.held.drop run.length, relNext := some (headLast x + 1), relTs := none, lost := x.lost + miss, stampSrc := cs.2 }
    let s := bumpN s 0x172 5 miss
    let s := if miss = 0 then s else flowCnt s n 0
    let r := if poolUsable s x.bsPool then ketAlloc s x.bsPool 3 n 0 1 else (s, KRes.ptr)
    match r with
    | (s, .ok (b :: _)) =>
      let kept := beforeGap start run
      let s := freePkts s n (run.drop kept.length)
      updFlow s n (fun x => { x with writing := x.writing ++
        [{ pkts := kept, blk := b, stamp := cs.1, src := cs.2, damaged := miss != 0, stm := x.stmNo }] })
    | (s, _) => freePkts (flowEvt6 s n 7) n run
  | _, _ => s

/-- Releases every complete frame at the head. -/
def releaseReady (s : State) (n : Nat) : Nat → State
  | 0 => s
  | k + 1 => if headComplete (flow s n) then releaseReady (releaseHead s n) n k else s

/-- Releases every held frame, with its gaps (R96). -/
def releaseAll (s : State) (n : Nat) : Nat → State
  | 0 => s
  | k + 1 => if (flow s n).held.isEmpty then s else releaseAll (releaseHead s n) n k

/-- Inserts a packet in order of its index. -/
def heldInsert (p : Held) : List Held → List Held
  | [] => [p]
  | a :: t => if p.ext < a.ext then p :: a :: t else a :: heldInsert p t

/-- RFC 3550 A.8 for one packet, from the arrival stamp and the timestamp of the packet before (R97, R103). -/
def jitterStep (x : Flow) (arrival ts : Nat) : Flow :=
  match x.lastTs with
  | none => { x with lastTs := some ts, lastArr := arrival }
  | some o =>
    let t := (arrival * x.rate / 160000000 + 2 ^ 32 - ts) % 2 ^ 32
    let u := (x.lastArr * x.rate / 160000000 + 2 ^ 32 - o) % 2 ^ 32
    let d := (sext 32 (t + 2 ^ 32 - u)).natAbs
    { x with lastTs := some ts, lastArr := arrival, jitter := x.jitter + d - (x.jitter + 8) / 16 }

/-- KEY_B is in use: the highest index accepted has reached SWITCH_INDEX (R92). -/
def usesB (x : Flow) : Bool :=
  x.keyB != 0xFFFF && (match x.hi with
    | some h => decide (x.sw ≤ trueIdx h)
    | none => false)

/-- Restarts a flow's sequence at a packet (R96, R87): held frames are released with gaps, and the replay window and
the index estimate restart from it, the rollover counter and the key in use standing. -/
def seqRestart (s : State) (n idx : Nat) : State :=
  updFlow (releaseAll s n 512) n (fun x => { x with
    recd := putAt x.recd 0x48 (leBytes 4 (idx / 65536 - 1)), sw := if usesB x then min x.sw (trueIdx idx) else x.sw,
    hi := none, seen := [], relNext := some idx, relTs := none, stray := none })

/-- The payload pieces of a chain of blocks: address and length, the first 32 bytes of the first block being the
packet's header, whose layout the spec does not state (log 22). -/
def chainPieces (bs : Nat) : Nat → List Nat → Nat → List (Nat × Nat)
  | _, [], _ => []
  | skip, b :: t, n => (b + skip, min (bs - skip) n) :: chainPieces bs 0 t (n - min (bs - skip) n)

/-- Writes a packet's payload into its blocks, from byte 32 of the first. -/
def jbWrite (s : State) : List (Nat × Nat) → List Byte → State
  | [], _ => s
  | (a, n) :: t, l => jbWrite (wrGddr s a (l.take n)).1 t (l.drop n)

/-- The head frame's window has ended (R95). -/
def jitterExpired (s : State) (x : Flow) : Bool :=
  !x.held.isEmpty && decide (firstArrival (headRun x.held) + x.jticks ≤ now s)

/-- The window of the head frame ends: it is released with its gaps, packets of it that arrive later are late, and what
is complete behind it follows (R95). -/
def windowEnd (s : State) (n : Nat) : State :=
  let x := flow s n
  let tail := if (headEnd x).isSome then none else (headRun x.held).head?.map (·.ts)
  releaseReady (updFlow (releaseHead s n) n (fun y => { y with relTs := tail })) n 512

/-- Every window that has ended ends. -/
def windowsEnd (s : State) (n : Nat) : Nat → State
  | 0 => s
  | k + 1 => if (flow s n).st != 0 && jitterExpired s (flow s n) then windowsEnd (windowEnd s n) n k else s

/-- A packet that finds its frame released, by its number or by its timestamp (R95). -/
def isLate (x : Flow) (idx ts : Nat) : Bool :=
  (match x.relNext with
    | some r => decide (idx < r)
    | none => false) || x.relTs == some ts

/-- An authenticated packet that passed the replay window is stored, or dropped (R94, R95). -/
def storePkt (s : State) (n idx ts arrival : Nat) (marker : Bool) (pay : List Byte) : State :=
  let s := windowsEnd s n 512
  let x := flow s n
  if isLate x idx ts then bump (flowCnt s n 1) 0x172 4
  else
    let s := if x.jpkts ≤ x.held.length then flowEvt6 (releaseHead s n) n 8 else s
    let x := flow s n
    if isLate x idx ts then bump (flowCnt s n 1) 0x172 4
    else
      let r := if poolUsable s x.jbPool then
          match pool s x.jbPool with
          | some p => ketAlloc s x.jbPool 3 n 0 (cdiv (pay.length + 32) p.bsize)
          | none => (s, KRes.ptr)
        else (s, KRes.ptr)
      match r with
      | (s, .ok bl) =>
        let bs := match pool s x.jbPool with
          | some p => p.bsize
          | none => 1
        let s := jbWrite s (chainPieces bs 32 bl pay.length) pay
        let s := updFlow s n (fun x =>
          let hi := match x.hi with
            | some h => max h idx
            | none => idx
          jitterStep { x with
            st := 2, hi := some hi, stray := none, accepted := x.accepted + 1,
            seen := idx :: x.seen.filter (fun i => decide (hi < i + 512)),
            held := heldInsert { ext := idx, ts := ts, arrival := arrival, marker := marker,
                                 len := pay.length, blocks := bl } x.held } arrival ts)
        releaseReady (bump s 0x172 0) n 512
      | (s, _) => flowEvt6 s n 7

/-- RTP payload with its padding removed; none for a malformed padding count (R83). -/
def depad (r : List Byte) (pay : List Byte) : Option (List Byte) :=
  if (byteAt r 0).testBit 5 then
    match pay.getLast? with
    | some c => if c.toNat ≤ pay.length then some (pay.take (pay.length - c.toNat)) else none
    | none => none
  else some pay

/-- A packet of a flow (R87, R91-R96). The tag is judged before the replay window and before a restart. The first packet
after RELEARN_SSRC is judged as one that restarts the sequence. -/
def flowPacket (s : State) (n : Nat) (p : Packet) (r : List Byte) (arrival : Nat) : State :=
  let seq := be16 r 2
  let x := flow s n
  let learn := !x.learnt && x.relearn
  let stray := !learn && isStray x seq
  if stray && x.stray != some ((seq + 65535) % 65536) then
    bump (updFlow s n (fun x => { x with stray := some seq })) 0x172 2
  else
    let s := updFlow s n (fun x => { x with stray := none })
    let idx := match x.hi with
      | some h => if learn || stray then h / 65536 * 65536 + seq else estIdx x seq
      | none => estIdx x seq
    let useB := if (stray || learn) && x.hi.isSome then usesB x else x.keyB != 0xFFFF && x.sw ≤ trueIdx idx
    let auth := x.cipher == 0 || (if useB then p.authB else p.authA)
    let plain := if x.cipher = 0 then r.drop (rtpHdrLen r) else if useB then p.plainB else p.plainA
    let replay := !(stray || learn) && (x.seen.contains idx || (match x.hi with
      | some h => decide (idx + 512 ≤ h)
      | none => false))
    if !auth then bump (flowCnt s n 3) 0x172 3
    else if replay then if x.cipher = 0 then flowCnt s n 2 else bump (flowCnt s n 4) 0x172 3
    else
      let s := if stray then flowEvt6 (seqRestart s n idx) n 9
        else if learn && x.hi.isSome then seqRestart s n idx else s
      match depad r plain with
      | none => bump s 0x172 2
      | some pay =>
        let s := updFlow s n (fun x => if x.learnt then x else { x with ssrc := be32 r 8, learnt := true, relearn := false })
        storePkt s n idx (be32 r 4) arrival ((byteAt r 1).testBit 7) pay

/-- A received frame (R80, R82-R87). -/
def packetReceive (s : State) (p : Packet) : State :=
  let pg := lportPage p.lport
  if !linkUp s p.lport || !ready s pg || !ready s 0x172 || stopping s then s
  else
    let s := bump s pg 0
    let e := etherOf p.frame
    let arrival := now s - p.latency
    if !p.fcsOk then bump s pg 1
    else if 9212 < p.frame.length then bump s pg 5
    else if e.doubleTag then bump s pg 3
    else if e.pause then bump s pg 4
    else if isFragment p.frame e then bump s pg 2
    else
      let r := udpPayload p.frame e
      let udp := udpShape p.frame e && udpOk p.frame e && macAccepted s p.lport p.frame
      if !udp then excPass s p e (excKind p.frame e) 0xFFFF arrival
      else
        let k := packetKey7 p e
        let same := (openFlows s).filter (fun q => flowKey7 q.2.recd == k)
        let rtcp := 2 ≤ r.length && byteAt r 0 / 64 == 2 && 192 ≤ byteAt r 1 && byteAt r 1 ≤ 223
        match same.find? (fun q => rtcp && q.2.flag 3) with
        | some (n, _) => excPass s p e 1 n arrival
        | none =>
          if !rtpShape r then excPass s p e 0 0xFFFF arrival
          else
            match same.find? (fun q => flowMatch q.2 k (be32 r 8)) with
            | some (n, _) => flowPacket s n p r arrival
            | none =>
              match same.head? with
              | some (n, _) => flowCnt s n 5
              | none => excPass s p e 0 0xFFFF arrival

/-- PACKET_RECEIVE. -/
def execPacketReceive (p : Packet) (s : State) : Host.Outcome State Fault Refusal := .next (packetReceive s p)

/-- EXCEPTION_RATE_WINDOW: a new one-second count of a logical port begins (R84). -/
def execExceptionRateWindow (p : Nat) (s : State) : Host.Outcome State Fault Refusal :=
  .next { s with excWin := tdel s.excWin p }

/-- JITTER_WINDOW_EXPIRY (R95). -/
def execJitterWindowExpiry (n : Nat) (s : State) : Host.Outcome State Fault Refusal :=
  .next (if (flow s n).st != 0 && jitterExpired s (flow s n) then windowEnd s n else s)

/-! ### Depacketisation (R98, Table 04-4) -/

/-- The start code of the Annex B byte stream. -/
def startCode : List Byte := [0, 0, 0, 1]

/-- The NAL units of an aggregation packet: 16-bit sizes and units. -/
def aggUnits : Nat → List Byte → List Byte
  | 0, _ => []
  | k + 1, l =>
    if l.length < 2 then [] else startCode ++ slice l 2 (be16 l 0) ++ aggUnits k (l.drop (2 + be16 l 0))

/-- One H.264 payload as Annex B bytes, or none when it is not supported (RFC 6184). -/
def h264Out (l : List Byte) : Option (List Byte) :=
  let t := byteAt l 0 % 32
  if 1 ≤ t && t ≤ 23 then some (startCode ++ l)
  else if t = 24 then some (aggUnits l.length (l.drop 1))
  else if t = 28 then
    let h : Byte := BitVec.ofNat 8 (byteAt l 0 / 32 * 32 + byteAt l 1 % 32)
    if (byteAt l 1).testBit 7 then some (startCode ++ h :: l.drop 2) else some (l.drop 2)
  else none

/-- One H.265 payload as Annex B bytes, or none when it is not supported (RFC 7798). -/
def h265Out (l : List Byte) : Option (List Byte) :=
  let t := byteAt l 0 / 2 % 64
  if t = 48 then some (aggUnits l.length (l.drop 2))
  else if t = 49 then
    let h : Byte := BitVec.ofNat 8 (byteAt l 0 / 128 * 128 + byteAt l 2 % 64 * 2 + byteAt l 0 % 2)
    if (byteAt l 2).testBit 7 then some (startCode ++ h :: slice l 1 1 ++ l.drop 3) else some (l.drop 3)
  else if t < 48 then some (startCode ++ l)
  else none

/-- A JPEG payload header that Table 04-4 supports (RFC 2435). -/
def jpegOk (l : List Byte) : Bool :=
  let t := byteAt l 4
  let q := byteAt l 5
  (t = 0 || t = 1 || t = 64 || t = 65) && ((1 ≤ q && q ≤ 99) || 128 ≤ q) && byteAt l 6 != 0 && byteAt l 7 != 0

/-- A payload is supported (Table 04-4). -/
def payloadOk (fmt : Nat) (l : List Byte) : Bool :=
  if fmt = 0 then (h264Out l).isSome
  else if fmt = 1 then (h265Out l).isSome
  else if fmt = 3 then jpegOk l
  else true

/-- Reads a packet's payload from its blocks: none when a sector is uncorrectable (R419: treated as lost). -/
def jbRead (s : State) (bs : Nat) (p : Held) : State × Option (List Byte) :=
  let r := (chainPieces bs 32 p.blocks p.len).foldl (fun (acc : State × List Byte × Bool) an =>
    let q := rdGddr acc.1 0 an.1 an.2
    (q.1, acc.2.1 ++ q.2.1, acc.2.2 || q.2.2)) (s, [], false)
  (r.1, if r.2.2 then none else some r.2.1)

/-- Reads packets in order, up to one that is lost: the payloads, and whether one was lost. -/
def jbReads (s : State) (bs : Nat) : List Held → State × List (List Byte) × Bool
  | [] => (s, [], false)
  | p :: t =>
    match jbRead s bs p with
    | (s, none) => (s, [], true)
    | (s, some l) =>
      let r := jbReads s bs t
      (r.1, l :: r.2.1, r.2.2)

/-- The byte stream of a list of payloads: computed for H.264 and H.265, and given by the payload standard otherwise
(log 10). -/
def depacketise (fmt : Nat) (pays : List (List Byte)) (std : List Byte) : List Byte :=
  if fmt = 0 then pays.flatMap (fun l => (h264Out l).getD [])
  else if fmt = 1 then pays.flatMap (fun l => (h265Out l).getD [])
  else std

/-- Hands a written access unit to its stream: the block's claim moves from the flow to the stream (Table 18-5), or
the unit is discarded as NO_STREAM (R89, R114). A migrated stream's units are forwarded instead (R542); `fwd` says
that the stream's migration takes them. -/
def auHand (s : State) (n : Nat) (r : Rel) (len : Nat) (damaged fwd : Bool) : State :=
  let y := stm s r.stm
  if y.st = 0 || y.host || fwd then relBlock (if fwd then s else flowEvt6 s n 10) r.blk 3 n
  else
    let s := relBlock (ketClaim s r.blk 2 r.stm).1 r.blk 3 n
    auQueue s r.stm { addr := r.blk, len := len, stamp := r.stamp, entry := now s, damaged := damaged, block := r.blk,
                       src := r.src }

/-- Depacketises the oldest released frame of a flow (R98): the state, the frame, its length and DAMAGED. -/
def auWrite (s : State) (n : Nat) (std : List Byte) : Option (State × Rel × Nat × Bool) :=
  let x := flow s n
  match x.writing with
  | [] => none
  | r :: rest =>
    let bs := match pool s x.jbPool with
      | some p => p.bsize
      | none => 1
    let q := jbReads s bs r.pkts
    let fmt := byteAt x.recd 2
    let bad := (q.2.1.filter (fun l => !payloadOk fmt l)).length
    let s := forN bad (fun _ s => flowCnt s n 6) q.1
    let out := depacketise fmt (q.2.1.filter (payloadOk fmt)) std
    let cut := decide (x.maxAu < out.length)
    let s := (wrGddr s r.blk (out.take x.maxAu)).1
    let s := freePkts (updFlow s n (fun x => { x with writing := rest })) n r.pkts
    some (s, r, min out.length x.maxAu, r.damaged || q.2.2 || cut)

/-! ### Flow commands (R88-R93, R104, R105) -/

/-- An IP destination is a multicast address. -/
def isMcast (v6 : Bool) (a : List Byte) : Bool := if v6 then byteAt a 0 = 0xFF else byteAt a 0 / 16 = 14

/-- The IP address of a PORT_ADDR entry in the 16-byte form of a flow record. -/
def portIp (e : List Byte) (v6 : Bool) : List Byte := if v6 then slice e 12 16 else fitBytes 16 (slice e 8 4)

/-- The first illegal field of a flow record, in offset order (R88, R89, Table 04-2). -/
def flowBad (s : State) (o : List Byte) : Option Nat :=
  let v6 := (byteAt o 0).testBit 1
  let blockBelow := fun (pn need : Nat) => match pool s pn with
    | some p => decide (p.bsize < need)
    | none => true
  ([(byteAt o 0 % 2 == 1 || 16 ≤ byteAt o 0, 0), (!lportPresent s (byteAt o 1), 1), (3 < byteAt o 2, 2),
    (3 < byteAt o 3, 3), (4094 < leAt o 4 2, 4), (127 < byteAt o 6, 6), (7 < byteAt o 7, 7),
    (!v6 && !zeroAt o 0xC 12, 8), (!v6 && !zeroAt o 0x1C 12, 0x18), (leAt o 0x28 2 == 0, 0x28),
    (leAt o 0x2A 2 == 0, 0x2A), (1023 < leAt o 0x30 2, 0x30), (byteAt o 3 != 0 && 8191 < leAt o 0x32 2, 0x32),
    (8191 < leAt o 0x34 2 && leAt o 0x34 2 != 0xFFFF, 0x34), (leAt o 0x36 2 < 1 || 500 < leAt o 0x36 2, 0x36),
    (leAt o 0x38 2 < 16 || 512 < leAt o 0x38 2, 0x38), (leAt o 0x3A 2 < 16 || 8192 < leAt o 0x3A 2, 0x3A),
    (leAt o 0x3C 4 < 1000 || 1000000 < leAt o 0x3C 4, 0x3C), (!zeroAt o 0x46 2, 0x40),
    (63 < leAt o 0x4C 2 || blockBelow (leAt o 0x4C 2) 2048, 0x4C),
    (63 < leAt o 0x4E 2 || blockBelow (leAt o 0x4E 2) (leAt o 0x3A 2 * 1024), 0x4E),
    (!zeroAt o 0x50 48, 0x50)].find? (·.1)).map (·.2)

/-- FLOW OPEN (R88, R89). -/
def opFlowOpen : POp := fun n o _ s =>
  let v6 := (byteAt o 0).testBit 1
  let learn := (byteAt o 0).testBit 2
  let ssrc := leAt o 0x2C 4
  let dst := slice o 0x18 16
  if 4096 ≤ n then illegal s 0
  else
    match flowBad s o with
    | some f => illegal s f
    | none =>
      match (openFlows s).find? (fun q => keysEqual (flowKey7 o) ssrc learn q.2) with
      | some (k, _) => refuse s 3 k
      | none =>
        if (flow s n).st != 0 then refuse s 4 0
        else if byteAt o 3 != 0 && (tget s.keys (leAt o 0x32 2)).isNone then refuse s 7 (leAt o 0x32 2)
        else if !isMcast v6 dst && portIp (portAddr s (byteAt o 1)) v6 != dst then refuse s 8 (byteAt o 1)
        else if profF s 0x106 2 0 < (openFlows s).length + 1 then refuse s 9 (profF s 0x106 2 0)
        else
          let x : Flow :=
            { st := 1, recd := o.take 128, keyA := leAt o 0x32 2, keyB := leAt o 0x34 2,
              sw := leAt o 0x40 8, ssrc := ssrc, learnt := !learn }
          done (setFlow s n x)

/-- Ends a flow: held frames are discarded without release and their blocks return (R105). -/
def flowEnd (s : State) (n : Nat) : State :=
  let x := flow s n
  setFlow (freePkts s n x.held) n { recd := x.recd }

/-- FLOW CLOSE: after the access unit that the flow is writing (R105). -/
def opFlowClose : POp := fun n _ tag s =>
  let x := flow s n
  if 4096 ≤ n then illegal s 0
  else if x.st = 0 then refuse s 5 0
  else if x.writing.isEmpty then done (flowEnd s n)
  else (setFlow (freePkts s n x.held) n { x with held := [], closing := some tag }, 0xF, 0)

/-- Table 04-7. -/
def flowRecord (x : Flow) : List Byte :=
  let ext := match x.hi with
    | some h => (trueIdx h + 2 ^ 48 - leAt x.recd 0x48 4 * 65536) % 2 ^ 32
    | none => 0
  let lost := min x.lost 0x7FFFFF
  leBytes 4 ext ++ leBytes 4 lost ++ leBytes 4 (x.jitter / 16) ++ leBytes 4 x.ssrc ++ leBytes 8 x.accepted ++
    leBytes 8 x.lastArr ++ leBytes 2 x.held.length ++ leBytes 1 x.st ++ leBytes 1 x.stampSrc ++
    (List.range 11).flatMap (fun i => leBytes 4 (tgetD x.cnt i 0).toNat) ++ zeros 16

/-- FLOW READ_STATUS (R97). -/
def opFlowRead : POp := fun n _ _ s =>
  if 4096 ≤ n then illegal s 0 else done (portStatus s .flow (flowRecord (flow s n)))

/-- SET_SR (R100). -/
def opSetSr : POp := fun n o _ s =>
  if 4096 ≤ n then illegal s 0
  else if (flow s n).st = 0 then refuse s 5 0
  else done (updFlow s n (fun x => { x with sr := some (leAt o 0 4, leAt o 8 8) }))

/-- The first illegal field of a key entry (Table 04-3). -/
def keyBad (o : List Byte) : Option Nat :=
  let k := byteAt o 0
  ([(k < 1 || 3 < k, 0), (!zeroAt o 1 3, 1), (k != 3 && !zeroAt o 0x14 16, 4),
    (k != 1 && !zeroAt o 0x30 2, 0x24), (!zeroAt o 0x32 14, 0x32)].find? (·.1)).map (·.2)

/-- KEY_LOAD (R90). -/
def opKeyLoad : POp := fun n o _ s =>
  if 8192 ≤ n then illegal s 0
  else
    match keyBad o with
    | some f => illegal s f
    | none => done { s with keys := tset s.keys n (o.take 64) }

/-- A flow that names a key slot (R93). -/
def keyUser (s : State) (k : Nat) : Option Nat :=
  ((openFlows s).find? (fun q => q.2.cipher != 0 && (q.2.keyA == k || (q.2.keyB != 0xFFFF && q.2.keyB == k)))).map (·.1)

/-- KEY_ERASE (R93). -/
def opKeyErase : POp := fun n _ _ s =>
  if 8192 ≤ n then illegal s 0
  else
    match keyUser s n with
    | some f => refuse s 6 f
    | none => done { s with keys := tdel s.keys n }

/-- RELEARN_SSRC (R87). -/
def opRelearn : POp := fun n _ _ s =>
  let x := flow s n
  if 4096 ≤ n then illegal s 0
  else if x.st = 0 then refuse s 5 0
  else
    match (openFlows s).find? (fun q => q.1 != n && flowKey7 q.2.recd == flowKey7 x.recd) with
    | some (k, _) => refuse s 3 k
    | none => done (setFlow s n { x with learnt := false, relearn := true })

/-- SET_KEYS (R92). -/
def opSetKeys : POp := fun n o _ s =>
  let x := flow s n
  let b := leAt o 0 2
  let w := leAt o 8 8
  if 4096 ≤ n then illegal s 0
  else if 8191 < b && b != 0xFFFF then illegal s 0
  else if 2 ^ 48 ≤ w then illegal s 8
  else if x.st = 0 then refuse s 5 0
  else if b != 0xFFFF && (tget s.keys b).isNone then refuse s 7 b
  else
    done (setFlow s n { x with keyA := if usesB x then x.keyB else x.keyA, keyB := b, sw := w })

/-- FLOW_OPEN. -/
def execFlowOpen (m : Master) (tag idx : Nat) (s : State) : Host.Outcome State Fault Refusal :=
  .next (portCmd .flow m 1 tag idx opFlowOpen s)

/-- FLOW_CLOSE. -/
def execFlowClose (m : Master) (tag idx : Nat) (s : State) : Host.Outcome State Fault Refusal :=
  .next (portCmd .flow m 2 tag idx opFlowClose s)

/-- FLOW_READ_STATUS. -/
def execFlowReadStatus (m : Master) (tag idx : Nat) (s : State) : Host.Outcome State Fault Refusal :=
  .next (portCmd .flow m 3 tag idx opFlowRead s)

/-- SET_SR. -/
def execSetSr (m : Master) (tag idx : Nat) (s : State) : Host.Outcome State Fault Refusal :=
  .next (portCmd .flow m 4 tag idx opSetSr s)

/-- KEY_LOAD. -/
def execKeyLoad (m : Master) (tag idx : Nat) (s : State) : Host.Outcome State Fault Refusal :=
  .next (portCmd .flow m 5 tag idx opKeyLoad s)

/-- KEY_ERASE. -/
def execKeyErase (m : Master) (tag idx : Nat) (s : State) : Host.Outcome State Fault Refusal :=
  .next (portCmd .flow m 6 tag idx opKeyErase s)

/-- RELEARN_SSRC. -/
def execRelearnSsrc (m : Master) (tag idx : Nat) (s : State) : Host.Outcome State Fault Refusal :=
  .next (portCmd .flow m 7 tag idx opRelearn s)

/-- SET_KEYS. -/
def execSetKeys (m : Master) (tag idx : Nat) (s : State) : Host.Outcome State Fault Refusal :=
  .next (portCmd .flow m 8 tag idx opSetKeys s)

/-! ### Links and cages (R80, R558) -/

/-- PORT_MOD.STATE of a cage. -/
def modState (s : State) (cage : Nat) : Nat := bits (getR s (0x170 + cage) 0x108) 3 0

/-- A link comes up: only on a present port of a READY cage with an active module (R80). -/
def linkUpOn (s : State) (p : Nat) (fec : Bool) : State :=
  let pg := lportPage p
  if lportPresent s p && ready s pg && modState s (p / 4) = 2 then
    let w := getR s pg 0x104
    putR s pg 0x104 (setBits (setBits w (p % 4) (p % 4) 1) (8 + p % 4) (8 + p % 4) (b2n fec))
  else s

/-- LINK_UP. -/
def execLinkUp (p : Nat) (fec : Bool) (s : State) : Host.Outcome State Fault Refusal := .next (linkUpOn s p fec)

/-- A link goes down, counted in CNT7 (R80). -/
def linkDownOn (s : State) (p : Nat) : State :=
  let pg := lportPage p
  if linkUp s p then
    let w := getR s pg 0x104
    bump (putR s pg 0x104 (setBits (setBits w (p % 4) (p % 4) 0) (8 + p % 4) (8 + p % 4) 0)) pg 7
  else s

/-- Applies a cage's held PORT_CTRL (R80): links of ports that the new mode removes go down, and their
open flows are closed. -/
def portModeApply (s : State) (cage : Nat) : State :=
  let s := if bit (getR s (0x170 + cage) 0x100) 0 then s else forN 3 (fun l s => linkDownOn s (4 * cage + l + 1)) s
  let s := { s with portMode := tset s.portMode cage (getR s (0x170 + cage) 0x100) }
  (openFlows s).foldl (fun s q => if q.2.lport / 4 = cage && !lportPresent s q.2.lport then flowEnd s q.1 else s) s

/-- A write of PORT_CTRL: applied while the cage's page is QUIESCED, otherwise held (R80). -/
def portCtrlWrite (s : State) (cage : Nat) (v : Word) : State :=
  let s := putRV s (0x170 + cage) 0x100 (v &&& 0x3D#32)
  if (blk s (0x170 + cage)).st = .quiesced then portModeApply s cage else s

/-- PORT_MODE_WRITE. -/
def execPortModeWrite (m : Master) (cage : Nat) (v : Word) (s : State) : Host.Outcome State Fault Refusal :=
  .next (if 2 ≤ cage then s else guarded m (0x170 + cage) 0x100 s (fun s => portCtrlWrite s cage v))

/-- LINK_DOWN. -/
def execLinkDown (p : Nat) (s : State) : Host.Outcome State Fault Refusal := .next (linkDownOn s p)

/-- A QSFP28 module is identified: active for power classes 1 to 4, refused otherwise (R558). -/
def qsfpIdentify (s : State) (cage cls temp : Nat) (readable : Bool) : State :=
  let st := if !readable then 4 else if 1 ≤ cls && cls ≤ 4 then 2 else 3
  if cage < 2 && ready s (0x170 + cage) then
    putR s (0x170 + cage) 0x108 (word ((temp % 256) <<< 24 ||| (if readable then cls % 16 else 0) <<< 16 ||| st))
  else s

/-- QSFP_INSERT. -/
def execQsfpInsert (cage cls temp : Nat) (readable : Bool) (s : State) : Host.Outcome State Fault Refusal :=
  .next (qsfpIdentify s cage cls temp readable)

/-- QSFP_REMOVE: the cage's links go down (R80, R558). -/
def execQsfpRemove (cage : Nat) (s : State) : Host.Outcome State Fault Refusal :=
  .next (if cage < 2 then putR (forN 4 (fun l s => linkDownOn s (4 * cage + l)) s) (0x170 + cage) 0x108 0 else s)

end Sys2Proof.Machine
end

