-- ==== Sys2Proof/Machine/Outlets.lean ====
section
/-!
DEFINITION. Machine/Outlets.lean: staging, outlets and the ports' transmit rings (R368-R374).
-/
namespace Sys2Proof.Machine

/-- An outlet. -/
def outlet (s : State) (n : Nat) : Outlet := tgetD s.outlets n {}

/-- Replaces an outlet. -/
def setOutlet (s : State) (n : Nat) (x : Outlet) : State := { s with outlets := tset s.outlets n x }

/-- KIND of an outlet (Table 15-9). -/
def Outlet.kind (x : Outlet) : Nat := byteAt x.recd 0

/-- Offset of an outlet's registers. -/
def outOfs (n : Nat) : Nat := 0x4000 + 0x20 * n

/-- LEN of a record, in entries of 64 bytes. -/
def recLen (r : List Byte) : Nat := leAt r 2 2

/-- Entries of the staging queue, those EMIT still waits to place included (R371). -/
def stageLen (s : State) : Nat := (s.staging.map (fun q => recLen q.2)).sum

/-- EMIT places a record in the staging queue, or waits for space (R371). -/
def stageRec (s : State) (n : Nat) (r : List Byte) : State :=
  let s := { s with staging := s.staging ++ [(n, r)] }
  if 4096 < stageLen s && s.stageAt.isNone then { s with stageAt := some (now s) } else s

/-- The wait of EMIT ends when the queue has room: TRK_STAGE_WAIT counts its CLK_CTL cycles, three to a tick. -/
def stageRoom (s : State) : State :=
  match s.stageAt with
  | some t => if stageLen s ≤ 4096 then { bumpR s 0x190 0x6010 (3 * (now s - t)) with stageAt := none } else s
  | none => s

/-! ### Frames (R372) -/

/-- Big-endian bytes of a number. -/
def beBytes (n v : Nat) : List Byte := (leBytes n v).reverse

/-- Ones' complement sum of 16-bit words. -/
def sum16 : List Byte → Nat
  | a :: b :: t => a.toNat * 256 + b.toNat + sum16 t
  | [a] => a.toNat * 256
  | [] => 0

/-- Internet checksum. -/
def inetSum (l : List Byte) : Nat :=
  let a := sum16 l
  let b := a % 65536 + a / 65536
  let c := b % 65536 + b / 65536
  65535 - c % 65536

/-- UDP checksum over a pseudo-header: 0 is sent as 0xFFFF. -/
def udpSum (pseudo udp : List Byte) : Nat :=
  let c := inetSum (pseudo ++ udp)
  if c = 0 then 0xFFFF else c

/-- The Ethernet frame of a UDP outlet's payload (R372). The IPv4 identification is 0 and no flow label is set
(log 29). -/
def udpFrame (s : State) (r payload : List Byte) : List Byte :=
  let pa := portAddr s (byteAt r 1)
  let v6 := (byteAt r 5).testBit 0
  let vlan := leAt r 0xE 2
  let eth := (r.drop 8).take 6 ++ pa.take 6 ++
    (if vlan = 0 then [] else [0x81, 0x00] ++ beBytes 2 vlan) ++ (if v6 then [0x86, 0xDD] else [0x08, 0x00])
  let ulen := 8 + payload.length
  let dst := (r.drop 0x10).take (if v6 then 16 else 4)
  let src := if v6 then (pa.drop 12).take 16 else (pa.drop 8).take 4
  let udp0 := beBytes 2 (leAt r 0x20 2) ++ beBytes 2 (leAt r 0x22 2) ++ beBytes 2 ulen
  let pseudo := if v6 then src ++ dst ++ beBytes 4 ulen ++ [0, 0, 0, 17] else src ++ dst ++ [0, 17] ++ beBytes 2 ulen
  let udp := udp0 ++ beBytes 2 (udpSum pseudo (udp0 ++ [0, 0] ++ payload)) ++ payload
  let tos := 4 * byteAt r 0x2C
  if v6 then
    eth ++ beBytes 4 (6 * 2 ^ 28 + tos * 2 ^ 20) ++ beBytes 2 ulen ++ [17] ++ leBytes 1 (byteAt r 0x2D) ++ src ++ dst ++ udp
  else
    let h := [0x45] ++ leBytes 1 tos ++ beBytes 2 (20 + ulen) ++ [0, 0, 0x40, 0] ++ leBytes 1 (byteAt r 0x2D) ++ [17]
    let c := inetSum (h ++ [0, 0] ++ src ++ dst)
    eth ++ h ++ beBytes 2 c ++ src ++ dst ++ udp

/-! ### Accepting records -/

/-- A record is dropped (R369, R371). -/
def outDrop (s : State) (n : Nat) : State := bumpR (bumpR s 0x190 (outOfs n + 0x14) 1) 0x190 (outOfs n + 0x18) 1

/-- Sends an outlet's datagram (R372). -/
def dgramSend (s : State) (n : Nat) : State :=
  let x := outlet s n
  if x.dgram.isEmpty then s
  else
    let body := [0x43, 0x58, 0x52, 0x44] ++ leBytes 1 1 ++ leBytes 1 s.life.modId ++ leBytes 1 n ++
      leBytes 1 x.dgram.length ++ leBytes 4 x.dgramSeq ++ zeros 4 ++ x.dgram.flatten
    let f := udpFrame s x.recd body
    setOutlet { s with out := .frame (byteAt x.recd 1) f :: s.out } n
      { x with dgram := [], dgramSeq := x.dgramSeq + 1, rate := x.rate + f.length }

/-- Signals a ring outlet's records (R370). -/
def outSignal (s : State) (n : Nat) : State :=
  let x := outlet s n
  if x.unsig = 0 then s else msixReq (setOutlet s n { x with unsig := 0 }) (leAt x.recd 2 2)

/-- Writes entries at a ring's producer index. -/
def ringPut (s : State) (n : Nat) (r : List Byte) (len : Nat) : State :=
  let x := outlet s n
  let size := 2 ^ byteAt x.recd 4
  let prod := getR s 0x190 (outOfs n + 4)
  let s := (unitWrite s (leAt x.recd 8 8 + 64 * (prod.toNat % size)) r).1
  putR s 0x190 (outOfs n + 4) (prod + word len)

/-- Entries that placing a record takes: the PAD that fills the ring's end, and the record (R370). -/
def ringNeed (size prod len : Nat) : Nat × Nat :=
  let left := size - prod % size
  if left < len then (left, len) else (0, len)

/-- Places a record in a ring outlet that has the space: PAD, record, producer index, interrupt (R370). -/
def ringRecord (s : State) (n : Nat) (r : List Byte) : State :=
  let x := outlet s n
  let size := 2 ^ byteAt x.recd 4
  let prod := (getR s 0x190 (outOfs n + 4)).toNat
  let nd := ringNeed size prod (recLen r)
  let s := if nd.1 = 0 then s
    else ringPut s n (fitBytes 64 (leBytes 2 0 ++ leBytes 2 nd.1 ++ leBytes 2 0xFFFF ++ leBytes 2 0 ++ leBytes 4 x.seq)) nd.1
  let s := ringPut s n (putAt r 8 (leBytes 4 x.seq)) (recLen r)
  let s := (unitWrite s (leAt x.recd 0x10 8) (leBytes 4 (getR s 0x190 (outOfs n + 4)).toNat)).1
  let s := setOutlet s n { x with seq := (x.seq + 1) % 2 ^ 32, unsig := x.unsig + 1,
                                  unsigAt := if x.unsig = 0 then now s else x.unsigAt }
  if leAt x.recd 0x18 2 ≤ x.unsig + 1 then outSignal s n else s

/-- Adds a record to a UDP outlet's datagram, sending the one before where it would not fit (R372). -/
def udpRecord (s : State) (n : Nat) (r : List Byte) : State :=
  let x := outlet s n
  let used := 16 + (x.dgram.map List.length).sum
  let s := if leAt x.recd 0x24 2 < used + r.length || 255 ≤ x.dgram.length then dgramSend s n else s
  let x := outlet s n
  setOutlet s n { x with
    dgram := x.dgram ++ [putAt r 8 (leBytes 4 x.seq)], seq := (x.seq + 1) % 2 ^ 32,
    dgramAt := if x.dgram.isEmpty then now s else x.dgramAt }

/-- A LOSS record (Table 15-8). -/
def lossRec (n : Nat) : List Byte :=
  leBytes 1 5 ++ leBytes 1 0 ++ leBytes 2 1 ++ leBytes 2 0xFFFF ++ zeros 10 ++ leBytes 4 n ++ zeros 44

/-- An outlet accepts a record, after a LOSS record where drops are pending (R371). -/
def outAccept (s : State) (n : Nat) (r : List Byte) (put : State → List Byte → State) : State :=
  let pend := (getR s 0x190 (outOfs n + 0x18)).toNat
  let s := if pend = 0 then s else putR (put s (lossRec pend)) 0x190 (outOfs n + 0x18) 0
  let s := put s r
  putR64 s 0x190 (outOfs n + 0xC) (getR64 s 0x190 (outOfs n + 0xC) + 1)

/-- What an outlet does with a record (R369-R372). -/
def outRecord (s : State) (n : Nat) (r : List Byte) : State :=
  let x := outlet s n
  let loss := getR s 0x190 (outOfs n + 0x18) != 0
  if x.kind = 1 then
    let size := 2 ^ byteAt x.recd 4
    let prod := (getR s 0x190 (outOfs n + 4)).toNat
    let free := size - (getR s 0x190 (outOfs n + 4) - getR s 0x190 (outOfs n + 8)).toNat
    let l := if loss then let q := ringNeed size prod 1; q.1 + q.2 else 0
    let q := ringNeed size (prod + l) (recLen r)
    if free < l + q.1 + q.2 then outDrop s n else outAccept s n r (fun s r => ringRecord s n r)
  else if x.kind = 2 then
    if !linkUp s (byteAt x.recd 1) || leAt x.recd 0x28 4 * 125 < x.rate || leAt x.recd 0x24 2 < 16 + r.length then
      outDrop s n
    else outAccept s n r (fun s r => udpRecord s n r)
  else outDrop s n

/-- OUTLET_MOVE: the outlet engine moves the head of the staging queue (R371). -/
def execOutletMove (s : State) : Host.Outcome State Fault Refusal :=
  .next (match s.staging with
    | [] => s
    | (n, r) :: t => stageRoom (outRecord { s with staging := t } n r))

/-- OUTLET_IRQ_TIMER: IRQ_US after the first unsignalled record of a ring (R370). -/
def execOutletIrqTimer (n : Nat) (s : State) : Host.Outcome State Fault Refusal :=
  .next (let x := outlet s n
    if x.kind = 1 && x.unsig != 0 && x.unsigAt + leAt x.recd 0x1A 2 * Config.tUs ≤ now s then outSignal s n else s)

/-- UDP_FLUSH_EXPIRY: FLUSH_US after a datagram's first record (R372). -/
def execUdpFlushExpiry (n : Nat) (s : State) : Host.Outcome State Fault Refusal :=
  .next (let x := outlet s n
    if x.kind = 2 && !x.dgram.isEmpty && x.dgramAt + leAt x.recd 0x26 2 * Config.tUs ≤ now s then dgramSend s n else s)

/-- UDP_RATE_WINDOW: a UDP outlet's 1 ms rate window ends and the next begins (R371). -/
def execUdpRateWindow (n : Nat) (s : State) : Host.Outcome State Fault Refusal :=
  .next (let x := outlet s n
    if x.kind = 2 then setOutlet s n { x with rate := 0 } else s)

/-! ### OUTLET_SET (R369) -/

/-- The first illegal field of an outlet record, in offset order (Table 15-9). -/
def outletBad (s : State) (o : List Byte) : Option Nat :=
  let k := byteAt o 0
  let l : List (Bool × Nat) :=
    if k = 0 then []
    else if k = 1 then
      [(byteAt o 1 != 0, 1), (2047 < leAt o 2 2, 2), (byteAt o 4 < 6 || 16 < byteAt o 4, 4), (!zeroAt o 5 1, 5),
       (!zeroAt o 6 2, 6), (leAt o 8 8 % 4096 != 0, 8), (leAt o 0x10 8 % 8 != 0, 0x10), (leAt o 0x18 2 < 1, 0x18),
       (leAt o 0x1A 2 < 1, 0x1A), (!zeroAt o 0x20 8, 0x20), (!zeroAt o 0x28 8, 0x28), (!zeroAt o 0x30 16, 0x30)]
    else if k = 2 then
      [(!lportPresent s (byteAt o 1), 1), (!zeroAt o 2 2, 2), (!zeroAt o 4 1, 4), (1 < byteAt o 5, 5), (!zeroAt o 6 2, 6),
       (4094 < leAt o 0xE 2, 0xE), (leAt o 0x24 2 < 80 || 8192 < leAt o 0x24 2, 0x24),
       (leAt o 0x26 2 < 1 || 10000 < leAt o 0x26 2, 0x26), (leAt o 0x28 4 < 1 || 25000 < leAt o 0x28 4, 0x28),
       (63 < byteAt o 0x2C, 0x2C), (byteAt o 0x2D < 1, 0x2D), (!zeroAt o 0x2E 2, 0x2E), (!zeroAt o 0x30 16, 0x30)]
    else [(true, 0)]
  (l.find? (·.1)).map (·.2)

/-- OUTLET_SET: a datagram being assembled is sent first; a ring restarts with its indices at 0 (R369). -/
def opOutletSet : POp := fun n o _ s =>
  if 256 ≤ n then illegal s 0
  else
    match outletBad s o with
    | some f => illegal s f
    | none =>
      let s := dgramSend s n
      let x := outlet s n
      let s := setOutlet s n { x with recd := o.take 64, unsig := 0 }
      done (if byteAt o 0 = 1 then putR (putR s 0x190 (outOfs n + 4) 0) 0x190 (outOfs n + 8) 0 else s)

/-- OUTLET_SET. -/
def execOutletSet (m : Master) (tag idx : Nat) (s : State) : Host.Outcome State Fault Refusal :=
  .next (portCmd .car m 0xF tag idx opOutletSet s)

/-! ### Port transmit rings (R373) -/

/-- Consumes one entry of a port's transmit ring. -/
def ptxOne (s : State) (p : Nat) : State :=
  let pg := 0x170 + p / 4
  let l := laneOfs p
  let head := getR s pg (0x210 + l)
  let size := 2 ^ bits (getR s pg (0x208 + l)) 3 0
  let r := unitRead s (getR64 s pg (0x200 + l) + 16 * (head.toNat % size)) 16
  let s := putR r.1 pg (0x210 + l) (head + 1)
  let len := leAt r.2.1 8 2
  if !r.2.2 || len < 60 || 9212 < len || !linkUp s p then bumpR s pg (0x214 + l) 1
  else
    let f := unitRead s (leAt r.2.1 0 8) len
    if f.2.2 then { f.1 with out := .frame p f.2.1 :: f.1.out } else bumpR f.1 pg (0x214 + l) 1

/-- Consumes entries until the head reaches the tail. -/
def ptxRun (s : State) (p : Nat) : Nat → State
  | 0 => s
  | k + 1 =>
    if getR s (0x170 + p / 4) (0x210 + laneOfs p) = getR s (0x170 + p / 4) (0x20C + laneOfs p) then s
    else ptxRun (ptxOne s p) p k

/-- An enabled transmit ring of a READY cage sends its entries. -/
def ptxGo (s : State) (p : Nat) : State :=
  let cfg := getR s (0x170 + p / 4) (0x208 + laneOfs p)
  if bit cfg 31 && ready s (0x170 + p / 4) then ptxRun s p (2 ^ bits cfg 3 0) else s

/-- A write of PTX_TAIL of a logical port. -/
def ptxTailWrite (s : State) (p : Nat) (v : Word) : State := ptxGo (putR s (0x170 + p / 4) (0x20C + laneOfs p) v) p

/-- PTX_TAIL_WRITE. -/
def execPtxTailWrite (m : Master) (p : Nat) (v : Word) (s : State) : Host.Outcome State Fault Refusal :=
  .next (if 8 ≤ p then s else guarded m (0x170 + p / 4) (0x20C + laneOfs p) s (fun s => ptxTailWrite s p v))

end Sys2Proof.Machine
end

