-- ==== Sys2Proof/Machine/Tracker.lean ====
section
/-!
DEFINITION. Machine/Tracker.lean: track sets, posts, the update of a set, and its records (R357-R367).
-/
namespace Sys2Proof.Machine

/-! ### Track set fields (Table 15-1) -/

/-- MIN_HITS. -/
def tMinHits (r : List Byte) : Nat := byteAt r 0xA
/-- MAX_AGE. -/
def tMaxAge (r : List Byte) : Nat := byteAt r 0xB
/-- N_SLOTS. -/
def tSlots (r : List Byte) : Nat := leAt r 8 2
/-- BASE_SLOT. -/
def tBase (r : List Byte) : Nat := leAt r 4 4
/-- EMB_DIM. -/
def tEmb (r : List Byte) : Nat := leAt r 0xC 2
/-- An FP32 field. -/
def tF (r : List Byte) (o : Nat) : Fl := f32 (leAt r o 4)
/-- MAX_DET. -/
def tMaxDet (r : List Byte) : Nat := leAt r 0x34 2
/-- SET_BLOCK. -/
def tSetBlk (r : List Byte) : Nat := leAt r 0x38 8
/-- RECMASK bit k. -/
def tMask (r : List Byte) (k : Nat) : Bool := (byteAt r 0xF).testBit k

/-- Address of the track table: TRK_TABLE_BASE (R357, log 21). -/
def trkBase (s : State) : Nat := s.ket.resv.getD 0 + Config.trkTableOfs

/-- Address of slot i of a set. -/
def slotAt (s : State) (r : List Byte) (i : Nat) : Nat := trkBase s + 128 * (tBase r + i)

/-- Address of slot i's embedding (R358). -/
def embAt (r : List Byte) (i : Nat) : Nat := tSetBlk r + 64 * cdiv (0x50 + 8 * tSlots r) 64 + 2 * i * tEmb r

/-! ### Slots (Table 15-2) -/

/-- A live track as the update works on it. -/
structure Trk where
  i : Nat
  id : Nat
  st : Nat
  cls : Nat
  hits : Nat
  misses : Nat
  frames : Nat
  flags : Nat
  x : List Fl              -- cx, vx, cy, vy, w, vw, h, vh
  p : List Fl              -- p00, p01, p11 for cx, cy, w, h
  birth : Nat
  last : Nat
  box : List Byte
  score : Nat
  emb : List Nat           -- FP16 words
  ev : Nat := 0            -- TRACK record to emit, 0 none
  deriving DecidableEq, Repr

/-- Reads slot i of a set; none when it is free. -/
def trkRead (s : State) (r : List Byte) (i : Nat) : Option Trk :=
  let b := rdMem s (slotAt s r i) 128
  if byteAt b 4 = 0 then none
  else some
    { i := i, id := leAt b 0 4, st := byteAt b 4, cls := byteAt b 5, hits := byteAt b 6, misses := byteAt b 7,
      frames := leAt b 8 4, flags := leAt b 0xC 4, x := (List.range 8).map (fun k => f32 (leAt b (0x10 + 4 * k) 4)),
      p := (List.range 12).map (fun k => f32 (leAt b (0x30 + 4 * k) 4)), birth := leAt b 0x60 8, last := leAt b 0x68 8,
      box := (b.drop 0x70).take 8, score := leAt b 0x78 4,
      emb := (List.range (tEmb r)).map (fun k => rdLe s (embAt r i + 2 * k) 2) }

/-- The bytes of a slot. -/
def trkBytes (t : Trk) : List Byte :=
  leBytes 4 t.id ++ leBytes 1 t.st ++ leBytes 1 t.cls ++ leBytes 1 t.hits ++ leBytes 1 t.misses ++ leBytes 4 t.frames ++
    leBytes 4 t.flags ++ t.x.flatMap (fun v => leBytes 4 v.w32) ++ t.p.flatMap (fun v => leBytes 4 v.w32) ++
    leBytes 8 t.birth ++ leBytes 8 t.last ++ t.box ++ leBytes 4 t.score ++ zeros 4

/-- Writes a slot and its embedding; state 0 frees it. -/
def trkWrite (s : State) (r : List Byte) (t : Trk) : State :=
  let s := (unitWrite s (slotAt s r t.i) (if t.st = 0 then zeros 128 else trkBytes t)).1
  if tEmb r = 0 || t.st = 0 then s else (unitWrite s (embAt r t.i) (t.emb.flatMap (leBytes 2))).1

/-- A coordinate of a list. -/
def at0 (l : List Fl) (k : Nat) : Fl := l.getD k (.ofNat 0)

/-- The box of a state: x0, y0, x1, y1 in FP32. -/
def boxOf (x : List Fl) : List Fl :=
  let hw := fMul (at0 x 4) (.frac 1 2)
  let hh := fMul (at0 x 6) (.frac 1 2)
  [fSub (at0 x 0) hw, fSub (at0 x 2) hh, fAdd (at0 x 0) hw, fAdd (at0 x 2) hh]

/-- A box as four UINT16, each rounded half to even (log 29). -/
def box16 (b : List Fl) : List Byte := (List.range 4).flatMap (fun k => leBytes 2 (rneClamp 65535 (at0 b k)))

/-- Predicts a track by dt steps (R361 step 1). -/
def trkPredict (r : List Byte) (dt : Nat) (t : Trk) : Trk :=
  let d := Fl.ofNat dt
  let x := (List.range 8).map (fun k =>
    if k % 2 = 0 then fAdd (at0 t.x k) (fMul d (at0 t.x (k + 1))) else at0 t.x k)
  let p := (List.range 12).map (fun k =>
    let p00 := at0 t.p (k / 3 * 3)
    let p01 := at0 t.p (k / 3 * 3 + 1)
    let p11 := at0 t.p (k / 3 * 3 + 2)
    if k % 3 = 0 then
      fAdd (fAdd p00 (fMul d (fAdd (fMul (.ofNat 2) p01) (fMul d p11)))) (fMul d (tF r 0x24))
    else if k % 3 = 1 then fAdd p01 (fMul d p11)
    else fAdd p11 (fMul d (tF r 0x28)))
  { t with x := x, p := p, frames := (t.frames + dt) % 2 ^ 32 }

/-! ### Detections -/

/-- A detection of a post block (Table 15-3). -/
structure Det where
  k : Nat
  box : List Byte
  score : Nat
  cls : Nat
  carried : Bool
  age : Nat
  src : Nat
  emb : Option (List Fl)
  deriving DecidableEq, Repr

/-- Detection k of a post block. -/
def detRead (s : State) (r : List Byte) (post k : Nat) : Det :=
  let b := rdMem s (post + 0x40 + 32 * k) 32
  { k := k, box := b.take 8, score := leAt b 8 4, cls := byteAt b 0xC, carried := (byteAt b 0xD).testBit 0,
    age := byteAt b 0xE, src := leAt b 0x10 8,
    emb := if tEmb r = 0 || leAt b 0x18 4 = 0xFFFFFFFF then none
      else some ((List.range (tEmb r)).map (fun j =>
        fp16.dec (rdLe s (post + 0x40 + 32 * tMaxDet r + 2 * tEmb r * k + 2 * j) 2))) }

/-- Corner k of a detection's box. -/
def Det.c (d : Det) (k : Nat) : Nat := leAt d.box (2 * k) 2

/-- Intersection over union of a predicted box and a detection's (R362). -/
def iou (b : List Fl) (d : Det) : Fl :=
  let z := Fl.ofNat 0
  let iw := (fSub ((at0 b 2).min (.ofNat (d.c 2))) ((at0 b 0).max (.ofNat (d.c 0)))).max z
  let ih := (fSub ((at0 b 3).min (.ofNat (d.c 3))) ((at0 b 1).max (.ofNat (d.c 1)))).max z
  let inter := fMul iw ih
  let ta := fMul (fSub (at0 b 2) (at0 b 0)) (fSub (at0 b 3) (at0 b 1))
  let da := Fl.ofNat ((d.c 2 - d.c 0) * (d.c 3 - d.c 1))
  if inter.isZero then z else fDiv inter (fSub (fAdd ta da) inter)

/-- Dot product in index order. -/
def dot (a b : List Fl) : Fl := (a.zip b).foldl (fun t q => fAdd t (fMul q.1 q.2)) (.ofNat 0)

/-- An FP16 embedding has a non-zero element. -/
def embHas (e : List Nat) : Bool := e.any (fun w => w % 32768 != 0)

/-- A candidate pair with its quantised cost: slot, detection, cost (R362). -/
structure Edge where
  t : Nat
  d : Nat
  c : Nat
  deriving DecidableEq, Repr

/-- The candidate pair of a track and a detection in a stage. -/
def pairOf (r : List Byte) (stage1 : Bool) (t : Trk) (d : Det) : List Edge :=
  let v := iou (boxOf t.x) d
  let dd : Option Fl := if stage1 && tEmb r != 0 && embHas t.emb then
      d.emb.map (fun e => fSub (.ofNat 1) (dot (t.emb.map fp16.dec) e))
    else none
  let near := match dd with
    | some q => q.le (tF r 0x14)
    | none => false
  if ((byteAt r 1).testBit 0 || t.cls == d.cls) && (Fl.ofNat 0).lt v && ((tF r 0x10).le v || near) then
    let w := tF r 0x18
    let one := Fl.ofNat 1
    let cost := match dd with
      | some q => fAdd (fMul (fSub one w) (fSub one v)) (fDiv (fMul w q) (.ofNat 2))
      | none => fSub one v
    [⟨t.i, d.k, rneClamp (2 ^ 32) (cost.mul (.ofNat 65535))⟩]
  else []

/-- The edges that share a track or a detection with a set of edges. -/
def growEdges (es cur : List Edge) : Nat → List Edge
  | 0 => cur
  | k + 1 => growEdges es (es.filter (fun e => cur.any (fun q => q.t == e.t || q.d == e.d))) k

/-- The connected components of the candidate pairs. -/
def components : Nat → List Edge → List (List Edge)
  | 0, _ => []
  | _, [] => []
  | k + 1, e :: es =>
    let c := growEdges (e :: es) [e] (es.length + 1)
    c :: components k (es.filter (fun q => !c.contains q))

/-- An assignment: pairs in slot order, with the sum of their costs. -/
structure Asg where
  n : Nat := 0
  cost : Nat := 0
  pairs : List (Nat × Nat) := []
  deriving DecidableEq, Repr

/-- Pairs as one list of numbers, for lexicographic order. -/
def Asg.flat (a : Asg) : List Nat := a.pairs.flatMap (fun p => [p.1, p.2])

/-- The order of R362: more pairs, then less cost, then the lexicographically least list. -/
def Asg.better (a b : Asg) : Bool :=
  decide (b.n < a.n) || (a.n == b.n && (decide (a.cost < b.cost) || (a.cost == b.cost && decide (a.flat < b.flat))))

/-- The best assignment of tracks, in slot order, to detections not yet used. -/
def bestAsg (es : List Edge) : List Nat → List Nat → Asg
  | [], _ => {}
  | t :: ts, used =>
    (es.filter (fun e => e.t == t && !used.contains e.d)).foldl (fun b e =>
      let r := bestAsg es ts (e.d :: used)
      let a : Asg := { n := r.n + 1, cost := r.cost + e.c, pairs := (t, e.d) :: r.pairs }
      if a.better b then a else b) (bestAsg es ts used)

/-- Inserts in order. -/
def insBy {α : Type} (lt : α → α → Bool) (x : α) : List α → List α
  | [] => [x]
  | y :: t => if lt x y then x :: y :: t else y :: insBy lt x t

/-- A list in order; equal elements keep theirs. -/
def sortBy {α : Type} (lt : α → α → Bool) (l : List α) : List α :=
  l.foldl (fun a x => insBy lt x a) []

/-- Numbers of a list, rising and distinct. -/
def distinctNats (l : List Nat) : List Nat :=
  (sortBy (fun a b => decide (a < b)) l).foldr (fun x a => if a.head? = some x then a else x :: a) []

/-- Greedy matching: ascending cost, then slot, then detection (R362). -/
def greedy (es : List Edge) : List (Nat × Nat) :=
  (sortBy (fun (a b : Edge) => decide ([a.c, a.t, a.d] < [b.c, b.t, b.d])) es).foldl (fun m e =>
    if m.any (fun p => p.1 == e.t || p.2 == e.d) then m else m ++ [(e.t, e.d)]) []

/-- Matches one stage: pairs, and the components matched greedily. -/
def matchStage (es : List Edge) : List (Nat × Nat) × Nat :=
  (components es.length es).foldl (fun a c =>
    let ts := distinctNats (c.map (·.t))
    let ds := distinctNats (c.map (·.d))
    if 64 < ts.length || 64 < ds.length then (a.1 ++ greedy c, a.2 + 1) else (a.1 ++ (bestAsg c ts []).pairs, a.2))
    ([], 0)

/-! ### Update and lifecycle -/

/-- The measurement of a detection: centre and size. -/
def measure (d : Det) : List Fl :=
  [.frac (d.c 0 + d.c 2) 2, .frac (d.c 1 + d.c 3) 2, .ofNat (d.c 2 - d.c 0), .ofNat (d.c 3 - d.c 1)]

/-- The filter update of a matched track (R363). -/
def trkFilter (r : List Byte) (t : Trk) (d : Det) : Trk :=
  let z := measure d
  let upd := (List.range 4).map (fun k =>
    let p00 := at0 t.p (3 * k)
    let p01 := at0 t.p (3 * k + 1)
    let p11 := at0 t.p (3 * k + 2)
    let sv := fAdd p00 (tF r 0x2C)
    let k0 := fDiv p00 sv
    let k1 := fDiv p01 sv
    let e := fSub (at0 z k) (at0 t.x (2 * k))
    let c0 := fSub (.ofNat 1) k0
    ([fAdd (at0 t.x (2 * k)) (fMul k0 e), fAdd (at0 t.x (2 * k + 1)) (fMul k1 e)],
     [fMul c0 p00, fMul c0 p01, fSub p11 (fMul k1 p01)]))
  { t with x := upd.flatMap (·.1), p := upd.flatMap (·.2) }

/-- The blended embedding (R363). -/
def embBlend (r : List Byte) (old : List Nat) (new : List Fl) : List Nat :=
  let a := tF r 0x30
  let b := fSub (.ofNat 1) a
  let m := (old.zip new).map (fun q => fAdd (fMul a (fp16.dec q.1)) (fMul b q.2))
  let len := fSqrt (dot m m)
  if len.isZero || !len.isFin then old else m.map (fun v => (fp16.cvt .rne (fDiv v len)).q)

/-- A matched track (R363, Table 15-5). -/
def trkMatched (r : List Byte) (conc : Bool) (stamp : Nat) (t : Trk) (d : Det) : Trk :=
  let t := if d.carried then t else
    let u := trkFilter r t d
    match d.emb with
    | some e => { u with emb := embBlend r u.emb e }
    | none => u
  let hits := min 255 (t.hits + 1)
  let st := if t.st = 1 && hits < tMinHits r then 1 else 2
  { t with hits := hits, misses := 0, last := stamp, box := d.box, score := d.score,
           flags := b2n d.carried + 2 * b2n conc, st := st,
           ev := if t.st = 1 && st = 2 then 1 else if t.st = 3 then 3 else 0 }

/-- An unmatched track (Table 15-5). -/
def trkMissed (r : List Byte) (t : Trk) : Trk :=
  let m := min 255 (t.misses + 1)
  if t.st = 1 then { t with st := 0 }
  else if t.st = 2 then { t with st := 3, misses := m, ev := 2 }
  else if tMaxAge r < t.misses + 1 then { t with st := 0, misses := m, ev := 4 }
  else { t with misses := m }

/-- A birth in slot i (Table 15-5). The spec states neither the velocities nor the covariance of a new track: they
are free (log 29). -/
def trkBirth (s : State) (r : List Byte) (i id stamp : Nat) (conc : Bool) (d : Det) : State × Trk :=
  let z := measure d
  let fr := fun (k : Nat) => f32 (Config.freeWord (s.free + k)).toNat
  let one := decide (tMinHits r ≤ 1)
  ({ s with free := s.free + 16 },
   { i := i, id := id, st := if one then 2 else 1, cls := d.cls, hits := 1, misses := 0, frames := 0,
     flags := b2n d.carried + 2 * b2n conc,
     x := (List.range 8).map (fun k => if k % 2 = 0 then at0 z (k / 2) else fr (k / 2)),
     p := (List.range 12).map (fun k => fr (4 + k)), birth := stamp, last := stamp, box := d.box, score := d.score,
     emb := match d.emb with
       | some e => e.map (fun v => (fp16.cvt .rne v).q)
       | none => List.replicate (tEmb r) 0,
     ev := if one then 1 else 0 })

/-- The next TRACK_ID, which skips 0. -/
def idNext (n : Nat) : Nat := if 2 ^ 32 ≤ n + 1 then 1 else n + 1

/-! ### Records (R365, R367) -/

/-- Record header of one entry (Table 15-7). -/
def recHead (ty flags len n frameNo : Nat) : List Byte :=
  leBytes 1 ty ++ leBytes 1 flags ++ leBytes 2 len ++ leBytes 2 n ++ leBytes 2 0 ++ leBytes 4 0 ++ leBytes 4 frameNo

/-- Stages a record of a set under RECMASK; the encoder sees it either way (R380). -/
def setRecord (s : State) (n : Nat) (r : List Byte) (bit : Nat) (rec' : List Byte) : State :=
  let s := if tMask r bit then stageRec s (byteAt r 0xE) rec' else s
  evidTrigger s n rec'

/-- A TRACK record. -/
def trackRec (n frameNo stamp flags : Nat) (t : Trk) : List Byte :=
  recHead 3 flags 1 n frameNo ++ leBytes 8 stamp ++ leBytes 4 t.id ++ leBytes 1 t.ev ++ leBytes 1 t.cls ++
    leBytes 1 t.hits ++ leBytes 1 t.misses ++ leBytes 8 t.birth ++ box16 (boxOf t.x) ++
    [1, 3, 5, 7].flatMap (fun k => leBytes 4 (at0 t.x k).w32)

/-- Writes the predicted-box list: boxes, then COUNT and FRAME_NO (R365). -/
def boxListWrite (s : State) (n : Nat) (r : List Byte) (frameNo : Nat) (ts : List Trk) : State :=
  let sz := (trkSet s n).size
  let boxes := ts.filterMap (fun t =>
    if t.st = 0 || (t.st = 1 && !(byteAt r 1).testBit 1) then none
    else
      let b := boxOf (trkPredictX t)
      let c := fun (k hi : Nat) => min hi (rneClamp 65535 (at0 b k))
      let x0 := c 0 sz.1
      let y0 := c 1 sz.2
      let x1 := c 2 sz.1
      let y1 := c 3 sz.2
      if x0 < x1 && y0 < y1 then some ([x0, y0, x1, y1].flatMap (leBytes 2)) else none)
  let a := tSetBlk r + 0x40
  let s := (unitWrite s (a + 8) boxes.flatten).1
  (unitWrite s a (leBytes 4 boxes.length ++ leBytes 4 frameNo)).1
where
  /-- The track's position one frame on. -/
  trkPredictX (t : Trk) : List Fl :=
    (List.range 8).map (fun k => if k % 2 = 0 then fAdd (at0 t.x k) (at0 t.x (k + 1)) else at0 t.x k)

/-- Writes the set header (Table 15-4). -/
def setHeader (s : State) (n : Nat) (r : List Byte) (frameNo stamp : Nat) (ts : List Trk) : State :=
  let x := trkSet s n
  (unitWrite s (tSetBlk r) (leBytes 4 frameNo ++ leBytes 4 x.nextId ++
    leBytes 2 (ts.filter (fun t => t.st != 0)).length ++ leBytes 2 (ts.filter (fun t => t.st == 1)).length ++
    leBytes 4 x.refused ++ leBytes 8 stamp ++ zeros 40)).1

/-- ENABLE 0 takes effect (R357): held posts are discarded, an ENDED record is emitted for each live confirmed track,
and the slots are free. Pictures of the evidence window wait for no update any more (log 92). -/
def setEnd (s : State) (n : Nat) (recd : List Byte) : State :=
  let x := trkSet s n
  let r := x.recd
  let s := x.ents.foldl (fun s e => match e.post with
    | some b => if e.gap = 0 then relBlock s b 4 4 else s
    | none => s) s
  let ts := (List.range (tSlots r)).filterMap (trkRead s r)
  let s := ts.foldl (fun s t =>
    let s := if t.st = 2 then setRecord s n r 2 (trackRec n x.lastFrame x.lastStamp 0 { t with ev := 4 }) else s
    trkWrite s r { t with st := 0 }) s
  let u := fun (p : WinPic) => { p with updated := true }
  winTrim (updEvid (updSet s n (fun _ => { recd := recd, size := x.size })) n (fun e => { e with
    window := e.window.map u, clip := e.clip.map (fun c => { c with todo := c.todo.map u }) })) n

/-- The update of a set has ended: its release is complete, its post block returns, and an ENABLE 0 that waited takes
effect. -/
def updEnd (s : State) (n frameNo stamp : Nat) (e : TrkEnt) : State :=
  let s := match e.post with
    | some b => if e.gap = 0 then relBlock s b 4 4 else s
    | none => s
  let s := updSet s n (fun t => { t with busy := none, since := 0, lastStamp := stamp, lastFrame := frameNo })
  let took := now s - e.postAt
  let s := if e.gap = 0 then putR s 0x190 0x6020 (maxW (getR s 0x190 0x6020) took) else s
  let x := trkSet s n
  if x.ending then setEnd s n (putAt x.recd 0 [0]) else s

/-- What births have done so far. -/
structure BirthAcc where
  s : State
  ts : List Trk
  ids : List (Nat × Nat) := []     -- detection -> slot
  deriving DecidableEq, Repr

/-- Births of unmatched stage-1 detections, in order, each in the lowest free slot (Table 15-5). A track that left its
slot in this update keeps its record. -/
def births (n : Nat) (r : List Byte) (stamp : Nat) (conc : Bool) (ds : List Det) (a : BirthAcc) : BirthAcc :=
  ds.foldl (fun a d =>
    let live := (a.ts.filter (fun t => t.st != 0)).map (·.i)
    match (List.range (tSlots r)).find? (fun i => !live.contains i) with
    | none =>
      { a with s := bumpR (updSet a.s n (fun x => { x with refused := x.refused + 1 })) 0x190 0x601C 1 }
    | some i =>
      let id := (trkSet a.s n).nextId
      let b := trkBirth a.s r i id stamp conc d
      { s := updSet b.1 n (fun x => { x with nextId := idNext x.nextId }),
        ts := a.ts ++ [b.2], ids := a.ids ++ [(d.k, i)] }) a

/-- The OBJECT record of a detection (Table 15-8). -/
def objectRec (n frameNo stamp flags model : Nat) (d : Det) (t : Option Trk) : List Byte :=
  recHead 2 (flags + 4 * b2n d.carried) 1 n frameNo ++ leBytes 8 stamp ++ leBytes 8 (if d.carried then d.src else stamp) ++
    d.box ++ (match t with
      | some t => box16 (boxOf t.x) ++ leBytes 4 t.id
      | none => zeros 12) ++ leBytes 4 d.score ++ leBytes 1 d.cls ++ leBytes 1 d.age ++
    leBytes 1 (match t with
      | some t => t.st
      | none => 0) ++ leBytes 1 model ++ leBytes 2 d.k ++ leBytes 2 0

/-- The FRAME record of an entry from its post header (Table 15-8). -/
def frameRec (s : State) (n : Nat) (h : List Byte) (objs live greedyN took : Nat) : List Byte :=
  recHead 1 (byteAt h 1) 1 n (leAt h 4 4) ++ leBytes 8 (leAt h 8 8) ++ leBytes 8 (now s) ++ leBytes 2 objs ++
    leBytes 2 (leAt h 0x12 2) ++ leBytes 2 live ++ leBytes 1 (byteAt h 0x1B) ++ leBytes 1 (byteAt h 0x18) ++
    leBytes 4 (leAt h 0x14 4) ++ leBytes 4 (leAt h 0x1C 4) ++ leBytes 8 (leAt h 0x20 8) ++ leBytes 4 took ++
    leBytes 1 (byteAt h 0x19) ++ leBytes 1 (byteAt h 0x1A) ++ leBytes 2 greedyN

/-- TRK_UPDATE on a gap entry: the tracks are predicted, the box list and a FRAME record are written (R361). -/
def updGap (s : State) (n : Nat) (e : TrkEnt) (r h : List Byte) (ts : List Trk) : State :=
  let s := ts.foldl (fun s t => trkWrite s r t) s
  let s := boxListWrite s n r (leAt h 4 4) ts
  let s := setHeader s n r (leAt h 4 4) (leAt h 8 8) ts
  let s := setRecord s n r 0 (frameRec s n h 0 ts.length 0 0)
  updEnd (winUpdated s n (leAt h 4 4) []) n (leAt h 4 4) (leAt h 8 8) e

/-- TRK_UPDATE on a frame's post (R361-R367). -/
def updFrame (s : State) (n : Nat) (e : TrkEnt) (r h : List Byte) (post : Nat) (ts : List Trk) : State :=
  let frameNo := leAt h 4 4
  let stamp := leAt h 8 8
  let conc := (byteAt h 1).testBit 0
  let ds := (List.range (leAt h 0x10 2)).map (detRead s r post)
  let hiS := tF r 0x1C
  let loS := tF r 0x20
  let d1 := ds.filter (fun d => hiS.le (f32 d.score))
  let d2 := ds.filter (fun d => loS.le (f32 d.score) && (f32 d.score).lt hiS)
  let m1 := matchStage (ts.flatMap (fun t => d1.flatMap (pairOf r true t)))
  let left := ts.filter (fun t => !m1.1.any (fun p => p.1 == t.i))
  let m2 := matchStage (left.flatMap (fun t => d2.flatMap (pairOf r false t)))
  let pairs := m1.1 ++ m2.1
  let ts1 := ts.map (fun t =>
    match pairs.find? (fun p => p.1 == t.i) with
    | some p =>
      match ds[p.2]? with
      | some d => trkMatched r conc stamp t d
      | none => trkMissed r t
    | none => trkMissed r t)
  let fresh := d1.filter (fun d => !pairs.any (fun p => p.2 == d.k))
  let b := births n r stamp conc fresh { s := s, ts := ts1 }
  let s := bumpR b.s 0x190 0x6018 (m1.2 + m2.2)
  let all := sortBy (fun (x y : Trk) => decide (x.i < y.i)) b.ts
  let s := (all.filter (fun t => t.st == 0)).foldl (fun s t => trkWrite s r t) s
  let s := (all.filter (fun t => t.st != 0)).foldl (fun s t => trkWrite s r t) s
  let live := all.filter (fun t => t.st != 0)
  let s := boxListWrite s n r frameNo live
  let s := setHeader s n r frameNo stamp live
  let fl := byteAt h 1 % 4 + byteAt h 1 / 16 % 4 * 16
  let slotOf := fun (d : Det) => match pairs.find? (fun p => p.2 == d.k) with
    | some p => some p.1
    | none => (b.ids.find? (fun (p : Nat × Nat) => p.1 == d.k)).map (fun (p : Nat × Nat) => p.2)
  let shown := ds.filter (fun d => loS.le (f32 d.score))
  let objs := shown.map (fun d =>
    objectRec n frameNo stamp fl (byteAt h 0x1A) d ((slotOf d).bind (fun i => live.find? (fun t => t.i == i))))
  let s := setRecord s n r 0 (frameRec s n h objs.length live.length (m1.2 + m2.2) (now s - e.postAt))
  let s := objs.foldl (fun s o => setRecord s n r 1 o) s
  let s := (all.filter (fun t => t.ev != 0)).foldl (fun s t => setRecord s n r 2 (trackRec n frameNo stamp fl t)) s
  updEnd (winUpdated s n frameNo objs) n frameNo stamp e

/-- TRK_UPDATE (R361): the entry released to the set. -/
def trkUpdate (s : State) (n : Nat) : State :=
  let x := trkSet s n
  match x.busy with
  | none => s
  | some e =>
    let post := e.post.getD 0
    let r := x.cfg
    let h := rdMem s post 64
    let ts := ((List.range (tSlots r)).filterMap (trkRead s r)).map (trkPredict r x.since)
    if byteAt h 0 = 1 then updGap s n e r h ts else updFrame s n e r h post ts

/-! ### Posts (R359) -/

/-- The post header of a frame from its gating record or map block (Table 15-3). -/
def postHead (s : State) (n src recA count dropped model : Nat) : List Byte :=
  let g := rdMem s recA 0x40
  let gated := g.take 4 == [0x43, 0x58, 0x47, 0x54]
  let m := rdMem s (if gated then leAt g 0x28 8 else recA) 64
  let fl := leAt m 6 2
  leBytes 1 0 ++ leBytes 1 (b2n (fl.testBit 2) + 2 * b2n (fl.testBit 3) + 16 * src) ++ leBytes 2 n ++
    leBytes 4 (if gated then leAt g 0xC 4 else leAt m 0x14 4) ++ leBytes 8 (leAt m 0x18 8) ++ leBytes 2 count ++
    leBytes 2 dropped ++ leBytes 4 (if gated then leAt g 0x20 4 else 0) ++
    leBytes 1 (if gated then byteAt g 5 else 0) ++ leBytes 1 (byteAt m 5) ++ leBytes 1 model ++ leBytes 1 0 ++
    leBytes 4 (if gated then leAt g 8 4 else 0) ++ leBytes 8 (leAt m 0x28 8) ++ zeros 24

/-- The frame that a gating record or map block names. -/
def postFrame (s : State) (recA : Nat) : Nat :=
  let g := rdMem s recA 0x40
  if g.take 4 = [0x43, 0x58, 0x47, 0x54] then leAt g 0xC 4 else leAt g 0x14 4

/-- Detections that TRK_POST copies: at most MAX_DET in descending score order, ties by lower index (R359). -/
def postKept (r : List Byte) (dets : List (List Byte)) : List (List Byte) :=
  (sortBy (fun (a b : List Byte) => (f32 (leAt b 8 4)).lt (f32 (leAt a 8 4))) dets).take (tMaxDet r)

/-- TRK_POST (R359): `dets` are the detection list's entries, `embs` the embeddings of those copied, zeros for one
without. Without a block the frame becomes gap 6 (log 29). -/
def trkPost (s : State) (n recA model : Nat) (dets : List (List Byte)) (embs : List Byte) : State :=
  let x := trkSet s n
  let r := x.recd
  if !x.on then s
  else
    let fn := postFrame s recA
    let pn := byteAt r 0x36
    let q := if poolUsable s pn then ketAlloc s pn 4 4 2 1 else (s, .ptr)
    match q with
    | (s, .ok (b :: _)) =>
      let kept := postKept r dets
      let src := match x.ents.find? (fun e => e.frameNo == fn) with
        | some e => e.src
        | none => 0
      let s := (wrGddr s b (postHead s n src recA kept.length (dets.length - kept.length) model ++ kept.flatten)).1
      let dim := tEmb r
      let s := if dim = 0 then s else
        (wrGddr s (b + 0x40 + 32 * tMaxDet r) embs).1
      if x.ents.any (fun e => e.frameNo == fn && e.post.isNone) then
        updSet s n (fun t => { t with ents := t.ents.map (fun e =>
          if e.frameNo = fn && e.post.isNone then { e with post := some b, postAt := now s } else e) })
      else relBlock s b 4 4
    | (s, _) =>
      match x.ents.find? (fun e => e.frameNo == fn) with
      | some e => trkGap s n fn e.stamp 6
      | none => s

/-! ### Release (R360) -/

/-- The registered entry with the earliest capture stamp, the earlier registration on a tie. -/
def firstEnt (l : List TrkEnt) : Option TrkEnt :=
  l.foldl (fun (b : Option TrkEnt) e =>
    match b with
    | none => some e
    | some x => if e.stamp < x.stamp then some e else b) none

/-- A context is open and TRIGGERED (R357). -/
def ctxTriggered (s : State) (c : Nat) : Bool := (ctx s c).st != .closed && (ctx s c).flag 1

/-- TRACK_ORDER_RELEASE: a resolved earliest entry, whose reorder depth has passed, goes to TRACK_CTX (R360). -/
def execTrackOrderRelease (n : Nat) (s : State) : Host.Outcome State Fault Refusal :=
  .next (let x := trkSet s n
    let c := leAt x.recd 2 2
    if !x.on || x.ending || x.busy.isSome || !ready s 0x190 || !ctxTriggered s c then s
    else
      match firstEnt x.ents with
      | none => s
      | some e =>
        match e.post with
        | none => s
        | some b =>
          if e.seq + 1 + x.reorder ≤ x.passed || (stm s n).queue.isEmpty then
            let s := updSet s n (fun t => { t with
              ents := t.ents.filter (fun q => !(q.frameNo == e.frameNo && q.seq == e.seq && q.stamp == e.stamp)),
              busy := some e, since := t.since + 1, cfg := t.recd })
            ctxPost s c n e.stamp b 3 n
          else s)

/-! ### TRACK_SET (R357) -/

/-- An FP32 field lies in a closed range. -/
def fIn (r : List Byte) (o : Nat) (lo hi : Fl) : Bool := (tF r o).isFin && lo.le (tF r o) && (tF r o).le hi

/-- The first illegal field of a track set record, in offset order (Table 15-1). -/
def trackBad (s : State) (n : Nat) (o : List Byte) : Option Nat :=
  let zero := Fl.ofNat 0
  let one := Fl.ofNat 1
  let pos := fun (a : Nat) => (tF o a).isFin && zero.lt (tF o a)
  let small := match pool s (byteAt o 0x36) with
    | some k => decide (k.bsize < 64 + 32 * tMaxDet o + 2 * tEmb o * tMaxDet o)
    | none => true
  let clash := byteAt o 0 == 1 && s.sets.any (fun q => q.1 != n && q.2.on &&
    decide (tBase o < tBase q.2.recd + tSlots q.2.recd) && decide (tBase q.2.recd < tBase o + tSlots o))
  (([(1 < byteAt o 0, 0), (3 < byteAt o 1, 1), (leAt o 2 2 < 1 || 4095 < leAt o 2 2, 2),
    (131071 < tBase o || clash, 4), (tSlots o < 1 || 4096 < tSlots o || 131072 < tBase o + tSlots o, 8),
    (byteAt o 0xA < 1 || 16 < byteAt o 0xA, 0xA), (byteAt o 0xB < 1, 0xB), (!([0, 64, 128, 256].contains (tEmb o)), 0xC),
    (7 < byteAt o 0xF, 0xF), (!(pos 0x10 && (tF o 0x10).le one), 0x10), (!fIn o 0x14 zero (.ofNat 2), 0x14),
    (!fIn o 0x18 zero one, 0x18), (!fIn o 0x1C zero one, 0x1C), (!fIn o 0x20 zero (tF o 0x1C), 0x20),
    (!(pos 0x24 && pos 0x28 && pos 0x2C), 0x24), (!fIn o 0x30 zero one, 0x30),
    (tMaxDet o < 1 || 2048 < tMaxDet o, 0x34), (63 < byteAt o 0x36 || small, 0x36), (!zeroAt o 0x37 1, 0x37),
    (tSetBlk o % 64 != 0, 0x38)] : List (Bool × Nat)).find? (·.1)).map (·.2)

/-- TRACK_SET. -/
def opTrackSet : POp := fun n o _ s =>
  let o := o.take 64
  let x := trkSet s n
  if 1024 ≤ n then illegal s 0
  else
    match trackBad s n o with
    | some f => illegal s f
    | none =>
      if !ctxTriggered s (leAt o 2 2) then refuse s 0xC 0
      else if x.on && (tBase o != tBase x.recd || tSlots o != tSlots x.recd || tEmb o != tEmb x.recd) then refuse s 0xC 0
      else if x.on && byteAt o 0 = 0 then
        if x.busy.isSome then done (updSet s n (fun t => { t with ending := true })) else done (setEnd s n o)
      else if x.on then done (updSet s n (fun t => { t with recd := o, ending := false }))
      else done (updSet s n (fun t => { recd := o, size := t.size, reorder := t.reorder }))

/-- TRACK_SET. -/
def execTrackSet (m : Master) (tag idx : Nat) (s : State) : Host.Outcome State Fault Refusal :=
  .next (portCmd .car m 0xE tag idx opTrackSet s)

end Sys2Proof.Machine
end

