-- ==== Sys2Proof/Machine/Batches.lean ====
section
/-!
DEFINITION. Machine/Batches.lean: the step controller of sequence models (R338-R355).
-/
namespace Sys2Proof.Machine

/-! ### The record (Table 14-1) -/

/-- A batch. -/
def batch (s : State) (b : Nat) : Batch := tgetD s.batches b {}

/-- Changes a batch. -/
def updBatch (s : State) (b : Nat) (f : Batch → Batch) : State := { s with batches := tset s.batches b (f (batch s b)) }

/-- MAX_SEQ. -/
def Batch.maxSeq (x : Batch) : Nat := leAt x.recd 2 2
/-- TOP_K. -/
def Batch.topK (x : Batch) : Nat := byteAt x.recd 4
/-- LIST_N. -/
def Batch.listN (x : Batch) : Nat := byteAt x.recd 5
/-- PAGE_TOKENS. -/
def Batch.pageTok (x : Batch) : Nat := leAt x.recd 6 2
/-- MAX_LEN. -/
def Batch.maxLen (x : Batch) : Nat := leAt x.recd 8 2
/-- KV_POOL. -/
def Batch.kvPool (x : Batch) : Nat := byteAt x.recd 0x14
/-- MAX_PAGES (R348). -/
def Batch.maxPages (x : Batch) : Nat := x.maxLen / x.pageTok
/-- Entry k of the list table: MAX_ROWS and MAX_PREFILL. -/
def Batch.listCap (x : Batch) (k : Nat) : Nat × Nat := (leAt x.lists (32 * k + 0x10) 2, leAt x.lists (32 * k + 0x14) 4)
/-- The last entry's bounds. -/
def Batch.lastCap (x : Batch) : Nat × Nat := x.listCap (x.listN - 1)
/-- Offset of a batch's registers in page 0x190. -/
def seqbOfs (b k : Nat) : Nat := 0x3000 + 0x40 * b + k

/-- PLAN_SIZE (R348). -/
def planSize (maxSeq maxPages : Nat) : Nat := 0x2040 + 256 * maxSeq + 8 * maxPages * (maxSeq + 1)

/-- Kettle blocks are taken for a context, none when a pool grants too few. -/
def takeBlocks (s : State) (pn n cls k : Nat) : State × Option (List Nat) :=
  match ketAlloc s pn 1 n cls k with
  | (s', .ok l) => (s', if l.length = k then some l else none)
  | (s', _) => (s', none)

/-- The first illegal field of a batch record, in offset order (Table 14-1, R339, R340). `tab` is its list table. -/
def batchBad (s : State) (o tab : List Byte) : Option Nat :=
  let x : Batch := { recd := o, lists := tab }
  let pt := x.pageTok
  let pow2 := [8, 16, 32, 64, 128, 256].contains pt
  let below := fun (pn need : Nat) => match pool s pn with
    | some p => decide (p.bsize < need)
    | none => true
  let kv := leAt o 0x10 4
  let rise := (List.range (x.listN - 1)).all (fun k =>
    decide ((x.listCap k).1 ≤ (x.listCap (k + 1)).1) && decide ((x.listCap k).2 ≤ (x.listCap (k + 1)).2))
  let tabOk := rise && x.maxSeq ≤ x.lastCap.1 && leAt o 0xA 2 ≤ x.lastCap.2 && (List.range x.listN).all (fun k =>
    inR (x.listCap k).1 1 256 && (x.listCap k).2 < 2 ^ 24 && zeroAt tab (32 * k + 0x12) 2 && zeroAt tab (32 * k + 0x18) 8)
  (([(!inR (leAt o 0 2) 1 4095, 0), (!inR x.maxSeq 1 256, 2), (!inR x.topK 1 64, 4), (!inR x.listN 1 16, 5), (!pow2, 6),
    (x.maxLen = 0 || x.maxLen % pt != 0 || 32768 < x.maxLen || 256 * pt < x.maxLen, 8),
    (!inR (leAt o 0xA 2) 1 (x.maxLen - 1), 0xA), (!inR (leAt o 0xC 4) 2 1048576, 0xC),
    (kv = 0 || kv % 64 != 0 || below x.kvPool (pt * kv), 0x10), (63 < x.kvPool, 0x14),
    (63 < byteAt o 0x15 || below (byteAt o 0x15) (max (planSize x.maxSeq x.maxPages) (2048 * x.topK)), 0x15),
    (leAt o 0x18 8 % 64 != 0 || !tabOk, 0x18), (leAt o 0x20 8 % 64 != 0, 0x20), (leAt o 0x28 8 % 64 != 0, 0x28),
    (leAt o 0x30 8 % 64 != 0, 0x30), (!inR (byteAt o 0x38) 4 10, 0x38),
    (!inR (byteAt o 0x39) 4 14 || 2 ^ byteAt o 0x39 < 2 * x.maxSeq + 16, 0x39), (byteAt o 0x3B / 4 != 0, 0x3B),
    (leAt o 0x3C 2 = 0, 0x3C)] : List (Bool × Nat)).find? (·.1)).map (·.2)

/-- BATCH_OPEN (R339): a pool that cannot grant its blocks leaves the batch closed with BUSY (log 38). -/
def opBatchOpen : POp := fun b o _ s =>
  let o := o.take 64
  let n := leAt o 0 2
  let r := unitRead s (leAt o 0x18 8) (32 * byteAt o 5)
  let tab := r.2.1
  let c := ctx s n
  let cls := byteAt c.recd 0
  if 64 ≤ b then illegal s 0
  else
    match batchBad s o tab with
    | some f => illegal s f
    | none =>
      if (batch s b).st != 0 then refuse s 4 0
      else if c.st != .idle || c.flag 1 || cls = 0 || cls = 3 || (batchOf s n).isSome then refuse s 0xC 0
      else
        match takeBlocks r.1 (byteAt o 0x15) n 2 2 with
        | (s, none) => refuse s 0xC 0
        | (s, some pb) =>
          match takeBlocks s (byteAt o 0x14) n 2 1 with
          | (s, none) => refuse (pb.foldl (fun s a => relBlock s a 1 n) s) 0xC 0
          | (s, some nb) =>
            done (updBatch s b (fun _ => { st := 1, recd := o, lists := tab, plan := pb.getD 0 0, out := pb.getD 1 0,
                                           null := nb.getD 0 0, startAt := now s, commitAt := now s }))

/-! ### Records (Table 14-6) -/

/-- A logit record's 64 bytes. -/
def logitRec (kind flags slot reason step tag len entries stm cap t : Nat) : List Byte :=
  leBytes 1 kind ++ leBytes 1 flags ++ leBytes 1 slot ++ leBytes 1 reason ++ leBytes 4 step ++ leBytes 8 tag ++
    leBytes 2 len ++ leBytes 2 entries ++ leBytes 2 stm ++ leBytes 2 0 ++ leBytes 8 cap ++ leBytes 8 t ++ zeros 24

/-- Bytes between two records of the logit ring. -/
def Batch.recSize (x : Batch) : Nat := 64 * cdiv (64 + 8 * x.topK) 64

/-- A LEFT record; its commit time is set when it is written. -/
def leftRec (slot reason step : Nat) (q : SeqSlot) : List Byte := logitRec 3 0 slot reason step q.tag q.len 0 q.stm q.cap 0

/-- Writes a step's records to the logit ring with the time of the commit, advances DB_CPL_PROD and sends MSI-X (R351). -/
def logitWrite (s : State) (b : Nat) (l : List (List Byte)) : State :=
  let x := batch s b
  let n := x.ctx
  let size := 2 ^ byteAt x.recd 0x39
  let prod := (ctx s n).cplProd.toNat
  let s := (List.range l.length).foldl (fun s k =>
    (unitWrite s (leAt x.recd 0x30 8 + (prod + k) % size * x.recSize) (putAt (l.getD k []) 0x20 (leBytes 8 (now s)))).1) s
  if l.isEmpty then s
  else msixReq (updCtx s n (fun c => { c with cplProd := c.cplProd + word l.length })) (leAt (ctx s n).recd 6 2)

/-- The TEXT record of a sequence that leaves (R368). -/
def textRec (b step reason : Nat) (q : SeqSlot) : List Byte :=
  let toks := q.hist.take 64
  recHead 4 0 (1 + cdiv (4 * toks.length) 64) q.stm 0 ++ leBytes 8 q.cap ++ leBytes 8 q.tag ++ leBytes 4 step ++
    leBytes 1 reason ++ leBytes 1 b ++ leBytes 2 toks.length ++ zeros 24 ++
    fitBytes (64 * cdiv (4 * toks.length) 64) (toks.flatMap (leBytes 4))

/-- Stages a TEXT record: the outlet of its stream's track set, or OUT_TEXT_DEFAULT's (R368). -/
def textStage (s : State) (stm : Nat) (r : List Byte) : State :=
  let x := trkSet s stm
  if stm != 0xFFFF && x.on then stageRec s (byteAt x.recd 0xE) r
  else
    let d := getR s 0x190 0x6008
    if bit d 31 then stageRec s (bits d 7 0) r else s

/-! ### Tokens (R343) -/

/-- The snapshot of the token table: an entry with the step of a slot's latest LOGITS record answers it. A returned token
that ends nothing joins the slot's token history. -/
def tokenSnap (s : State) (b : Nat) : State :=
  let x := batch s b
  let r := unitRead s (leAt x.recd 0x20 8) (16 * x.maxSeq)
  if !r.2.2 then r.1
  else
    updBatch r.1 b (fun x => { x with slots := x.slots.map (fun (q : Nat × SeqSlot) =>
      let e := (r.2.1.drop (16 * q.1)).take 16
      let tok := leAt e 4 4
      let fin := (byteAt e 8).testBit 0
      if q.2.logits != 0 && q.2.ans.isNone && leAt e 0 4 == q.2.lastStep % 2 ^ 32 then
        (q.1, { q.2 with ans := some (tok, fin),
                         hist := if fin || leAt x.recd 0xC 4 ≤ tok then q.2.hist else q.2.hist ++ [tok] })
      else q) })

/-- Every slot that received a LOGITS record in the last step has its answer, or needs none (R344). -/
def Batch.answered (x : Batch) : Bool :=
  x.slots.all (fun (q : Nat × SeqSlot) => q.2.lastStep != x.step || q.2.logits == 0 || q.2.last != 0 || q.2.ans.isSome)

/-! ### Planning (R345) -/

/-- REASON of a sequence that leaves at this planning, if it does. -/
def SeqSlot.leaves (q : SeqSlot) (vocab : Nat) : Option Nat :=
  if q.ended then some 7
  else if q.last != 0 then some q.last
  else
    match q.ans with
    | some (tok, fin) => if fin then some 0 else if vocab ≤ tok then some 3 else none
    | none => none

/-- Pages available to a context in a pool (R345, R438): how many successive class 3 ALLOCs the admission rule would grant
it, within its quota entry's limit and outside the reserves of the other entries. -/
def pagesAvail (s : State) (pn n : Nat) : Nat :=
  match pool s pn with
  | none => 0
  | some p =>
    if p.broken then 0
    else
      let ei := quotaIdx p.quota 1 n
      let keep := ((List.range p.quota.length).map (fun i =>
        match p.quota[i]? with
        | some f => if some i = ei || 3 < f.cls || f.space = 0 then 0 else f.reserve - quotaHeld s p f
        | none => 0)).sum
      let room := p.free - keep
      match ei.bind (fun i => p.quota[i]?) with
      | some e => if e.limit = 0 then room else min room (e.limit - quotaHeld s p e)
      | none => room

/-- One sequence leaves: its pages return, its LEFT and TEXT records are prepared, and its slot is free. -/
def seqLeave (s : State) (b slot reason step : Nat) : State :=
  let x := batch s b
  match tget x.slots slot with
  | none => s
  | some q =>
    let s := q.pages.foldl (fun s p => relBlock s p 1 x.ctx) s
    updBatch s b (fun x => { x with
      slots := tdel x.slots slot, left := x.left ++ [leftRec slot reason step q],
      texts := if (byteAt x.recd 0x3B).testBit 1 && reason ≤ 2 then x.texts ++ [(q.stm, textRec b step reason q)] else x.texts })

/-- Step 1: leaves in ascending slot order. -/
def planLeaves (s : State) (b step : Nat) : State :=
  let x := batch s b
  (tkeys x.slots).foldl (fun s k =>
    match tget (batch s b).slots k with
    | some q =>
      match q.leaves (leAt x.recd 0xC 4) with
      | some r => seqLeave s b k r step
      | none => s
    | none => s) s

/-- Inserts a slot into a list ordered by age: earliest join step, then lowest slot. -/
def ageInsert (k : Nat × Nat) : List (Nat × Nat) → List (Nat × Nat)
  | [] => [k]
  | x :: t => if k.1 < x.1 || (k.1 == x.1 && decide (k.2 < x.2)) then k :: x :: t else x :: ageInsert k t

/-- Occupied slots, oldest first. -/
def Batch.byAge (x : Batch) : List Nat :=
  ((x.slots.map (fun (q : Nat × SeqSlot) => (q.2.joinStep, q.1))).foldl (fun l k => ageInsert k l) []).map (·.2)

/-- Changes a slot. -/
def updSlot (s : State) (b k : Nat) (f : SeqSlot → SeqSlot) : State := updBatch s b (fun x => { x with slots := tmod x.slots k f })

/-- Step 2: growth, oldest first. Answers whether a sequence parked. -/
def planGrow (s : State) (b : Nat) : State × Bool :=
  let x := batch s b
  x.byAge.foldl (fun (acc : State × Bool) k =>
    match tget (batch acc.1 b).slots k with
    | none => acc
    | some q =>
      if q.ans.isNone then
        (bumpR (updSlot acc.1 b k (fun q => { q with wait := true })) 0x190 (seqbOfs b 0x2C) 1, acc.2)
      else
        let run := fun (s : State) (pg : List Nat) =>
          updBatch (updSlot s b k (fun q => { q with
            pages := q.pages ++ pg, wait := false, parked := false, newPark := false,
            resumed := q.resumed || (q.parked && !q.newPark) })) b
            (fun x => { x with rows := x.rows ++ [⟨k, false⟩] })
        if q.len % x.pageTok != 0 || q.len < q.pages.length * x.pageTok then (run acc.1 [], acc.2)
        else
          let park := fun (s : State) =>
            let s := if q.parked then s else bumpR s 0x190 (seqbOfs b 0x24) 1
            updSlot s b k (fun q => { q with wait := false, parked := true, newPark := q.newPark || !q.parked })
          if acc.2 then (park acc.1, true)
          else
            match takeBlocks acc.1 x.kvPool x.ctx 3 1 with
            | (s, some l) => (run s l, false)
            | (s, none) => (park s, true)) (s, false)

/-- A join entry keeps Table 14-2. -/
def joinOk (x : Batch) (e : List Byte) : Bool :=
  let pl := leAt e 0x10 2
  leAt e 8 8 % 64 == 0 && inR pl 1 (leAt x.recd 0xA 2) && inR (leAt e 0x12 2) 1 (x.maxLen - pl) &&
    (leAt e 0x14 2 < 1024 || leAt e 0x14 2 == 0xFFFF) && zeroAt e 0x16 2 && zeroAt e 0x20 32

/-- The summed prompt tokens of the joins planned. -/
def Batch.prefill (x : Batch) : Nat :=
  ((x.rows.filter (·.join)).map (fun r => match tget x.slots r.slot with
    | some q => q.plen
    | none => 0)).sum

/-- Join entries in the ring. -/
def joinsWaiting (s : State) (x : Batch) : Nat := (clv s (byteAt x.recd 0x3A) - word x.joinCons).toNat

/-- Step 3: admits joins in ring order; `k` bounds the entries looked at. Answers whether a join was refused. -/
def planJoins (b step : Nat) : Nat → State → State × Bool
  | 0, s => (s, false)
  | k + 1, s =>
    let x := batch s b
    if joinsWaiting s x = 0 then (s, false)
    else
      let r := unitRead s (leAt x.recd 0x28 8 + 64 * (x.joinCons % 2 ^ byteAt x.recd 0x38)) 64
      let e := r.2.1
      if !joinOk x e then
        if 16 ≤ x.rejects.length then (r.1, false)
        else
          let rec' := logitRec 1 0 0xFF 6 step (leAt e 0 8) 0 0 (leAt e 0x14 2) (leAt e 0x18 8) 0
          planJoins b step k (updBatch r.1 b (fun x => { x with joinCons := x.joinCons + 1, rejects := x.rejects ++ [rec'] }))
      else
        let pl := leAt e 0x10 2
        let need := cdiv pl x.pageTok
        match (List.range x.maxSeq).find? (fun i => (tget x.slots i).isNone) with
        | none => (r.1, true)
        | some slot =>
          if x.lastCap.1 < x.rows.length + 1 || x.lastCap.2 < x.prefill + pl ||
              pagesAvail r.1 x.kvPool x.ctx < need + leAt x.recd 0x16 2 then (r.1, true)
          else
            match takeBlocks r.1 x.kvPool x.ctx 3 need with
            | (s, none) => (s, true)
            | (s, some pg) =>
              let q : SeqSlot := { tag := leAt e 0 8, prompt := leAt e 8 8, plen := pl, maxNew := leAt e 0x12 2,
                                   stm := leAt e 0x14 2, cap := leAt e 0x18 8, joinStep := step, pages := pg }
              planJoins b step k (updBatch s b (fun x => { x with
                joinCons := x.joinCons + 1, slots := tset x.slots slot q, rows := x.rows ++ [⟨slot, true⟩] }))

/-- Steps 2 and 3, with R346: while every occupied slot is parked and STALL_END is set, the youngest leaves and planning
repeats from growth. A step with a join refused is counted once; `refused` says that it was. -/
def planRest (b step : Nat) (refused : Bool) : Nat → State → State
  | 0, s => s
  | k + 1, s =>
    let r := planGrow (updBatch s b (fun x => { x with rows := [] })) b
    let q := if r.2 then (r.1, joinsWaiting r.1 (batch r.1 b) != 0) else planJoins b step 2048 r.1
    let s := if q.2 && !refused then bumpR q.1 0x190 (seqbOfs b 0x28) 1 else q.1
    let x := batch s b
    if x.rows.isEmpty && x.left.isEmpty && !x.slots.isEmpty && x.slots.all (fun (q : Nat × SeqSlot) => q.2.parked) &&
        (byteAt x.recd 0x3B).testBit 0 then
      match x.byAge.getLast? with
      | some y => planRest b step (refused || q.2) k (bumpR (seqLeave s b y 4 step) 0x190 (seqbOfs b 0x30) 1)
      | none => s
    else s

/-! ### The plan block (Tables 14-3 and 14-4) -/

/-- A row entry. -/
def rowEntry (x : Batch) (tabOfs : Nat → Nat) (pre : Nat) (r : BRow) : List Byte :=
  match tget x.slots r.slot with
  | none => zeros 32
  | some q =>
    let tok := match q.ans with
      | some a => a.1
      | none => 0
    leBytes 1 r.slot ++ leBytes 1 (b2n r.join) ++ leBytes 2 (if r.join then 0 else q.len) ++
      leBytes 4 (if r.join then q.plen else tok) ++ leBytes 8 (if r.join then q.prompt else 0) ++ leBytes 4 (tabOfs r.slot) ++
      leBytes 4 (if r.join then pre else 0) ++ zeros 8

/-- Row entries with the running count of prompt rows. -/
def rowEntries (x : Batch) (tabOfs : Nat → Nat) : Nat → List BRow → List Byte
  | _, [] => []
  | pre, r :: t =>
    let pl := match tget x.slots r.slot with
      | some q => if r.join then q.plen else 0
      | none => 0
    rowEntry x tabOfs pre r ++ rowEntries x tabOfs (pre + pl) t

/-- The plan of a step. -/
def planBytes (x : Batch) (step listRows : Nat) : List Byte :=
  let mp := x.maxPages
  let tabs := 0x2040 + 256 * x.maxSeq
  let tabOfs := fun (k : Nat) => tabs + 8 * mp * k
  let pad := leBytes 1 0xFF ++ leBytes 1 2 ++ zeros 14 ++ leBytes 4 (tabOfs x.maxSeq) ++ zeros 12
  leBytes 4 step ++ leBytes 2 x.rows.length ++ leBytes 2 listRows ++ leBytes 2 (x.rows.filter (·.join)).length ++
    leBytes 2 x.pageTok ++ leBytes 4 x.prefill ++ leBytes 4 (leAt x.recd 0x10 4) ++ leBytes 1 x.topK ++ zeros 43 ++
    rowEntries x tabOfs 0 x.rows ++ (List.range (256 - x.rows.length)).flatMap (fun _ => pad) ++
    (List.range x.maxSeq).flatMap (fun k => fitBytes 256 (match tget x.slots k with
      | some q => (q.hist.take 64).flatMap (leBytes 4)
      | none => [])) ++
    (List.range (x.maxSeq + 1)).flatMap (fun k => (List.range mp).flatMap (fun i => leBytes 8 (match tget x.slots k with
      | some q => q.pages.getD i x.null
      | none => x.null)))

/-- The invocation of a step (R348). -/
def stepInv (x : Batch) (b step k t seqNo : Nat) : Inv :=
  let e := (x.lists.drop (32 * k)).take 32
  { recd := e.take 16 ++ leBytes 8 step ++ leBytes 2 0xFFFF ++ zeros 38, arrival := t, ring := false, special := 1, owner := b,
    seq := seqNo }

/-- The first list whose bounds cover the step. -/
def Batch.listFor (x : Batch) : Nat :=
  ((List.range x.listN).find? (fun k => x.rows.length ≤ (x.listCap k).1 && x.prefill ≤ (x.listCap k).2)).getD (x.listN - 1)

/-- Free entries of the logit ring. -/
def logitFree (s : State) (x : Batch) : Nat :=
  2 ^ byteAt x.recd 0x39 - ((ctx s x.ctx).cplProd - (ctx s x.ctx).cplCons).toNat

/-- The join ring has overrun: FAULT_SEQ_ILLEGAL on the context, and the batch is FAULTED (R342). -/
def joinCheck (s : State) (b : Nat) : State :=
  let x := batch s b
  if x.st = 0 || x.st = 6 || joinsWaiting s x ≤ 2 ^ byteAt x.recd 0x38 then s
  else ctxFault (updBatch s b (fun x => { x with st := 6 })) x.ctx 0x13 0x190 0

/-- STEP_PLAN (R344-R348): at the first moment that the conditions of R344 hold, the step is planned, its plan written
and its invocation queued. A planning with no rows and no leave changes nothing, unless it is a stall. -/
def stepPlan (s0 : State) (b : Nat) : State :=
  let x0 := batch s0 b
  let n := x0.ctx
  if !(x0.st = 1 || x0.st = 2) || (ctx s0 n).st != .idle || !ready s0 0x190 then s0
  else if logitFree s0 x0 < 2 * x0.maxSeq + 16 then
    if x0.full then s0 else bumpR (updBatch s0 b (fun x => { x with full := true })) 0x190 0x138 1
  else
    let s := joinCheck (tokenSnap (updBatch s0 b (fun x => { x with full := false })) b) b
    let x := batch s b
    if x.st = 6 then s
    else if !x.cadOver || !(x.tokOver || x.answered) then s0
    else
      let step := x.step + 1
      let s := updBatch s b (fun x => { x with rows := [], left := [], rejects := [], texts := [], joinFrom := x.joinCons })
      let s := planRest b step false 257 (planLeaves s b step)
      let x := batch s b
      let fin := fun (s : State) => updBatch s b (fun x => { x with
        parkedN := (x.slots.filter (fun (q : Nat × SeqSlot) => q.2.parked)).length,
        waitN := (x.slots.filter (fun (q : Nat × SeqSlot) => q.2.wait)).length,
        slots := x.slots.map (fun (q : Nat × SeqSlot) =>
          (q.1, { q.2 with parkSteps := q.2.parkSteps + b2n q.2.parked })) })
      if x.rows.isEmpty && x.left.isEmpty then
        if !x.slots.isEmpty && x.slots.all (fun (q : Nat × SeqSlot) => q.2.parked) then
          fin (updBatch s b (fun x => { x with st := 5 }))
        else s0
      else
        let k := x.listFor
        let s := (unitWrite s x.plan (planBytes x step (x.listCap k).1)).1
        let q := seqNext s n
        let s := updCtx q.1 n (fun c => { c with queue := c.queue ++ [stepInv x b step k (now s) q.2] })
        ctxWake (fin (updBatch s b (fun x => { x with
          st := 3, startAt := now s, rowsN := x.rows.length, cadOver := leAt x.recd 0x3E 2 == 0 }))) n

/-- STEP_PLAN. -/
def execStepPlan (b : Nat) (s : State) : Host.Outcome State Fault Refusal := .next (if b < 64 then stepPlan s b else s)

/-- TOKEN_POLL (R343): the table is read; the join count is checked; a stalled batch for which a page has become available
plans again (R346). -/
def tokenPoll (s : State) (b : Nat) : State :=
  let x := batch s b
  if !(x.st = 1 || x.st = 2 || x.st = 5) then s
  else
    let s := joinCheck (tokenSnap s b) b
    let x := batch s b
    if x.st = 5 && 1 ≤ pagesAvail s x.kvPool x.ctx then updBatch s b (fun x => { x with st := 2 }) else s

/-- TOKEN_POLL. -/
def execTokenPoll (b : Nat) (s : State) : Host.Outcome State Fault Refusal := .next (if b < 64 then tokenPoll s b else s)

/-- TOKEN_WAIT_EXPIRY: [commit, + TOKEN_WAIT_US) has ended. -/
def execTokenWaitExpiry (b : Nat) (s : State) : Host.Outcome State Fault Refusal :=
  let x := batch s b
  .next (if x.st != 0 && x.commitAt + leAt x.recd 0x3C 2 * Config.tUs ≤ now s then
    updBatch s b (fun x => { x with tokOver := true }) else s)

/-- STEP_CADENCE_EXPIRY: CADENCE_US have passed since the start of the last step. -/
def execStepCadenceExpiry (b : Nat) (s : State) : Host.Outcome State Fault Refusal :=
  let x := batch s b
  .next (if x.st != 0 && x.startAt + leAt x.recd 0x3E 2 * Config.tUs ≤ now s then
    updBatch s b (fun x => { x with cadOver := true }) else s)

/-! ### Commit, discard and close (R351-R353) -/

/-- BATCH_CLOSE takes effect: occupied slots leave with REASON 5, and the blocks return. -/
def batchEnd (s : State) (b : Nat) : State :=
  let x := batch s b
  let n := x.ctx
  let s := updBatch s b (fun x => { x with left := [], texts := [] })
  let s := (tkeys x.slots).foldl (fun s k => seqLeave s b k 5 x.step) s
  let l := (batch s b).left
  let s := bumpR (logitWrite s b l) 0x190 (seqbOfs b 0x34) l.length
  let s := relBlock (relBlock (relBlock s x.plan 1 n) x.out 1 n) x.null 1 n
  updBatch s b (fun y => { stepMax := y.stepMax, step := y.step })

/-- A BATCH_CLOSE that waited for the step in flight is carried out. -/
def batchClosing (s : State) (b : Nat) : State :=
  match (batch s b).closing with
  | none => s
  | some tag => portResult (batchEnd s b) .car tag 1 0

/-- One continuing or joined row at commit: the new length, and its LOGITS record with the output block's entries. -/
def rowCommit (s : State) (x : Batch) (step r : Nat) (row : BRow) (q : SeqSlot) : SeqSlot × List Byte :=
  let len := if row.join then q.plen else q.len + 1
  let k := q.logits + 1
  let last := if len = x.maxLen then 2 else if k = q.maxNew then 1 else 0
  let ent := rdMem s (x.out + r * 8 * x.topK) (8 * x.topK)
  ({ q with len := len, logits := k, lastStep := step, last := last, ans := none, resumed := false, newPark := false },
   logitRec 0 (b2n (last != 0) + 2 * b2n row.join + 4 * b2n q.resumed) row.slot last step q.tag len x.topK q.stm q.cap 0 ++ ent)

/-- A step commits (R351). -/
def batchCommit (s : State) (b : Nat) : State :=
  let x := batch s b
  let step := x.step + 1
  let r := (List.range x.rows.length).foldl (fun (acc : Batch × List (List Byte)) k =>
    let row := x.rows.getD k ⟨0, false⟩
    match tget acc.1.slots row.slot with
    | none => acc
    | some q =>
      let c := rowCommit s x step k row q
      ({ acc.1 with slots := tset acc.1.slots row.slot c.1 }, acc.2 ++ [c.2])) (x, [])
  let parks := (x.slots.filter (fun (q : Nat × SeqSlot) => q.2.newPark)).map (fun (q : Nat × SeqSlot) =>
    logitRec 2 0 q.1 0 step q.2.tag q.2.len 0 q.2.stm q.2.cap 0)
  let s := updBatch s b (fun _ => { r.1 with
    slots := r.1.slots.map (fun (q : Nat × SeqSlot) => (q.1, { q.2 with newPark := false })),
    st := 1, step := step, commitAt := now s, tokOver := r.2.isEmpty, left := [], rejects := [], rows := [], texts := [],
    stepMax := max x.stepMax (now s - x.startAt) })
  let s := logitWrite s b (x.left ++ x.rejects ++ parks ++ r.2)
  let s := x.texts.foldl (fun s t => textStage s t.1 t.2) s
  let s := bumpR s 0x190 (seqbOfs b 0x20) 1
  let s := bumpR s 0x190 (seqbOfs b 0x34) x.left.length
  batchClosing (bumpR s 0x190 (seqbOfs b 0x38) x.rejects.length) b

/-- A step is discarded (R352): joins return to the ring, pages taken at growth and leaves stand. -/
def batchDiscard (s : State) (b code : Nat) (resume : Bool) : State :=
  let x := batch s b
  let step := x.step + 1
  let s := (x.rows.filter (·.join)).foldl (fun s r =>
    match tget (batch s b).slots r.slot with
    | some q => updBatch (q.pages.foldl (fun s p => relBlock s p 1 x.ctx) s) b (fun y => { y with slots := tdel y.slots r.slot })
    | none => s) s
  let s := updBatch s b (fun y => { y with
    slots := y.slots.map (fun (q : Nat × SeqSlot) => (q.1, { q.2 with newPark := false, parked := q.2.parked && !q.2.newPark })),
    st := if resume then 1 else 6, joinCons := y.joinFrom, left := [], rejects := [], rows := [], texts := [] })
  let s := logitWrite s b (x.left ++ [logitRec 4 0 0xFF code step 0 0 0 0xFFFF 0 0])
  let s := x.texts.foldl (fun s t => textStage s t.1 t.2) s
  let s := bumpR s 0x190 (seqbOfs b 0x34) x.left.length
  batchClosing (bumpR s 0x190 (seqbOfs b 0x3C) 1) b

/-- BATCH_CLOSE (R353): at once when no step is in flight, else once it has ended. -/
def opBatchClose : POp := fun b _ tag s =>
  let x := batch s b
  if 64 ≤ b then illegal s 0
  else if x.st = 0 then refuse s 5 0
  else if x.st = 3 then (updBatch s b (fun x => { x with closing := some tag }), 0xF, 0)
  else done (batchEnd s b)

/-- SEQ_READ (Table 14-11). -/
def opSeqRead : POp := fun b o _ s =>
  let x := batch s b
  if 64 ≤ b then illegal s 0
  else
    match tget x.slots (byteAt o 0) with
    | none => refuse s 5 0
    | some q =>
      let st := if q.ended || q.last != 0 then 4 else if q.parked then 3 else if q.wait then 2 else 1
      done (portStatus s .car (leBytes 1 st ++ zeros 1 ++ leBytes 2 q.len ++ leBytes 4 q.joinStep ++ leBytes 2 q.logits ++
        leBytes 2 q.pages.length ++ leBytes 4 q.parkSteps ++ leBytes 8 q.tag ++ leBytes 2 q.stm ++ zeros 38))

/-- SEQ_END marks a slot to leave at the next planning; a stalled batch plans again (Table 14-9). -/
def opSeqEnd : POp := fun b o _ s =>
  let x := batch s b
  if 64 ≤ b then illegal s 0
  else if (tget x.slots (byteAt o 0)).isNone then refuse s 5 0
  else
    let s := updSlot s b (byteAt o 0) (fun q => { q with ended := true })
    done (if x.st = 5 then updBatch s b (fun x => { x with st := 2 }) else s)

/-- BATCH_OPEN. -/
def execBatchOpen (m : Master) (tag idx : Nat) (s : State) : Host.Outcome State Fault Refusal :=
  .next (portCmd .car m 0xA tag idx opBatchOpen s)

/-- BATCH_CLOSE. -/
def execBatchClose (m : Master) (tag idx : Nat) (s : State) : Host.Outcome State Fault Refusal :=
  .next (portCmd .car m 0xB tag idx opBatchClose s)

/-- SEQ_READ. -/
def execSeqRead (m : Master) (tag idx : Nat) (s : State) : Host.Outcome State Fault Refusal :=
  .next (portCmd .car m 0xC tag idx opSeqRead s)

/-- SEQ_END. -/
def execSeqEnd (m : Master) (tag idx : Nat) (s : State) : Host.Outcome State Fault Refusal :=
  .next (portCmd .car m 0xD tag idx opSeqEnd s)

end Sys2Proof.Machine
end

