-- ==== Sys2Proof/Machine/Rattle.lean ====
section
/-!
DEFINITION. Machine/Rattle.lean: the Rattle-10 function and its draws (R393-R400).
-/
namespace Sys2Proof.Machine

/-- Sum modulo 2^32. -/
def add32 (a b : Nat) : Nat := (a + b) % 2 ^ 32

/-- Left rotation of a 32-bit word. -/
def rotl32 (x k : Nat) : Nat := (x <<< k ||| x >>> (32 - k)) % 2 ^ 32

/-- One round of Rattle-10 on (x0, x1, x2, x3). -/
def rattleRound (k : List Nat) (r : Nat) (x : Nat × Nat × Nat × Nat) : Nat × Nat × Nat × Nat :=
  let a := add32 (k.getD (r % 3) 0) (r * 0x9E3779B9)
  let b := add32 (k.getD ((r + 1) % 3) 0) (r * 0xBB67AE85)
  let x0 := add32 (add32 x.1 x.2.1) a
  let x3 := rotl32 (x.2.2.2 ^^^ x0) 16
  let x2 := add32 (add32 x.2.2.1 x3) b
  let x1 := rotl32 (x.2.1 ^^^ x2) 12
  (x0, x1, x2, x3)

/-- The first `n` rounds. -/
def rattleRounds (k : List Nat) (x : Nat × Nat × Nat × Nat) : Nat → Nat × Nat × Nat × Nat
  | 0 => x
  | n + 1 => rattleRound k n (rattleRounds k x n)

/-- The 128-bit draw of a seed, stream and counter (R393). -/
def draw (seed stream ctr : Nat) : Nat :=
  let w := fun (n i : Nat) => (n >>> (32 * i)) % 2 ^ 32
  let x := rattleRounds [w seed 0, w seed 1, stream % 2 ^ 32] (w ctr 0, w ctr 1, w ctr 2, w ctr 3) 10
  x.1 + 2 ^ 32 * x.2.1 + 2 ^ 64 * x.2.2.1 + 2 ^ 96 * x.2.2.2

/-- The counter of element g of a call (R397). -/
def drawCtr (call g shift : Nat) : Nat := (call % 2 ^ 64) <<< 64 ||| (g % 2 ^ 64) >>> shift

/-- CALL of a step and site. -/
def callOf (step site : Nat) : Nat := (step <<< 16 ||| site) % 2 ^ 64

/-- The rounding value u of element g (R399, shift 4). -/
def drawU (seed stream call g : Nat) : Nat := (draw seed stream (drawCtr call g 4) >>> (8 * (g % 16))) % 256

/-- The 16-bit mask slice of element g (shift 3). -/
def drawMask (seed stream call g : Nat) : Nat := (draw seed stream (drawCtr call g 3) >>> (16 * (g % 8))) % 2 ^ 16

/-- The 32-bit value of element g (shift 2). -/
def drawW (seed stream call g : Nat) : Nat := (draw seed stream (drawCtr call g 2) >>> (32 * (g % 4))) % 2 ^ 32

/-- The binding block of a logical core and the site entry of scale entry e: SEED, STEP, TBASE, ORIGIN (R398), or the
fault that a stochastic conversion takes. -/
def binding (s : State) (n lc e : Nat) : State × Except Nat (Nat × Nat × Nat × Nat) :=
  match href s n lc 60 with
  | none => (s, .error 3)
  | some h =>
    if h.scr then (s, .error 3)
    else if h.ext < 0x50 + 16 * e then (s, .error 2)
    else
      let r := unitRead s h.base 16
      let t := unitRead r.1 (h.base + 0x40 + 16 * e) 16
      (t.1, .ok (leAt r.2.1 0 8, leAt r.2.1 8 8, leAt t.2.1 0 8, leAt t.2.1 8 8))

/-- G of a drained element at byte P and bit b, with elements of w bits (R398). -/
def drainG (tbase origin p b w : Nat) : Nat := (tbase + (8 * ((p + 2 ^ 64 - origin) % 2 ^ 64) + b) / w) % 2 ^ 64

end Sys2Proof.Machine
end

