-- ==== Sys2Proof/Machine/Adapt.lean ====
section
/-!
DEFINITION. Machine/Adapt.lean: Rattle's test port and the site-adaptation controller (R393, R402-R411, R563).
-/
namespace Sys2Proof.Machine

/-! ### The test port -/

/-- RNG_TEST_GO (R563): GO = 1 computes one block from the key and counter registers. -/
def rngTest (s : State) : State :=
  let seed := (getR s 0x1D0 0x100).toNat + 2 ^ 32 * (getR s 0x1D0 0x104).toNat
  let ctr := leNat (getRec s 0x1D0 0x110 4)
  bump (putRec s 0x1D0 0x130 (leBytes 16 (draw seed (getR s 0x1D0 0x108).toNat ctr))) 0x1D0 0

/-- A write of RNG_TEST_GO. -/
def rngGoWrite (s : State) (v : Word) : State := if bit v 0 then rngTest s else s

/-- RNG_TEST_GO. -/
def execRngTestGo (m : Master) (v : Word) (s : State) : Host.Outcome State Fault Refusal :=
  .next (guarded m 0x1D0 0x120 s (fun s => rngGoWrite s v))

/-! ### The job record (Table 17-5) -/

/-- A job. -/
def ajob (s : State) (j : Nat) : AJob := tgetD s.ajobs j {}

/-- Changes a job. -/
def updAJob (s : State) (j : Nat) (f : AJob → AJob) : State := { s with ajobs := tset s.ajobs j (f (ajob s j)) }

/-- STM. -/
def AJob.stm (x : AJob) : Nat := leAt x.recd 2 2
/-- N_SAMPLES. -/
def AJob.samples (x : AJob) : Nat := leAt x.recd 4 4
/-- BATCH. -/
def AJob.batch (x : AJob) : Nat := leAt x.recd 0x34 2
/-- PACK_LEN. -/
def AJob.packLen (x : AJob) : Nat := leAt x.recd 0x36 2
/-- AUG_N. -/
def AJob.augN (x : AJob) : Nat := byteAt x.recd 0x3A
/-- GRAD_E4M3. -/
def AJob.gradE4m3 (x : AJob) : Bool := (byteAt x.recd 0x3B).testBit 0
/-- Records of the log ring. -/
def AJob.logSize (x : AJob) : Nat := 2 ^ byteAt x.recd 0x3C
/-- Bytes of a step block. -/
def AJob.blkBytes (x : AJob) : Nat := 64 + x.batch * (64 + 4 * x.augN) + x.batch * x.packLen * 8
/-- The first illegal field of a job record, in offset order (R403). -/
def adaptBad (s : State) (o : List Byte) : Option Nat :=
  let x : AJob := { recd := o }
  let scaleN := leAt (tgetD s.models (leAt (ctx s x.ctx).recd 4 2) []) 2 2
  let stmOk := x.stm = 0xFFFF || (x.stm < 1024 && (stm s x.stm).st != 0 && (stm s x.stm).host && (stm s x.stm).adapt)
  let poolOk := match pool s (byteAt o 0x3D) with
    | some p => x.blkBytes ≤ p.bsize
    | none => false
  (([(!inR x.ctx 1 4095, 0), (!stmOk, 2), (!inR x.samples 1 16777216, 4), (leAt o 8 8 % 64 != 0, 8),
    (leAt o 0x20 8 % 64 != 0, 0x20), (leAt o 0x30 4 = 0, 0x30), (!inR x.batch 1 1024, 0x34),
    (x.packLen != 0 && (!inR x.packLen 16 4096 || x.packLen % 16 != 0), 0x36),
    (leAt o 0x38 2 % 64 != 0 || leAt o 0x38 2 < 64 + 16 * scaleN, 0x38), (64 < x.augN, 0x3A), (1 < byteAt o 0x3B, 0x3B),
    (!inR (byteAt o 0x3C) 6 16, 0x3C), (63 < byteAt o 0x3D || !poolOk, 0x3D)] : List (Bool × Nat)).find? (·.1)).map (·.2)

/-! ### Conditions of a step (R404) -/

/-- The present local minute of the day (R71): TAI since the PTP epoch, less leap seconds, plus UTC_OFFSET_MIN. -/
def localMinute (s : State) : Nat :=
  ((((now s / Config.tSec : Nat) : Int) - (s.life.leap : Int) + 60 * sext 16 (profF s 0x11C 2 0)) / 60 % 1440).toNat

/-- The local minute lies in [ADAPT_START_MIN, + ADAPT_LEN_MIN), which may cross midnight. -/
def inWindow (s : State) : Bool := decide ((localMinute s + 1440 - profF s 0x118 2 60) % 1440 < profF s 0x11A 2 0)

/-- No Gong ride-through, shedding or orderly stop is in progress. -/
def gongQuiet (s : State) : Bool := bits (getR s 0x1B0 0x108) 31 28 == 0 && s.gong.shed.all (fun (q : Nat × Nat) => q.2 == 0)

/-- Free records of a job's log ring. -/
def logFree (s : State) (j : Nat) : Nat :=
  (ajob s j).logSize - (getR s 0x1D0 (0x208 + 0x10 * j) - getR s 0x1D0 (0x20C + 0x10 * j)).toNat

/-- The log ring has BATCH + 2 free records. -/
def logRoom (s : State) (j : Nat) : Bool := decide ((ajob s j).batch + 2 ≤ logFree s j)

/-- R404 holds. -/
def adaptMay (s : State) (j : Nat) : Bool := inWindow s && gongQuiet s && logRoom s j

/-- A job without its conditions is HELD; a wait for log space is counted once. -/
def adaptHold (s : State) (j : Nat) : State :=
  let wait := !logRoom s j
  let s := if wait && !(ajob s j).spaceWait then bump s 0x1D0 7 else s
  updAJob s j (fun x => { x with st := 2, spaceWait := wait })

/-! ### The log (Table 17-8) -/

/-- Writes one log record. -/
def adaptLog (s : State) (j kind cause flags pos step a b : Nat) : State :=
  let ofs := 0x208 + 0x10 * j
  let prod := getR s 0x1D0 ofs
  let r := leBytes 1 kind ++ leBytes 1 cause ++ leBytes 1 flags ++ zeros 1 ++ leBytes 2 pos ++ zeros 2 ++ leBytes 8 step ++
    leBytes 4 a ++ leBytes 4 b ++ leBytes 8 (now s)
  putR (unitWrite s (leAt (ajob s j).recd 0x20 8 + prod.toNat % (ajob s j).logSize * 32) r).1 0x1D0 ofs (prod + 1)

/-! ### Loading the samples of a step (R405-R407) -/

/-- The index of an empty position. -/
def noIndex : Nat := 0xFFFFFFFF

/-- A sample entry keeps Table 17-4. -/
def sampleOk (s : State) (x : AJob) (e : List Byte) : Bool :=
  let kind := byteAt e 0
  kind ≤ 2 && zeroAt e 1 1 && zeroAt e 0x1C 4 && leAt e 0x18 4 ≤ 1048576 &&
    (if kind = 2 then inR (leAt e 2 2) 1 x.packLen else leAt e 2 2 == 0) &&
    (if kind = 0 then x.stm != 0xFFFF && inR (leAt e 4 4) 1 (leAt (stm s x.stm).recd 0x18 2 * 1024) else leAt e 4 4 == 0)

/-- Changes a position of the step being loaded. -/
def updPos (s : State) (j k : Nat) (f : APos → APos) : State :=
  updAJob s j (fun x => { x with pos := (List.range x.pos.length).map (fun i =>
    let p := x.pos.getD i { orig := 0, idx := 0 }
    if i = k then f p else p) })

/-- The next index after `i` that is neither in the step nor failed in it, with the tries made; the last argument counts
the indices that may be looked at. -/
def nextIndex (n : Nat) (used : List Nat) : Nat → Nat → Nat → Option (Nat × Nat)
  | _, _, 0 => none
  | i, tries, k + 1 =>
    if n ≤ tries + 1 then none
    else
      let c := (i + 1) % n
      if used.contains c then nextIndex n used c (tries + 1) k else some (c, tries + 1)

/-- A position's sample has failed: its substitute is tried next, or the position stays empty (R406). A replayed
substitute that fails has diverged (R407). -/
def posFail (s : State) (j k cause : Nat) : State :=
  let x := ajob s j
  let p := x.pos.getD k { orig := 0, idx := 0 }
  let failed := p.idx :: x.failed
  let used := failed ++ (x.pos.filter (fun q => q.st != 3)).map (·.idx)
  let p := { p with cause := if p.cause = 0 then cause else p.cause,
                    flags := if p.flags = 0 then 0 else 3, ent := [], pic := 0, map := 0 }
  let s := updAJob s j (fun x => { x with failed := failed })
  match nextIndex x.samples used p.idx p.tried (used.length + 1) with
  | some (i, t) => updPos s j k (fun _ => { p with idx := i, tried := t, st := 0 })
  | none => updPos s j k (fun _ => { p with idx := noIndex, st := 3 })

/-- Loads one position: the entry is checked; a KIND 0 sample is submitted to the stream while its queue has room; other
kinds are read in place (Table 17-6). A failing sample is substituted at once; the last argument bounds the tries. -/
def posLoad (j k : Nat) : Nat → State → State
  | 0, s => s
  | fuel + 1, s =>
    let x := ajob s j
    let p := x.pos.getD k { orig := 0, idx := 0, st := 3 }
    if p.st != 0 then s
    else
      let r := unitRead s (leAt x.recd 8 8 + 32 * p.idx) 32
      let e := r.2.1
      let s := r.1
      if !r.2.2 || !sampleOk s x e then posLoad j k fuel (posFail s j k 4)
      else if byteAt e 0 = 0 then
        if (stm s x.stm).st = 0 then posLoad j k fuel (posFail s j k 3)
        else if 16 ≤ (stm s x.stm).queue.length then s
        else
          let s := updPos s j k (fun p => { p with st := 1, ent := e })
          auQueue s x.stm { addr := leAt e 8 8, len := leAt e 4 4, stamp := 0, entry := now s, sample := p.idx }
      else updPos s j k (fun p => { p with st := 2, ent := e })

/-- Loads every position that is still to be loaded, in order. -/
def loadAll (s : State) (j : Nat) : State :=
  forN (ajob s j).pos.length (fun k s => posLoad j k ((ajob s j).samples + 1) s) s

/-- The substitution records of the replayed log, of one step: position, substitute, cause (R407). The replayed ring is
taken to have the size of the job's own. -/
def replayRecs (s : State) (x : AJob) (step : Nat) : State × List (Nat × Nat × Nat) :=
  if leAt x.recd 0x28 8 = 0 then (s, [])
  else
    let r := unitRead s (leAt x.recd 0x28 8) (32 * x.logSize)
    (r.1, ((List.range x.logSize).map (fun k => (r.2.1.drop (32 * k)).take 32)).filterMap (fun e =>
      if byteAt e 0 = 1 && leAt e 8 8 = step then some (leAt e 4 2, leAt e 0x14 4, byteAt e 1) else none))

/-- Begins the load of a step: its positions in table order, with the replayed substitutions applied (R402, R407). -/
def loadStart (s : State) (j step : Nat) : State :=
  let x := ajob s j
  if x.loading || leAt x.recd 0x30 4 ≤ step then s
  else
    let r := replayRecs s x step
    let pos := (List.range x.batch).map (fun (k : Nat) =>
      let i := (step * x.batch + k) % x.samples
      match r.2.find? (fun (q : Nat × Nat × Nat) => q.1 == k) with
      | some (_, sub, cause) =>
        ({ orig := i, idx := sub, st := if sub = noIndex then 3 else 0, tried := (sub + x.samples - i) % x.samples,
           cause := cause, flags := 1 } : APos)
      | none => { orig := i, idx := i })
    loadAll (updAJob r.1 j (fun x => { x with pos := pos, loading := true, loadStep := step, failed := [] })) j

/-- Releases the picture claims of loaded positions. -/
def posRelease (s : State) (l : List APos) : State :=
  l.foldl (fun s p => if p.pic = 0 then s else relBlock (relBlock s p.pic 4 6) p.map 4 6) s

/-- A load is discarded: its claims are released and nothing is logged (R405). -/
def loadDrop (s : State) (j : Nat) : State :=
  let x := ajob s j
  if !x.loading then s else posRelease (updAJob s j (fun x => { x with loading := false, pos := [], failed := [] })) x.pos

/-- The job and position that await the result of a submitted sample. -/
def posAwaiting (s : State) (r : AdIn) : Option (Nat × Nat) :=
  ((s.ajobs.filter (fun (q : Nat × AJob) => q.2.loading && q.2.stm == r.stm)).filterMap (fun (q : Nat × AJob) =>
    ((List.range q.2.pos.length).find? (fun k =>
      let p := q.2.pos.getD k { orig := 0, idx := 0 }
      p.st == 1 && p.idx == r.sample)).map (fun k => (q.1, k)))).head?

/-- Takes what became of the submitted samples; a picture that no position awaits any more is released. -/
def takeResults (s : State) : State :=
  s.adaptIn.foldl (fun s r =>
    match posAwaiting s r with
    | some (j, k) =>
      if r.cause = 0 then updPos s j k (fun p => { p with st := 2, pic := r.pic, map := r.map }) else posFail s j k r.cause
    | none => if r.cause = 0 then relBlock (relBlock s r.pic 4 6) r.map 4 6 else s) { s with adaptIn := [] }

/-! ### The step block (R405, R408) -/

/-- Places of the packed samples: position, row, start, segment, entry (R408). -/
def packed (packLen : Nat) : List (Nat × APos) → Nat → Nat → Nat → List (Nat × Nat × Nat × Nat × List Byte)
  | [], _, _, _ => []
  | (k, p) :: t, row, used, seg =>
    if p.st = 2 && byteAt p.ent 0 = 2 then
      let len := leAt p.ent 2 2
      if used + len ≤ packLen then (k, row, used, seg, p.ent) :: packed packLen t row (used + len) (seg + 1)
      else (k, row + 1, 0, 1, p.ent) :: packed packLen t (row + 1) len 2
    else packed packLen t row used seg

/-- Tokens of one packed sample, 8 bytes each. -/
def packTokens (l : List Byte) (seg len : Nat) : List Byte :=
  (List.range len).flatMap (fun i => leBytes 4 (leAt l (4 * i) 4) ++ leBytes 2 seg ++ leBytes 2 i)

/-- One position's entry of the step block. -/
def stepEntry (x : AJob) (k : Nat) (p : APos) (place : Option (Nat × Nat × Nat × Nat × List Byte)) : List Byte :=
  let e := (x.loadStep * x.batch + k) / x.samples
  let kind := byteAt p.ent 0
  let at' := match place with
    | some (_, row, start, _, _) => (row, start)
    | none => (0, 0)
  leBytes 4 p.idx ++ leBytes 4 p.orig ++ leBytes 1 kind ++ leBytes 1 (b2n (p.idx != p.orig)) ++ leBytes 2 (leAt p.ent 2 2) ++
    leBytes 8 (if kind = 0 then p.pic else if kind = 1 then leAt p.ent 8 8 else 0) ++ leBytes 8 p.map ++
    leBytes 8 (leAt p.ent 0x10 8) ++ leBytes 4 (leAt p.ent 0x18 4) ++ leBytes 2 at'.1 ++ leBytes 2 at'.2 ++ zeros 20 ++
    (List.range x.augN).flatMap (fun g => leBytes 4 (if p.st = 3 then 0 else
      drawW (leAt x.recd 0x10 8) 1 ((e <<< 32 ||| p.idx) % 2 ^ 64) g))

/-- Writes the step block. -/
def stepFill (s : State) (j : Nat) : State :=
  let x := ajob s j
  let a := x.blks.getD (x.loadStep % 2) 0
  let l := packed x.packLen ((List.range x.pos.length).zip x.pos) 0 0 1
  let rows := match l.getLast? with
    | some q => q.2.1 + 1
    | none => 0
  let hdr := leBytes 8 x.loadStep ++ leBytes 4 (x.loadStep * x.batch / x.samples) ++ leBytes 2 x.batch ++ leBytes 2 rows ++ zeros 48
  let ents := ((List.range x.pos.length).zip x.pos).flatMap (fun (q : Nat × APos) =>
    stepEntry x q.1 q.2 (l.find? (fun (r : Nat × Nat × Nat × Nat × List Byte) => r.1 == q.1)))
  let s := (unitWrite s a (hdr ++ ents ++ zeros (rows * x.packLen * 8))).1
  let toks := a + 64 + x.batch * (64 + 4 * x.augN)
  l.foldl (fun s (q : Nat × Nat × Nat × Nat × List Byte) =>
    let len := leAt q.2.2.2.2 2 2
    let r := unitRead s (leAt q.2.2.2.2 8 8) (4 * len)
    (unitWrite r.1 (toks + 8 * (q.2.1 * x.packLen + q.2.2.1)) (packTokens r.2.1 q.2.2.2.1 len)).1) s

/-- Writes SEED and STEP into the binding block of each logical core of the template's list (Table 17-6). -/
def stepBind (s : State) (j : Nat) : State :=
  let x := ajob s j
  let t := unitRead s (leAt (ctx s x.ctx).recd 0x28 8) 64
  let h := unitRead t.1 (leAt t.2.1 0 8) 64
  forN (byteAt h.2.1 6) (fun n s =>
    (unitWrite s (leAt x.recd 0x18 8 + n * leAt x.recd 0x38 2) ((x.recd.drop 0x10).take 8 ++ leBytes 8 x.loadStep)).1) h.1

/-- Logs every substitution of the step that is queued, and counts it (R406, R407). -/
def logSubs (s : State) (j : Nat) : State :=
  let x := ajob s j
  (List.range x.pos.length).foldl (fun s k =>
    let p := x.pos.getD k { orig := 0, idx := 0 }
    if p.idx = p.orig then s
    else
      let s := adaptLog s j 1 p.cause p.flags k x.loadStep p.orig p.idx
      let s := updAJob (bump s 0x1D0 3) j (fun x => { x with subs := x.subs + 1 })
      let s := if p.flags.testBit 0 then bump s 0x1D0 5 else s
      if p.flags.testBit 1 then bump s 0x1D0 6 else s) s

/-- Queues the invocation of TEMPLATE for the step loaded. -/
def stepQueue (s : State) (j : Nat) : State :=
  let s := logSubs (stepBind (stepFill s j) j) j
  let n := (ajob s j).ctx
  let r := unitRead s (leAt (ctx s n).recd 0x28 8) 64
  let q := seqNext r.1 n
  let i : Inv := { recd := fitBytes 64 r.2.1, arrival := now s, ring := false, special := 2, owner := j, seq := q.2 }
  let s := updAJob q.1 j (fun x => { x with
    st := 1, run := true, runPos := x.pos, loading := false, pos := [], failed := [], spaceWait := false })
  ctxWake (updCtx s n (fun c => { c with queue := c.queue ++ [i] })) n

/-- What a job does next: it takes results, loads on, and when every position is final and the step before has committed
it queues the step, or discards the load and is HELD, which CNT4 counts as a start refused (R405). -/
def adaptGo (s : State) (j : Nat) : State :=
  let s := takeResults s
  let x := ajob s j
  if !(x.st = 1 || x.st = 2) || !x.loading then s
  else
    let s := loadAll s j
    let x := ajob s j
    if x.run || !x.pos.all (fun p => 2 ≤ p.st) then s
    else if adaptMay s j then stepQueue s j
    else bump (adaptHold (loadDrop s j) j) 0x1D0 4

/-- ADAPT_STEP_LOAD_DONE. -/
def execAdaptStepLoadDone (j : Nat) (s : State) : Host.Outcome State Fault Refusal := .next (if j < 4 then adaptGo s j else s)

/-- ADAPT_CONDITION_CHANGE (R404): between steps, a RUNNING job is HELD when a condition fails, and a HELD one resumes when
all hold. -/
def condChange (s : State) (j : Nat) : State :=
  let x := ajob s j
  if x.run then s
  else if x.st = 1 && !adaptMay s j then adaptHold s j
  else if x.st = 2 && adaptMay s j then
    loadStart (updAJob s j (fun x => { x with st := 1, spaceWait := false })) j x.step
  else s

/-- ADAPT_CONDITION_CHANGE. -/
def execAdaptConditionChange (j : Nat) (s : State) : Host.Outcome State Fault Refusal :=
  .next (if j < 4 then condChange s j else s)

/-! ### Stop, commit and discard (R405, R410) -/

/-- A transition into STOPPED or FAULTED: what is loaded is discarded, and a stop record written. -/
def adaptStop (s : State) (j st cause code : Nat) : State :=
  let s := loadDrop s j
  let tag := (ajob s j).stopReq
  let s := adaptLog (updAJob s j (fun x => { x with st := st, stop := cause, stopReq := none })) j 2 cause 0 0 (ajob s j).step code 0
  match tag with
  | some t => portResult s .adapt t 1 0
  | none => s

/-- The step's invocation ended with STATUS 0 (Table 17-6, Commit). -/
def adaptCommit (s : State) (j : Nat) : State :=
  let x := ajob s j
  if !x.run then s
  else
    let s := posRelease (updAJob s j (fun x => { x with run := false, runPos := [], step := x.step + 1 })) x.runPos
    let s := adaptLog (bump s 0x1D0 2) j 0 0 0 0 x.step (x.runPos.filter (fun p => p.st != 3)).length
      (x.runPos.filter (fun p => p.idx != p.orig)).length
    if leAt x.recd 0x30 4 ≤ x.step + 1 then adaptStop s j 3 1 0
    else if x.stopReq.isSome then adaptStop s j 3 2 0
    else adaptGo (loadStart s j (x.step + 1)) j

/-- The step's invocation ended with another STATUS: the step is discarded and the job is FAULTED. -/
def adaptDiscard (s : State) (j code : Nat) : State :=
  let x := ajob s j
  if !x.run then s
  else adaptStop (posRelease (updAJob s j (fun x => { x with run := false, runPos := [] })) x.runPos) j 4 3 code

/-! ### The port's operations (Table 17-9) -/

/-- ADAPT_OPEN (R403). A pool that cannot grant the two step blocks leaves the job closed with BUSY (log 38). -/
def opAdaptOpen : POp := fun j o _ s =>
  let o := o.take 64
  let n := leAt o 0 2
  let c := ctx s n
  if 4 ≤ j then illegal s 0
  else
    match adaptBad s o with
    | some f => illegal s f
    | none =>
      if (ajob s j).st != 0 then refuse s 4 0
      else if c.st != .idle || c.flag 1 || byteAt c.recd 0 != 3 || (batchOf s n).isSome || (jobOf s n).isSome then refuse s 0xC 0
      else
        match ketAlloc s (byteAt o 0x3D) 4 6 2 2 with
        | (s, .ok [a, b]) => done (loadStart (updAJob s j (fun _ => { st := 1, recd := o, blks := [a, b] })) j 0)
        | (s, _) => refuse s 0xC 0

/-- ADAPT_STOP (R410): at once between steps; a step that has started runs to its commit first (R404). -/
def opAdaptStop : POp := fun j _ tag s =>
  let x := ajob s j
  if 4 ≤ j then illegal s 0
  else if x.st = 0 then refuse s 5 0
  else if !(x.st = 1 || x.st = 2) then done s
  else if x.run then (updAJob s j (fun x => { x with stopReq := some tag }), 0xF, 0)
  else done (adaptStop s j 3 2 0)

/-- ADAPT_READ (R411). -/
def opAdaptRead : POp := fun j _ _ s =>
  let x := ajob s j
  if 4 ≤ j then illegal s 0
  else if x.st = 0 then refuse s 5 0
  else
    done (portStatus s .adapt (leBytes 1 x.st ++ zeros 3 ++ leBytes 8 x.step ++ leBytes 4 (x.step * x.batch / x.samples) ++
      leBytes 8 (x.step * x.batch) ++ leBytes 4 x.subs ++ leBytes 1 x.stop ++ zeros 35))

/-- ADAPT_CLOSE (Table 17-7): a RUNNING job stays as it is. -/
def opAdaptClose : POp := fun j _ _ s =>
  let x := ajob s j
  if 4 ≤ j then illegal s 0
  else if x.st = 0 then refuse s 5 0
  else if x.st = 1 || x.run then refuse s 0xC 0
  else
    let s := loadDrop s j
    done (x.blks.foldl (fun s a => relBlock s a 4 6) (updAJob s j (fun _ => {})))

/-- ADAPT_OPEN. -/
def execAdaptOpen (m : Master) (tag idx : Nat) (s : State) : Host.Outcome State Fault Refusal :=
  .next (portCmd .adapt m 1 tag idx opAdaptOpen s)

/-- ADAPT_STOP. -/
def execAdaptStop (m : Master) (tag idx : Nat) (s : State) : Host.Outcome State Fault Refusal :=
  .next (portCmd .adapt m 2 tag idx opAdaptStop s)

/-- ADAPT_READ. -/
def execAdaptRead (m : Master) (tag idx : Nat) (s : State) : Host.Outcome State Fault Refusal :=
  .next (portCmd .adapt m 3 tag idx opAdaptRead s)

/-- ADAPT_CLOSE. -/
def execAdaptClose (m : Master) (tag idx : Nat) (s : State) : Host.Outcome State Fault Refusal :=
  .next (portCmd .adapt m 4 tag idx opAdaptClose s)

end Sys2Proof.Machine
end

