-- ==== Sys2Proof/Machine/Passes.lean ====
section
/-!
DEFINITION. Machine/Passes.lean: matrix passes: operands, products, accumulation, shadow slots and checksums
(R160-R200, R231-R238, R255-R266).
-/
namespace Sys2Proof.Machine

/-! ### Elements (R190-R192) -/

/-- The value of an INT8 byte. -/
def int8 (b : Nat) : Fl := .ofInt (sext 8 b)

/-- Element of a byte in a one-byte format: 0 INT8, 2 E4M3, 3 E5M2. -/
def byteElem (fmt b : Nat) : Fl := if fmt = 0 then int8 b else if fmt = 2 then e4m3.dec b else e5m2.dec b

/-- Elements 0 to 31 of bytes in the low nibbles, 32 to 63 in the high ones (R192). -/
def nibbles (l : List Byte) : List Fl :=
  l.map (fun b => .ofInt (sext 4 (b.toNat % 16))) ++ l.map (fun b => .ofInt (sext 4 (b.toNat / 16)))

/-- BF16 elements of little-endian pairs. -/
def bf16s : List Byte → List Fl
  | a :: b :: t => bf16.dec (leNat [a, b]) :: bf16s t
  | _ => []

/-- A row of elements in a format of Table 08-2: INT8, INT4, E4M3, E5M2 or BF16. -/
def rowElems (fmt : Nat) (l : List Byte) : List Fl :=
  if fmt = 1 then nibbles l else if fmt = 4 then bf16s l else l.map (fun b => byteElem fmt b.toNat)

/-! ### Mode of a pass -/

/-- The operands of one pass. -/
structure Plan where
  mode : Nat                  -- 0 INT8, 1 INT4, 2 FP8, 3 BF16
  aFmt : Nat                  -- element format of the activations
  acc : Bool                  -- ACCUMULATE
  base : Nat
  m : Nat
  pack : Nat := 1
  nprob : Nat := 1            -- problems that this pass carries
  diag : Option (Nat × Nat × Nat) := none -- KW, DW, OUT_N (R264)
  bs : Nat := 0
  nside : Nat := 0
  side : Nat := 0             -- SIDE_BASE
  sIn : Nat := 0x3F800000
  deriving DecidableEq, Repr

/-- The mode in which a pass runs, its activation format and the offset field of its weights: a FOLLOW pass takes the
committed format of its activation handle (R214, R233). -/
def passMode (d : List Byte) (h : HRef) : Option (Nat × Nat × Bool) :=
  let m := byteAt d 9
  let x := byteAt d 0xA
  if m.testBit 3 then
    match h.fmt with
    | 0 => some (0, 0, false)
    | 1 => if m.testBit 4 then none else some (1, 1, false)
    | 2 => some (2, 2, true)
    | 3 => some (2, 3, true)
    | 4 => some (3, 4, false)
    | _ => none
  else
    match m % 4 with
    | 0 => some (0, 0, false)
    | 1 => some (1, 1, false)
    | 2 => some (2, if x.testBit 0 then 3 else 2, false)
    | _ => some (3, 4, false)

/-- Format of the weight entries: the narrow set's own format, E4M3 or E5M2 of the FP8 set (R201, R214). -/
def weightFmt (d : List Byte) (mode : Nat) : Nat :=
  let follow := (byteAt d 9).testBit 3
  if mode = 2 then (if (byteAt d 0xA).testBit 1 then 3 else 2)
  else if mode = 1 then 1
  else if mode = 3 && !follow && !(byteAt d 9).testBit 4 then 4
  else 0

/-- The weights are codes: FOLLOW's FP8 set holds entries (R201, R233). -/
def coded (d : List Byte) (mode : Nat) : Bool :=
  (byteAt d 9).testBit 4 && !((byteAt d 9).testBit 3 && mode == 2)

/-- Bytes of a weight set. -/
def setBytes (d : List Byte) (mode : Nat) : Nat :=
  if coded d mode then (if (byteAt d 9).testBit 5 then 8192 else 4096)
  else if weightFmt d mode = 4 then 16384 else 8192

/-- Bytes of the eight code tables. -/
def tblBytes (d : List Byte) : Nat := if (byteAt d 9).testBit 5 then 2048 else 128

/-- Weights of column c from the bytes of a set and its code tables (R201, R232; the packing of 4-bit codes: log 31). -/
def colWeights (d : List Byte) (mode : Nat) (w tbl : List Byte) (c : Nat) : List Fl :=
  let wf := weightFmt d mode
  if coded d mode then
    if (byteAt d 9).testBit 5 then
      ((w.drop (32 * c)).take 32).map (fun b => byteElem wf (byteAt tbl (256 * (c / 32) + b.toNat)))
    else
      ((w.drop (32 * (c / 2))).take 32).map (fun b =>
        byteElem wf (byteAt tbl (16 * (c / 32) + (if c % 2 = 0 then b.toNat % 16 else b.toNat / 16))))
  else if wf = 4 then bf16s ((w.drop (64 * c)).take 64)
  else rowElems wf ((w.drop (32 * c)).take 32)

/-! ### Products (R197-R200) -/

/-- Zero. -/
def fl0 : Fl := .num false 0 1 0

/-- Exact sum of products. -/
def dotExact (a w : List Fl) : Fl := (a.zip w).foldl (fun x p => x.add (p.1.mul p.2)) fl0

/-- The sum of eight products in FP32 (R199). -/
def tree8 (p : List Fl) : Fl :=
  let g := fun k => p.getD k fl0
  fAdd (fAdd (fAdd (g 0) (g 1)) (fAdd (g 2) (g 3))) (fAdd (fAdd (g 4) (g 5)) (fAdd (g 6) (g 7)))

/-- The BF16 DPU sum (R199). -/
def dotBf16 (a w : List Fl) : Fl :=
  let p := (a.zip w).map (fun q => fMul q.1 q.2)
  fAdd (fAdd (tree8 p) (tree8 (p.drop 8))) (fAdd (tree8 (p.drop 16)) (tree8 (p.drop 24)))

/-- Products of the lanes outside a problem's segment are 0 (R185); lane of element e is e mod 32. -/
def laneMask (pack j : Nat) (a : List Fl) : List Fl :=
  if pack = 1 then a
  else ((List.range a.length).zip a).map (fun q =>
    if q.1 % 32 / (32 / pack) = j then q.2 else fl0)

/-- The DPU sum of a column, before any scaling. -/
def dpuSum (p : Plan) (a w : List Fl) : Fl := if p.mode = 3 then dotBf16 a w else dotExact a w

/-- The power-of-two factor of block scale bytes: 2^(Ea + Ew − 254), a NaN at 255 (R198, R217). -/
def bscale (x : Fl) (ea ew : Nat) : Fl :=
  if ea = 255 || ew = 255 then .nan else x.mul (.num false 1 1 ((ea : Int) + ew - 254))

/-- A DPU sum with bits inverted by an error: of the integer, of the FP8 sum in units of 2^-32, or of the FP32 word. -/
def flipSum (mode : Nat) (x : Fl) (bits' : Nat) : Fl :=
  if mode = 3 then f32 (x.w32 ^^^ bits')
  else
    let sh : Int := if mode = 2 then 32 else 0
    let v := toTwos 80 ((x.mul (.num false 1 1 sh)).floor) ^^^ bits'
    (Fl.ofInt (sext 80 v)).mul (.num false 1 1 (-sh))

/-! ### Slots (R173, R174, R183) -/

/-- An entry of a slot. -/
def Slot.get (x : Slot) (r c : Nat) : Nat := tgetD x.ent (256 * r + c) 0

/-- Sets a key of a table of numbers whose absent keys read 0. -/
def tset0 (t : Tbl Nat) (k v : Nat) : Tbl Nat := if v = 0 then tdel t k else tset t k v

/-- Writes an entry, with the checksum row (R183). -/
def Slot.put (x : Slot) (r c v : Nat) : Slot :=
  { x with ent := tset0 x.ent (256 * r + c) v, chkRow := tset0 x.chkRow c (tgetD x.chkRow c 0 ^^^ x.get r c ^^^ v) }

/-- Columns whose storage check fails (R183). -/
def Slot.badCols (x : Slot) : List Nat :=
  (List.range 256).filter (fun c =>
    (List.range 16).foldl (fun a r => a ^^^ x.get r c) 0 != tgetD x.chkRow c 0)

/-- Physical slot of an architectural one: the shadow slot that `who` holds, else the renamed slot. -/
def LEng.phys (x : LEng) (who : Option Nat) (a : Nat) : Nat :=
  match who with
  | some w =>
    match x.shad.find? (fun h => h.arch == a && h.who == w) with
    | some h => h.phys
    | none => tgetD x.ren a a
  | none => tgetD x.ren a a

/-- A physical slot's contents. -/
def LEng.slot (x : LEng) (p : Nat) : Slot := tgetD x.slots p {}

/-- Free physical slots: neither mapped nor shadow. -/
def LEng.free (x : LEng) : List Nat :=
  (List.range 20).filter (fun p => !((List.range 16).any (fun a => tgetD x.ren a a == p)) && !x.shad.any (fun h => h.phys == p))

/-- Architectural slots of a list for which `who` still needs a shadow slot. -/
def LEng.needs (x : LEng) (who : Nat) (l : List Nat) : List Nat :=
  l.filter (fun a => !x.shad.any (fun h => h.arch == a && h.who == who))

/-- Takes a shadow slot for each of a list of architectural slots and copies the slot into it; the storage check runs
on the copies (R174, R183). Answers the columns whose check fails. -/
def LEng.take (x : LEng) (who : Nat) : List Nat → LEng × List (Nat × Nat)
  | [] => (x, [])
  | a :: t =>
    match x.free with
    | [] => (x, [])
    | p :: _ =>
      let old := x.slot (tgetD x.ren a a)
      let y := { x with shad := x.shad ++ [⟨a, p, who⟩],
                        slots := if old == {} then tdel x.slots p else tset x.slots p old }
      let r := LEng.take y who t
      (r.1, (old.badCols.map (fun c => (a, c))) ++ r.2)

/-- A commit's rename: each shadow slot of `who` in a list becomes its architectural slot, and the old one is scrubbed
(R174, R297). -/
def LEng.commit (x : LEng) (who : Nat) (l : List Nat) : LEng :=
  let mine := x.shad.filter (fun h => h.who == who && l.contains h.arch)
  mine.foldl (fun x h =>
    { x with slots := tdel x.slots (tgetD x.ren h.arch h.arch), ren := tset x.ren h.arch h.phys,
             shad := x.shad.filter (fun g => !(g == h)) }) x

/-- A squash: the shadow slots of `who` are freed and scrubbed. -/
def LEng.squash (x : LEng) (who : Nat) : LEng :=
  { x with slots := x.slots.filter (fun p => !x.shad.any (fun h => h.who == who && h.phys == p.1)),
           shad := x.shad.filter (fun h => h.who != who) }

/-- Who holds the shadow slots that a pass writes: its tag, or the wide hold (8) (R174, R292, R304). -/
def Iss.holder (i : Iss) : Option Nat :=
  match i.tag with
  | some t => some t
  | none => if i.wide then some 8 else none

/-! ### The operands of a pass -/

/-- SET, the stride between the weight sets of a CPASS (Table 10-2). -/
def cpassSet (d : List Byte) (mode : Nat) : Nat :=
  setBytes d mode + (if coded d mode then tblBytes d else 0)

/-- Index k of a CPASS's pass as (ky, kx, slice). -/
def cpassIdx (d : List Byte) (k : Nat) : Nat × Nat × Nat :=
  if (byteAt d 8).testBit 2 then (k, 0, 0)
  else
    let cs := leAt d 0x22 2
    (k / cs / byteAt d 0x17, k / cs % byteAt d 0x17, k % cs)

/-- Number of passes of a descriptor. -/
def Iss.passes (i : Iss) : Nat :=
  match i.kind with
  | 1 => 1
  | 2 => cdiv (leAt i.d 0x10 2) (byteAt i.d 0x12) * byteAt i.d 0x13
  | _ => if (byteAt i.d 8).testBit 2 then byteAt i.d 0x16 else byteAt i.d 0x16 * byteAt i.d 0x17 * leAt i.d 0x22 2

/-- The plan of pass k of a descriptor (R231, R236, R261, R264). -/
def planOf (i : Iss) (k mode aFmt sIn : Nat) : Plan :=
  let d := i.d
  let acc := (byteAt d 9).testBit 2
  let base := byteAt d 0xB % 16
  match i.kind with
  | 1 => { mode := mode, aFmt := aFmt, acc := acc, base := base, m := leAt d 0xC 2, sIn := sIn,
           nside := byteAt d 0xA / 4 % 4, side := byteAt d 0xB / 16 }
  | 2 =>
    let q := k / byteAt d 0x13
    let pk := byteAt d 0x12
    let odd := (byteAt d 8).testBit 2 && q % 2 == 1
    { mode := mode, aFmt := aFmt, acc := acc || k % byteAt d 0x13 != 0, m := leAt d 0xC 2, sIn := sIn,
      base := base + (if odd then cdiv (leAt d 0xC 2) 16 else 0), pack := pk,
      nprob := min pk (leAt d 0x10 2 - q * pk) }
  | _ =>
    let kw := byteAt d 0x17
    let dw := byteAt d 0x19 / 16
    let on := leAt d 0xE 2
    let diag := (byteAt d 8).testBit 2
    { mode := mode, aFmt := aFmt, acc := acc || k != 0, base := base, m := if diag then on + (kw - 1) * dw else on,
      sIn := sIn, diag := if diag then some (kw, dw, on) else none,
      bs := if (byteAt d 0x1A).testBit 2 then 32 else 16 }

/-- Bytes of a weight set and of its code tables for pass k, or the fault met. -/
def readWeights (s : State) (n lc : Nat) (i : Iss) (p : Plan) (k : Nat) (w8 : Bool) :
    State × List Byte × List Byte × Option Nat :=
  let d := i.d
  let sz := setBytes d p.mode
  match i.kind with
  | 1 =>
    let r := hRead s n lc i (byteAt d 0xF) (if w8 then leAt d 0x1C 4 else leAt d 0x18 4) sz
    if coded d p.mode && r.2.2.isNone then
      let t := hRead r.1 n lc i (byteAt d 0xF) (leAt d 0x38 4) (tblBytes d)
      (t.1, r.2.1, t.2.1, t.2.2)
    else (r.1, r.2.1, [], r.2.2)
  | 2 =>
    let q := k / byteAt d 0x13
    let ks := k % byteAt d 0x13
    let per := sz / p.pack
    let r := (List.range p.nprob).foldl (fun (acc : State × List Byte × Option Nat) j =>
      match acc.2.2 with
      | some _ => acc
      | none =>
        let x := hRead acc.1 n lc i (byteAt d 0xF)
          (leAt d 0x24 4 + (q * p.pack + j) * leAt d 0x2C 4 + ks * leAt d 0x28 4) per
        (x.1, acc.2.1 ++ x.2.1, x.2.2)) (s, [], none)
    if coded d p.mode && r.2.2.isNone then
      let t := hRead r.1 n lc i (byteAt d 0xF) (leAt d 0x30 4 + q * leAt d 0x2C 4) (tblBytes d)
      (t.1, r.2.1, t.2.1, t.2.2)
    else (r.1, r.2.1, [], r.2.2)
  | _ =>
    let r := hRead s n lc i (byteAt d 0x21) (if w8 then leAt d 0x34 4 + k * 8192 else leAt d 0x30 4 + k * cpassSet d p.mode)
      (if w8 then 8192 else cpassSet d p.mode)
    (r.1, r.2.1.take sz, r.2.1.drop sz, r.2.2)

/-- Where a window coordinate reads, when it lies outside [0, size): none for zero and constant padding (R262). -/
def padCoord (mode : Nat) (x : Int) (size : Nat) : Option Nat :=
  if 0 ≤ x ∧ x < (size : Int) then some x.toNat
  else if mode = 2 then some (if x < 0 then (-x).toNat else (2 * ((size : Int) - 1) - x).toNat)
  else if mode = 3 then some (if x < 0 then 0 else size - 1)
  else none

/-- Elements of a channel block at one position: INT4 blocks hold channel c in byte c ÷ 2 (R256). -/
def blkElems (fmt : Nat) (l : List Byte) : List Fl :=
  if fmt = 1 then l.flatMap (fun b => [Fl.ofInt (sext 4 (b.toNat % 16)), Fl.ofInt (sext 4 (b.toNat / 16))])
  else rowElems fmt l

/-- A padding row of a CPASS (Table 10-3). -/
def padRow (d : List Byte) (fmt : Nat) : List Fl :=
  let c := if byteAt d 0x1A % 4 = 1 then byteAt d 0x1B else 0
  if fmt = 1 then List.replicate 64 (.ofInt (sext 4 (c % 16)))
  else if fmt = 4 then List.replicate 32 (bf16.dec (c * 256))
  else List.replicate 32 (byteElem fmt c)

/-- Row m of pass k: its elements, or the fault met (R232, R236, R255-R262, R264). -/
def readRow (s : State) (n lc : Nat) (i : Iss) (p : Plan) (k m : Nat) : State × List Fl × Option Nat :=
  let d := i.d
  let rs := if p.aFmt = 4 then 64 else 32
  match i.kind with
  | 1 =>
    let r := hRead s n lc i (byteAt d 0xE) (leAt d 0x10 4 + m * leAt d 0x14 4) rs
    (r.1, rowElems p.aFmt r.2.1, r.2.2)
  | 2 =>
    let q := k / byteAt d 0x13
    let ks := k % byteAt d 0x13
    let r := (List.range p.nprob).foldl (fun (acc : State × List Byte × Option Nat) j =>
      match acc.2.2 with
      | some _ => acc
      | none =>
        let x := hRead acc.1 n lc i (byteAt d 0xE)
          (leAt d 0x14 4 + (q * p.pack + j) * leAt d 0x20 4 + ks * leAt d 0x1C 4 + m * leAt d 0x18 4) (rs / p.pack)
        (x.1, acc.2.1 ++ x.2.1, x.2.2)) (s, [], none)
    (r.1, rowElems p.aFmt (fitBytes rs r.2.1), r.2.2)
  | _ =>
    let ix := cpassIdx d k
    let y : Int := (leAt d 0x10 2 * (byteAt d 0x18 % 16) : Nat) - (byteAt d 0x1C : Int) + (ix.1 * (byteAt d 0x19 % 16) : Nat)
    let x : Int := ((leAt d 0xC 2 + m) * (byteAt d 0x18 / 16) : Nat) - (byteAt d 0x1E : Int) +
      (ix.2.1 * (byteAt d 0x19 / 16) : Nat)
    let pm := byteAt d 0x1A % 4
    match padCoord pm y (leAt d 0x14 2), padCoord pm x (leAt d 0x12 2) with
    | some yy, some xx =>
      let bs := if (byteAt d 0x1A).testBit 2 then 32 else 16
      let psz := if p.aFmt = 1 then bs / 2 else if p.aFmt = 4 then 2 * bs else bs
      let blks := if p.aFmt = 1 || bs = 16 then [2 * ix.2.2, 2 * ix.2.2 + 1] else [ix.2.2]
      let r := blks.foldl (fun (acc : State × List Fl × Option Nat) b =>
        match acc.2.2 with
        | some _ => acc
        | none =>
          let z := hRead acc.1 n lc i (byteAt d 0x20)
            (leAt d 0x24 4 + b * leAt d 0x2C 4 + yy * leAt d 0x28 4 + xx * psz) psz
          (z.1, acc.2.1 ++ blkElems p.aFmt z.2.1, z.2.2)) (s, [], none)
      r
    | _, _ =>
      let pg := corePg (seq s n lc).core
      (putR64 s pg 0x388 (getR64 s pg 0x388 + 1), padRow d p.aFmt, none)

/-! ### Running a pass -/

/-- An entry after a row's sum: overwritten or accumulated, in INT32 modulo 2^32 or in FP32 (R162, R173, R197). -/
def accumulate (fp acc : Bool) (old : Nat) (v : Fl) : Nat :=
  if fp then (if acc then (fAdd (f32 old) v).w32 else v.w32)
  else toTwos 32 ((if acc then sext 32 old else 0) + v.floor)

/-- Where column c of row m goes: the target row, or none when it is discarded or not written (R162, R264). -/
def target (p : Plan) (m c : Nat) : Option (Nat × Nat) :=
  match p.diag with
  | none => if c < 256 / p.pack * p.nprob then some (m, c) else none
  | some (kw, dw, on) =>
    let t := c / 32
    if kw ≤ t || m < t * dw || on ≤ m - t * dw then none else some (m - t * dw, c % 32)

/-- A pass in progress. -/
structure Run where
  s : State
  e : LEng
  inj : Option (Nat × Nat)     -- armed injection not yet consumed
  used : Nat := 0              -- injections consumed
  fails : List (Nat × Nat) := [] -- (row, problem) whose product check failed
  fault : Option Nat := none   -- the fault that ended the pass
  rows : Nat := 0              -- rows computed
  deriving DecidableEq, Repr

/-- Accumulates one value into an entry of a slot. -/
def putEntry (x : LEng) (ph r c v : Nat) : LEng := { x with slots := tset x.slots ph ((x.slot ph).put r c v) }

/-- One column of a row: its sum is written to its target entry; an armed accumulate or storage injection acts here
(R188, R189). -/
def runCol (p : Plan) (who : Option Nat) (m c : Nat) (v : Fl) (u : Run) : Run :=
  match target p m c with
  | none => u
  | some (r, cc) =>
    let ph := u.e.phys who (p.base + r / 16)
    let fp := 2 ≤ p.mode
    let ow := !p.acc && (p.diag.isNone || c < 32)
    let old := (u.e.slot ph).get (r % 16) cc
    let w := accumulate fp (!ow) old v
    match u.inj with
    | some (2, k) =>
      if k = c then { u with e := putEntry u.e ph (r % 16) cc ((w + 1) % 2 ^ 32), inj := none, used := u.used + 1 }
      else { u with e := putEntry u.e ph (r % 16) cc w }
    | some (3, k) =>
      if k = c then
        let e := putEntry u.e ph (r % 16) cc w
        let sl := e.slot ph
        { u with e := { e with slots := tset e.slots ph { sl with ent := tset0 sl.ent (256 * (r % 16) + cc) (w ^^^ 1) } },
                 inj := none, used := u.used + 1 }
      else { u with e := putEntry u.e ph (r % 16) cc w }
    | _ => { u with e := putEntry u.e ph (r % 16) cc w }

/-- Exact sum of a list of values. -/
def flSum (l : List Fl) : Fl := l.foldl Fl.add fl0

/-- Writes one row of a pass: the DPU sums with the errors that befell them, the product check, the accumulation and
the checksum column (R163, R177, R179-R182). -/
def runRow (p : Plan) (who : Option Nat) (ws : List (List Fl)) (a : List Fl) (scale : Nat → Fl → Fl)
    (errs : List (Nat × Nat × Nat)) (chk : Bool) (pageE m : Nat) (u : Run) : Run :=
  let cols := match p.diag with
    | none => 256 / p.pack * p.nprob
    | some _ => 256
  let good := (List.range cols).map (fun c => dpuSum p (laneMask p.pack (c * p.pack / 256) a) (ws.getD c []))
  let mine := errs.filter (fun q => q.1 == m)
  let injc := match u.inj with
    | some (1, k) => if k < cols then some k else none
    | _ => none
  let flip := fun (c : Nat) (x : Fl) =>
    let b := (mine.filter (fun q => q.2.1 == c)).foldl (fun b q => b ^^^ q.2.2) 0 ^^^ (if injc = some c then 1 else 0)
    if b = 0 then x else flipSum p.mode x b
  let sums := ((List.range cols).zip good).map (fun q => flip q.1 q.2)
  let per := 256 / p.pack
  let nonfin := a.any (fun x => !x.isFin) || ws.any (fun w => w.any (fun x => !x.isFin))
  let bad := (List.range p.nprob).filter (fun j =>
    let S := flSum ((sums.drop (per * j)).take per)
    let C := flSum ((good.drop (per * j)).take per)
    match injc with
    | some c => c / per == j
    | none =>
      if p.mode = 3 then
        let M := flSum (((List.range cols).filter (fun c => c / per == j)).map (fun c =>
          flSum (((laneMask p.pack j a).zip (ws.getD c [])).map (fun q => (q.1.mul q.2).abs))))
        !((S.sub C).abs.le (M.mul (.num false 1 1 (-10))))
      else !(S.eqv C))
  let u := { u with inj := if injc.isSome then none else u.inj, used := u.used + b2n injc.isSome }
  let u := if nonfin then { u with s := bump u.s pageE 4 }
           else { u with fails := u.fails ++ bad.map (fun j => (m, j)) }
  let u := (List.range cols).foldl (fun u c => runCol p who m c (scale c (sums.getD c fl0)) u) u
  let u := if chk then
      let ph := u.e.phys who (p.base + m / 16)
      (List.range p.nprob).foldl (fun u j =>
        let C := (flSum ((good.drop (per * j)).take per)).floor
        let sl := u.e.slot ph
        let k := 8 * (m % 16) + j
        let old := if p.acc then sext 32 (tgetD sl.chkCol k 0) else 0
        { u with e := { u.e with slots := tset u.e.slots ph { sl with chkCol := tset0 sl.chkCol k (toTwos 32 (old + C)) } } }) u
    else u
  { u with rows := u.rows + 1 }

/-- The side products of a row, accumulated in FP32 into the side slots (R176, R177, R199). -/
def runSide (p : Plan) (who : Option Nat) (sa : List Fl) (sw : Nat → List Fl) (m : Nat) (u : Run) : Run :=
  let ph := u.e.phys who (p.side + m / 16)
  { u with e := (List.range 256).foldl (fun e c =>
      let w := sw c
      let g := fun k => if k < p.nside then fMul (sa.getD k fl0) (w.getD k fl0) else fl0
      let v := fAdd (g 0) (g 1)
      putEntry e ph (m % 16) c (accumulate true p.acc ((e.slot ph).get (m % 16) c) v)) u.e }

/-- Marks a slot with what its last pass records for the drain. -/
def markSlot (p : Plan) (who : Option Nat) (chk : Bool) (a : Nat) (e : LEng) : LEng :=
  let ph := e.phys who a
  { e with slots := tset e.slots ph { e.slot ph with fp := decide (2 ≤ p.mode), sIn := p.sIn, acc := chk, bs := p.bs,
                                                      pack := p.pack } }

/-- The DIAG writes of a row whose target lies outside the segment (R264). -/
def discards (p : Plan) (m : Nat) : Nat :=
  match p.diag with
  | none => 0
  | some (kw, dw, on) => ((List.range kw).filter (fun t => m < t * dw || on ≤ m - t * dw)).length

/-- The rows of a pass from m on, until one faults: its slot lies above 15, or an operand cannot be read. -/
def runRows (n lc : Nat) (i : Iss) (p : Plan) (k : Nat) (who : Option Nat) (ws : List (List Fl)) (sw : Nat → List Fl)
    (ew : Nat → Nat) (errs : List (Nat × Nat × Nat)) (chk : Bool) (pageE m : Nat) : Nat → Run → Run
  | 0, u => u
  | left + 1, u =>
    let d := i.d
    let tgt := match p.diag with
      | none => m
      | some (_, _, on) => min m (on - 1)
    if u.fault.isSome then u
    else if 15 < p.base + tgt / 16 || (p.nside != 0 && 15 < p.side + m / 16) then { u with fault := some 1 }
    else
      let r := readRow u.s n lc i p k m
      match r.2.2 with
      | some f => { u with s := r.1, fault := some f }
      | none =>
        let sa := if p.nside = 0 then (r.1, ([] : List Byte), (none : Option Nat))
          else hRead r.1 n lc i (byteAt d 0x20) (leAt d 0x24 4 + m * leAt d 0x28 4) 4
        let ba := if (byteAt d 9).testBit 6 && sa.2.2.isNone then
            hRead sa.1 n lc i (byteAt d 0x20) (leAt d 0x2C 4 + m) 1
          else (sa.1, [127], sa.2.2)
        match ba.2.2 with
        | some f => { u with s := ba.1, fault := some f }
        | none =>
          let scale := fun c x => if (byteAt d 9).testBit 6 then bscale x (byteAt ba.2.1 0) (ew c) else x
          let pg := corePg (seq ba.1 n lc).core
          let dn := discards p m
          let s := if dn = 0 then ba.1 else putR64 ba.1 pg 0x390 (getR64 ba.1 pg 0x390 + dn)
          let u := runRow p who ws r.2.1 scale errs chk pageE m { u with s := s }
          let u := if p.nside = 0 then u else runSide p who (bf16s sa.2.1) sw m u
          runRows n lc i p k who ws sw ew errs chk pageE (m + 1) left u

/-- ENG_CHK_LAST (R184). -/
def chkLast (s : State) (page kind side prob slot rc n : Nat) : State :=
  putR s page 0x108 (word (kind <<< 28 ||| side <<< 27 ||| prob <<< 24 ||| slot <<< 20 ||| rc <<< 12 ||| n))

/-- A failed check: recorded, counted, and raised on the context that owns the failing part (R184). -/
def chkFail (s : State) (n lc : Nat) (i : Iss) (page kind prob slot rc : Nat) : State :=
  seqFault (bump (chkLast s page kind 0 prob slot rc n) page kind) n lc i 0x05 page

/-- Pauses ask an engine to hold at the pass boundary (R186): PAUSE of its page. -/
def engPaused (s : State) (c e : Nat) : Bool := bit (blk s (engPg c e)).ctrl.maj 8

/-- An engine holds at the pass boundary: by its PAUSE, by Gong's cut, or for a profile switch (R56, R186, R474). -/
def engStops (s : State) (c e : Nat) : Bool := engPaused s c e || lowEvent s || s.life.switchTo.isSome

/-- Levels of an engine's status bits (Table 07-8): EXEC, LOADING, PAUSED. -/
def engStatus (s : State) (c e : Nat) : State :=
  let l := (onCore s c).flatMap (fun q => (seq s q.1 q.2).issued.filter (fun i => i.isPass && i.engine == e))
  let n := l.length
  let p := engStops s c e
  let run := if p then (l.filter (·.begun)).length else min n 2
  let pg := engPg c e
  setStatus (setStatus (setStatus s pg 8 (decide (1 ≤ run))) pg 9 (decide (2 ≤ run))) pg 10 (p && run == 0)

/-- One pass of a descriptor: pass k on its engine. Answers the run, or none while it waits for a shadow slot. -/
def passRun (s : State) (n lc : Nat) (i : Iss) (k : Nat) (f : ExecFact) : Option (Run × Plan) :=
  let q := seq s n lc
  let e := i.engine
  let pg := engPg q.core e
  let ah := if i.kind = 3 then byteAt i.d 0x20 else byteAt i.d 0xE
  let x := q.eng e
  let stop := fun (u : State) code => some (({ s := u, e := x, inj := none, fault := some code } : Run), planOf i k 0 0 0)
  if f.par then stop (bumpR s (corePg q.core) 0x414 1) 8
  else
    match href s n lc (ah % 64) with
    | none => stop s 3
    | some h =>
      if !h.scr then stop s 3
      else
        match passMode i.d h with
        | none => stop s 4
        | some (mode, aFmt, w8) =>
          let p := planOf i k mode aFmt h.scale
          let w8ofs := if i.kind = 3 then leAt i.d 0x34 4 else leAt i.d 0x1C 4
          let sides := if p.nside = 0 then [] else (List.range (cdiv p.m 16)).map (p.side + ·)
          let mains := (List.range (cdiv (match p.diag with
            | some (_, _, on) => on
            | none => p.m) 16)).map (p.base + ·)
          if w8 && w8ofs = 0xFFFFFFFF then stop s 4
          else if p.diag.isSome && (mode = 1 || mode = 3) then stop s 4
          else if coded i.d mode && mode = 1 then stop s 4
          else if sides.any (fun a => mains.contains a) then stop s 4
          else
            let all := (mains ++ sides).filter (fun a => a ≤ 15)
            let need := match i.holder with
              | some w => x.needs w all
              | none => []
            if 4 < all.length && i.holder.isSome then stop s 1
            else if x.free.length < need.length then none
            else
              let tk := match i.holder with
                | some w => x.take w need
                | none => (x, [])
              let w := readWeights s n lc i p k w8
              match w.2.2.2 with
              | some c => stop w.1 c
              | none =>
                let swr := if p.nside = 0 then (w.1, ([] : List Byte), (none : Option Nat))
                  else hRead w.1 n lc i (byteAt i.d 0xF) (leAt i.d 0x30 4) 1024
                let bwr := if (byteAt i.d 9).testBit 6 && swr.2.2.isNone then
                    hRead swr.1 n lc i (byteAt i.d 0xF) (leAt i.d 0x34 4) 256
                  else (swr.1, [], swr.2.2)
                match bwr.2.2 with
                | some c => stop bwr.1 c
                | none =>
                  let ws := (List.range 256).map (colWeights i.d mode w.2.1 w.2.2.1)
                  let chk := decide (mode ≤ 1) && p.diag.isNone
                  let u : Run := { s := bwr.1, e := tk.1, inj := (tgetD bwr.1.engs (4 * q.core + e) {}).inject }
                  let u := match tk.2 with
                    | [] => u
                    | (a, c) :: _ => { u with s := chkFail u.s n lc i pg 3 0 a c }
                  let u := runRows n lc i p k i.holder ws (fun c => bf16s ((swr.2.1.drop (4 * c)).take 4))
                    (fun c => byteAt bwr.2.1 c) f.errs chk pg 0 p.m u
                  let e' := all.foldl (fun e a => markSlot p i.holder (chk && mains.contains a) a e) u.e
                  some ({ u with e := if u.rows = 0 then u.e else e' }, p)

/-- C, the bus cycles of a row (Table 07-2). -/
def busC (mode : Nat) : Nat := if mode = 3 then 4 else 1

end Sys2Proof.Machine
end

