-- ==== Sys2Proof/Machine/CoreRegs.lean ====
section
/-!
DEFINITION. Machine/CoreRegs.lean: the fields of registers with their access codes and guards (R31-R34), and the
registers of the header, of the core and engine pages and of the timebase page.
-/
namespace Sys2Proof.Machine

/-! ### Access codes (Table 02-2) -/

/-- Base codes. -/
inductive Acc where
  | rw | ro | wo | rv | cn
  deriving DecidableEq, Repr

/-- Guard codes; `pr` is SE on page 0x1C0 (R34). -/
inductive Guard where
  | any | pr
  deriving DecidableEq, Repr

/-- A field of a register; bits in no field are reserved. -/
structure Fld where
  hi : Nat
  lo : Nat
  acc : Acc
  g : Guard
  deriving DecidableEq, Repr

/-- A field of code RO, readable by all. -/
def fRo (hi lo : Nat) : Fld := ⟨hi, lo, .ro, .any⟩

/-- RO+PR. -/
def fRoP (hi lo : Nat) : Fld := ⟨hi, lo, .ro, .pr⟩

/-- RW+PR. -/
def fRwP (hi lo : Nat) : Fld := ⟨hi, lo, .rw, .pr⟩

/-- RV+PR. -/
def fRvP (hi lo : Nat) : Fld := ⟨hi, lo, .rv, .pr⟩

/-- WO+PR. -/
def fWoP (hi lo : Nat) : Fld := ⟨hi, lo, .wo, .pr⟩

/-- CN+PR over the whole register. -/
def fCnP : List Fld := [⟨31, 0, .cn, .pr⟩]

/-- A whole register of code RO. -/
def wRo : List Fld := [fRo 31 0]

/-- A whole register of code RO+PR. -/
def wRoP : List Fld := [fRoP 31 0]

/-- A whole register of code RW+PR. -/
def wRwP : List Fld := [fRwP 31 0]

/-- A master meets a field's guard. -/
def fldOpen (m : Master) (page ofs : Nat) (f : Fld) : Bool :=
  match f.g with
  | .any => page != 0x1C0 || prOpen m page ofs
  | .pr => prOpen m page ofs

/-- The bits that a read of a master returns: open fields that are not write-only. -/
def readMask (m : Master) (page ofs : Nat) (fs : List Fld) : Word :=
  fs.foldl (fun a f => if fldOpen m page ofs f && f.acc != .wo then a ||| maskW f.hi f.lo else a) 0

/-- A read meets a guarded field that it does not open (counted once for an access). -/
def guardHit (m : Master) (page ofs : Nat) (fs : List Fld) : Bool := fs.any (fun f => !fldOpen m page ofs f)

/-! ### The header (R37-R46) -/

/-- Fields of a header register. -/
def hdrFlds (page ofs : Nat) : List Fld :=
  if ofs = 0x000 || ofs = 0x004 || ofs = 0x008 || ofs = 0x00C || ofs = 0x010 then wRo
  else if ofs = 0x014 then
    [fRvP 0 0] ++ (if (0x040 ≤ page && page ≤ 0x0FF) || (0x100 ≤ page && page ≤ 0x121) then [fRvP 8 8] else [])
  else if ofs = 0x018 then [fRvP 0 0]
  else if ofs = 0x01C then [fRoP 31 31, fRoP 23 16, fRoP 13 12, fRoP 11 0]
  else if 0x020 ≤ ofs && ofs ≤ 0x03C then [⟨31, 0, .cn, .any⟩]
  else if ofs = 0x040 then wRwP
  else if ofs = 0x044 then [fRwP 31 31, fRwP 10 0]
  else if ofs = 0x080 then [fRoP 30 30, fRoP 29 16, ⟨15, 0, .cn, .pr⟩]
  else []

/-- BLK_CAP.BLOCK_CAP of the pages whose chapter defines it (Table 07-8, R135). -/
def blockCap (page : Nat) : Nat :=
  if 0x040 ≤ page && page ≤ 0x0FF then 0x843F else if 0x100 ≤ page && page ≤ 0x11F then 0x1F else 0

/-- A header register's value. -/
def hdrView (s : State) (page ofs : Nat) : Word :=
  let b := blk s page
  if ofs = 0x000 then word ((pageType page).1 <<< 16 ||| (pageType page).2)
  else if ofs = 0x004 then word (Config.stepping <<< 24 ||| b.codeRev % 2 ^ 24)
  else if ofs = 0x008 then word (0x10000000 ||| blockCap page)
  else if ofs = 0x00C then word (b.st.code <<< 4 ||| 2 * b2n (b.degraded && b.st.ready) ||| b2n b.st.ready)
  else if ofs = 0x010 then statusOf b
  else if ofs = 0x014 then
    (if 0x100 ≤ page && page ≤ 0x11F && s.gong.railShed.testBit (page - 0x100) then setBits b.ctrl.maj 8 8 1 else b.ctrl.maj)
  else if ofs = 0x018 then b.fence.maj
  else if ofs = 0x01C then b.faultCtx
  else if 0x020 ≤ ofs && ofs ≤ 0x03C then tgetD b.cnt ((ofs - 0x020) / 4) 0
  else if ofs = 0x040 then b.irqMask
  else if ofs = 0x044 then b.irqRoute
  else if ofs = 0x080 then b.voteErr
  else 0

/-! ### Core pages (R220, R254, R271, R288, R310) -/

/-- The context that a core is granted to, with the logical core: not one parked there (R328). -/
def coreCtx (s : State) (c : Nat) : Option (Nat × Nat) :=
  (onCore s c).find? (fun (q : Nat × Nat) => tget s.car.parkedOn c != some q.1)

/-- The core and its context are paused: the context waits with its state in place (R325), or every engine of the core is
held (R186). -/
def corePaused (s : State) (n c : Nat) : Bool :=
  (ctx s n).st == .parked || (ctx s n).pausedAt.isSome || [0, 1, 2, 3].all (engStops s c)

/-- SEQ_STATE. -/
def seqStateW (s : State) (c : Nat) : Word :=
  match coreCtx s c with
  | none => 0
  | some (n, lc) =>
    let q := seq s n lc
    let st := if q.st != 0 && q.st != 4 && corePaused s n c then 3 else q.st
    word (st <<< 28 ||| n <<< 16 ||| min q.issued.length 32 <<< 10 ||| min q.tagged 8 <<< 6 ||| lc)

/-- SEQ_WAIT. -/
def seqWaitW (s : State) (c : Nat) : Word :=
  match coreCtx s c with
  | none => 0
  | some (n, lc) =>
    match (seq s n lc).wait with
    | none => 0
    | some w => word (0x80000000 ||| b2n w.clave <<< 30 ||| w.lc <<< 24 ||| w.ctr <<< 16)

/-- SPEC_TAGn. -/
def specTagW (s : State) (c t : Nat) : Word :=
  match coreCtx s c with
  | none => 0
  | some (n, lc) =>
    let q := seq s n lc
    let x := q.tag t
    let sh := (q.engs.map (fun e => (e.2.shad.filter (fun h => h.who == t)).length)).sum
    let hs := (q.handles.filter (fun (e : Nat × List Byte) =>
      byteAt e.2 0 % 2 == 1 && (byteAt e.2 0).testBit 3 && byteAt e.2 3 == t)).length
    let is := (q.issued.filter (fun i => i.tag == some t)).length
    word (x.st <<< 28 ||| x.verdict <<< 26 ||| x.code <<< 18 ||| min sh 16 <<< 13 ||| min hs 64 <<< 6 ||| min is 8)

/-- WIN_PROGRESSe: the CPASS in progress on an engine. -/
def winProgressW (s : State) (c e : Nat) : Word :=
  match (onCore s c).flatMap (fun (q : Nat × Nat) => (seq s q.1 q.2).issued.filter (fun i => i.kind == 3 && i.engine == e)) with
  | [] => 0
  | i :: _ => word (0x80000000 ||| i.prog % 2 ^ 20)

/-- SP_STATE. -/
def spStateW (s : State) (c : Nat) : Word :=
  let x := coreSt s c
  let st := if x.st = 0 && !x.pend.isEmpty then 2 else x.st
  let n := rowsN x.pend + (if x.st = 1 then rowsN x.rows else 0)
  word (st <<< 29 ||| x.who <<< 17 ||| min n 65536)

/-- DMA descriptors that an engine of a core holds, with their contexts. -/
def dmaOf (s : State) (c e : Nat) : List (Nat × Iss) :=
  (onCore s c).flatMap (fun (q : Nat × Nat) => ((seq s q.1 q.2).issued.filter (fun i => i.kind == 8 && byteAt i.d 8 % 2 == e)).map
    (fun i => (q.1, i)))

/-- Reads of host memory that a DMA engine has outstanding. -/
def dmaOut (s : State) (c e : Nat) : Nat :=
  (s.pcie.np.filter (fun (q : Nat × NpReq) => q.2.ctx.isSome && q.2.core == 2 * c + e && !q.2.abandoned)).length

/-- DMA_STATEn. -/
def dmaStateW (s : State) (c e : Nat) : Word :=
  match dmaOf s c e with
  | [] => 0
  | (n, _) :: t =>
    let st := if (match coreCtx s c with
      | some (k, lc) => (seq s k lc).st == 4
      | none => false) then 3 else 1
    word (st <<< 28 ||| n <<< 16 ||| min (dmaOut s c e) 255 <<< 8 ||| min (t.length + 1) 8)

/-- SP_HANDLEh: a word of entry h. -/
def spHandleW (s : State) (c h k : Nat) : Word :=
  match coreCtx s c with
  | none => 0
  | some (n, lc) => word (leAt (tgetD (seq s n lc).handles h []) (4 * k) 4)

/-- A value of the core's context, 0 while the core is idle. -/
def ofCore (s : State) (c : Nat) (f : Nat → Nat → Nat) : Nat :=
  match coreCtx s c with
  | none => 0
  | some (n, lc) => f n lc

/-- Fields of a core page's registers. -/
def coreFlds (ofs : Nat) : List Fld :=
  if ofs = 0x200 then [fRo 31 28, fRoP 27 16, fRo 15 10, fRo 9 6, fRoP 5 0]
  else if ofs = 0x204 then [fRo 31 31, fRo 30 30, fRoP 29 24, fRoP 23 16]
  else if ofs = 0x218 || ofs = 0x21C then fCnP
  else if 0x208 ≤ ofs && ofs ≤ 0x224 then wRoP
  else if 0x240 ≤ ofs && ofs < 0x280 then wRoP
  else if ofs = 0x300 || ofs = 0x304 || ofs = 0x308 then wRoP
  else if 0x30C ≤ ofs && ofs ≤ 0x320 then fCnP
  else if ofs = 0x380 || ofs = 0x384 || ofs = 0x398 then fCnP
  else if 0x388 ≤ ofs && ofs ≤ 0x394 then wRoP
  else if 0x3A0 ≤ ofs && ofs ≤ 0x3AC then [fRo 31 31, fRoP 19 0]
  else if ofs = 0x400 then [fRo 31 29, fRoP 28 17, fRo 16 0]
  else if ofs = 0x404 then wRoP
  else if ofs = 0x408 then [fRvP 31 31, fWoP 30 30, fRvP 11 0]
  else if ofs = 0x40C || ofs = 0x410 || ofs = 0x414 then fCnP
  else if ofs = 0x420 || ofs = 0x430 then [fRo 31 28, fRoP 27 16, fRo 15 8, fRo 3 0]
  else if ofs = 0x424 || ofs = 0x428 || ofs = 0x434 || ofs = 0x438 then wRoP
  else if ofs = 0x42C || ofs = 0x43C then fCnP
  else if 0x440 ≤ ofs && ofs < 0x500 then fCnP
  else if 0x500 ≤ ofs && ofs < 0x520 then [fRo 31 28, fRo 27 26, fRoP 25 18, fRo 17 13, fRo 12 6, fRo 3 0]
  else if ofs = 0x520 then [fRoP 31 24, fRoP 23 21, fRoP 11 0]
  else if ofs = 0x524 || ofs = 0x528 then wRoP
  else if ofs = 0x52C then [fRo 4 0]
  else if 0x530 ≤ ofs && ofs ≤ 0x554 then fCnP
  else if ofs = 0x558 then [fRo 3 0]
  else if 0x1000 ≤ ofs && ofs < 0x1800 then wRoP
  else []

/-- A core register's value. -/
def coreView (s : State) (page ofs : Nat) : Word :=
  let c := page - 0x010
  if ofs = 0x200 then seqStateW s c
  else if ofs = 0x204 then seqWaitW s c
  else if ofs = 0x208 then word (ofCore s c (fun n lc => (seq s n lc).pc))
  else if ofs = 0x20C then word (ofCore s c (fun n lc => (seq s n lc).pc / 2 ^ 32))
  else if 0x240 ≤ ofs && ofs < 0x280 then word (ofCore s c (fun n lc => (tgetD (seq s n lc).rrc ((ofs - 0x240) / 4) 0).toNat))
  else if 0x3A0 ≤ ofs && ofs ≤ 0x3AC then winProgressW s c ((ofs - 0x3A0) / 4)
  else if ofs = 0x400 then spStateW s c
  else if ofs = 0x420 then dmaStateW s c 0
  else if ofs = 0x430 then dmaStateW s c 1
  else if 0x500 ≤ ofs && ofs < 0x520 then specTagW s c ((ofs - 0x500) / 4)
  else if ofs = 0x52C then word (ofCore s c (fun n lc => min (seq s n lc).held.length 16))
  else if 0x1000 ≤ ofs && ofs < 0x1800 then spHandleW s c ((ofs - 0x1000) / 0x20) ((ofs - 0x1000) % 0x20 / 4)
  else getR s page ofs

/-! ### Engine pages (R188) -/

/-- Fields of an engine page's registers. -/
def engFlds (ofs : Nat) : List Fld :=
  if ofs = 0x100 then [fRo 31 28, fRoP 27 16, fRo 15 8, fRo 5 4, fRo 3 3, fRo 2 2, fRo 1 0]
  else if ofs = 0x104 then [fRo 19 16, fRo 15 0]
  else if ofs = 0x108 then [fRoP 29 28, fRoP 27 27, fRoP 26 24, fRoP 23 20, fRoP 19 12, fRoP 11 0]
  else if 0x110 ≤ ofs && ofs ≤ 0x124 then wRo
  else if ofs = 0x130 then [fWoP 31 31, fWoP 30 29, fWoP 7 0]
  else []

/-- Passes that an engine holds, with their contexts, oldest first. -/
def engHeld (s : State) (c e : Nat) : List (Nat × Iss) :=
  (onCore s c).flatMap (fun (q : Nat × Nat) => ((seq s q.1 q.2).issued.filter (fun i => i.isPass && i.engine == e)).map (fun i => (q.1, i)))

/-- ENG_STATE. The row of the executing pass is a matter of timing: 0 (log 37). -/
def engStateW (s : State) (c e : Nat) : Word :=
  let b := blk s (engPg c e)
  let exec := bit b.status 8
  let st := if b.st = .selftest then 4 else if exec then 1 else if bit b.status 10 then 2 else 0
  let l := engHeld s c e
  let x := match l with
    | (n, i) :: _ => if exec then n <<< 16 ||| 4 * b2n (1 < byteAt i.d 0x12 && i.kind == 2) ||| byteAt i.d 9 % 4 else 0
    | [] => 0
  let run := b2n exec + b2n (bit b.status 9)
  word (st <<< 28 ||| x ||| min (l.length - run) 2 <<< 4 ||| b2n (bit b.status 9) <<< 3)

/-- ENG_SLOTS: the logical engines of every context on the core. -/
def engSlotsW (s : State) (c e : Nat) : Word :=
  (onCore s c).foldl (fun w (q : Nat × Nat) =>
    let x := (seq s q.1 q.2).eng e
    let phys := (List.range 20).filter (fun p => !(List.range 16).any (fun a => tgetD x.ren a a == p))
    let busy := (List.range phys.length).foldl (fun a k =>
      a ||| b2n (x.shad.any (fun h => h.phys == phys.getD k 20)) <<< (16 + k)) 0
    w ||| word (x.shad.foldl (fun a h => a ||| 1 <<< h.arch) busy)) 0

/-- An engine register's value. -/
def engView (s : State) (page ofs : Nat) : Word :=
  let c := (page - 0x040) / 4
  let e := (page - 0x040) % 4
  if ofs = 0x100 then engStateW s c e
  else if ofs = 0x104 then engSlotsW s c e
  else getR s page ofs

/-! ### The timebase page (R99, R510) -/

/-- Fields of the timebase page's registers. -/
def tbFlds (ofs : Nat) : List Fld :=
  if ofs = 0x100 then [fRvP 14 8, fRvP 6 4, fRvP 1 0]
  else if ofs = 0x104 then [fRo 31 16, fRo 3 0]
  else if ofs = 0x108 || ofs = 0x10C then wRo
  else if ofs = 0x120 then [fRvP 15 8, fRo 5 4, fRvP 1 1, fRvP 0 0]
  else if ofs = 0x130 || ofs = 0x134 then wRoP
  else if 0x200 ≤ ofs && ofs < 0x260 then
    if ofs % 16 = 0 || ofs % 16 = 4 then wRwP else if ofs % 16 = 8 then [fRvP 31 31] else []
  else []

/-- A timebase register's value. -/
def tbView (s : State) (ofs : Nat) : Word :=
  if ofs = 0x108 then word (now s) else if ofs = 0x10C then word (now s / 2 ^ 32) else getR s 0x1F0 ofs

/-! ### LO/HI pairs (R30) -/

/-- A register is the LO half of a pair on these pages. -/
def coreLo (page ofs : Nat) : Bool :=
  if 0x010 ≤ page && page ≤ 0x03F then
    [0x208, 0x210, 0x220, 0x304, 0x388, 0x390, 0x424, 0x434, 0x524].contains ofs
  else if 0x040 ≤ page && page ≤ 0x0FF then [0x110, 0x118, 0x120].contains ofs
  else if page = 0x1F0 then ofs = 0x108 || ofs = 0x130 || (0x200 ≤ ofs && ofs < 0x260 && ofs % 16 = 0)
  else false

/-- What a user context's DMA reads of a mirror dword in the pages R35 opens to it; guarded fields read 0. -/
def mirrorDword (s : State) (m : Master) (page ofs : Nat) : Word :=
  if ofs < 0x100 then hdrView s page ofs &&& readMask m page ofs (hdrFlds page ofs)
  else if page = 0x1F0 then tbView s ofs &&& readMask m page ofs (tbFlds ofs)
  else if page < 0x040 then coreView s page ofs &&& readMask m page ofs (coreFlds ofs)
  else engView s page ofs &&& readMask m page ofs (engFlds ofs)

/-- A read of a mirror dword by a user context's DMA: guarded accesses are counted, and a LO read latches HI. -/
def mirrorRead (s : State) (page ofs : Nat) : State × Word :=
  let fs := if ofs < 0x100 then hdrFlds page ofs else if page = 0x1F0 then tbFlds ofs else if page < 0x040 then coreFlds ofs
    else engFlds ofs
  if accessOf s .user page ofs = .off then (account s 2 3 .user false page ofs, 0xFFFFFFFF#32)
  else if accessOf s .user page ofs = .fenced then (account s 5 6 .user false page ofs, 0xFFFFFFFF#32)
  else
  let s := if guardHit .user page ofs fs then account s 0 1 .user false page ofs else s
  let v := mirrorDword s .user page ofs
  let key := rkey page (ofs + 4)
  if coreLo page ofs then ({ s with latch := tset s.latch key (mirrorDword s .secure page (ofs + 4)) }, v)
  else
    match tget s.latch (rkey page ofs) with
    | some w => ({ s with latch := tdel s.latch (rkey page ofs) }, w &&& readMask .user page ofs fs)
    | none => (s, v)

/-- Pages of the mirror that a user context's DMA may read (R35). -/
def mirrorOpen (s : State) (n page : Nat) : Bool :=
  let cs := (ctx s n).cores
  page == 0x1F0 || (inR page 0x010 0x03F && cs.contains (page - 0x010)) ||
    (inR page 0x040 0x0FF && cs.contains ((page - 0x040) / 4))

end Sys2Proof.Machine
end

