-- ==== Sys2Proof/Machine/Tags.lean ====
section
/-!
DEFINITION. Machine/Tags.lean: verdicts, commit and squash of speculation tags (R289-R308).
-/
namespace Sys2Proof.Machine

/-- The page of a logical core's physical core. -/
def lcPg (s : State) (n lc : Nat) : Nat := corePg (seq s n lc).core

/-- Handles PROVISIONAL under a tag: PTAG t with WIDE 0. -/
def tagHandles (q : Seq) (t : Nat) : List Nat :=
  (q.handles.filter (fun h => (byteAt h.2 0).testBit 3 && byteAt h.2 3 % 8 == t && !(byteAt h.2 3).testBit 3)).map (·.1)

/-- Starts a tag's squash: its descriptors that have been issued and its held entries are discarded (R298). -/
def startSquash (s : State) (n lc t : Nat) (verdict : Nat) (closed surface : Bool) : State :=
  updSeq (dropIss s n lc (fun i => i.tag == some t)) n lc (fun q =>
    { q with held := q.held.filter (fun i => i.tag != some t) }.setTag t
      { q.tag t with st := 5, verdict := verdict, closed := closed, surface := surface })

/-- The discard step of a squash: shadow slots freed and scrubbed, every row of every handle of the tag PENDING, and
the handles free again with FMT 0xFF and SCALE 1.0; the tag's wide groups are abandoned (R298, R305). -/
def discardTag (s : State) (n lc t : Nat) : State :=
  let q := seq s n lc
  let hs := tagHandles q t
  let s := setSeq s n lc { q with
    engs := q.engs.map (fun e => (e.1, e.2.squash t)),
    grps := q.grps.filter (fun g => g.iss.tag != some t) }
  let s := hs.foldl (fun s h =>
    match href s n lc h with
    | none => s
    | some r =>
      let s := if r.scr && !r.remote then markPending s r.core (r.base / 64) ((r.base + r.ext) / 64) n else s
      hTensor (hProv s n lc h false 0 false) n lc h 0xFF 0x3F800000) s
  bumpR s (corePg q.core) 0x538 1

/-- A predicate's verdict on a tag (R243, Table 12-2). -/
def predVerdict (s : State) (n lc t : Nat) (i : Iss) (ok : Bool) : State :=
  let x := (seq s n lc).tag t
  let pg := lcPg s n lc
  if (x.st = 1 || x.st = 2) && x.verdict = 0 then
    if ok then updSeq s n lc (fun q => q.setTag t { x with verdict := 1 })
    else bumpR (startSquash s n lc t 2 false false) pg 0x53C 1
  else if x.st = 1 || x.st = 2 || x.st = 3 then bumpR s pg 0x54C 1
  else seqFaultNow s n lc i 0x13 pg

/-- A tag's squash completes (R298, R302): SQUASHED or FREE, and a surfaced fault is raised on the context. -/
def squashDone (s : State) (n lc t : Nat) : State :=
  let x := (seq s n lc).tag t
  if x.st != 5 then s
  else
    let s := discardTag s n lc t
    let pg := lcPg s n lc
    let s := updSeq s n lc (fun q => q.setTag t (if x.verdict = 2 && !x.closed then { x with st := 3 } else {}))
    if x.surface then
      let s := putR s pg 0x520 (word (x.code <<< 24 ||| t <<< 21 ||| n))
      let s := putR64 s pg 0x524 x.desc
      let s := bumpR s pg 0x548 1
      let s := raiseFault s (.ctx n) 0x12 pg x.desc 0 x.code (8 + 16 * t)
      (lcores s n).foldl (fun s l => updSeq s n l (fun q => { q with st := if l = lc then 4 else q.st, issued := [] })) s
    else s

/-- Squashes every open tag of a logical core in ascending order at a teardown: no fault surfaces and no held write runs
(R308). -/
def squashAll (s : State) (n lc : Nat) : State :=
  (List.range 8).foldl (fun s t =>
    if ((seq s n lc).tag t).st = 0 then s
    else
      let s := discardTag (startSquash s n lc t 0 true false) n lc t
      updSeq s n lc (fun q => q.setTag t {})) s

/-- The commit of a tag: rename on every engine and the handles' flags (R297). The scale history of its wide groups is
recorded (R305). -/
def commitTag (s : State) (n lc t : Nat) (record : State → Grp → State) : State :=
  let q := seq s n lc
  let hs := tagHandles q t
  let s := setSeq s n lc { q with
    engs := q.engs.map (fun e => (e.1, e.2.commit t (List.range 16))),
    grps := q.grps.filter (fun g => g.iss.tag != some t) }
  let s := hs.foldl (fun s h => hProv s n lc h false 0 false) s
  (q.grps.filter (fun g => g.iss.tag == some t)).foldl record s

end Sys2Proof.Machine
end

