-- ==== Sys2Proof/Machine/Drains.lean ====
section
/-!
DEFINITION. Machine/Drains.lean: the drain chain, scale entries, conversion, and the wide path (R193-R218, R239-R243,
R263, R304, R305).
-/
namespace Sys2Proof.Machine

/-! ### Scale entries (R206-R211) -/

/-- The 16 bytes that the scale store holds of an entry (R324): MODE, OUT_FMT, WIDE_CLAVE, SAT_LIMIT, FILL at byte 8,
H at byte 12 (log 33). -/
def scaleEnt (s : State) (n e : Nat) : List Byte := ((ctx s n).scale.drop (16 * e)).take 16

/-- The entry is CROSSED. -/
def crossedEnt (s : State) (n e : Nat) : Bool := byteAt (scaleEnt s n e) 0 % 4 == 1

/-- MAXV (R207). -/
def maxV (fmt : Nat) : Nat := if fmt = 0 then 127 else if fmt = 1 then 7 else if fmt = 2 then 448 else 57344

/-- A scale entry in memory obeys Table 08-2 (R206). -/
def entryOk (e : List Byte) : Bool :=
  let m := byteAt e 0
  let f := byteAt e 1
  let nn := byteAt e 2
  let fill := byteAt e 3
  let wc := leAt e 6 2
  m / 32 == 0 && m % 4 != 3 && f ≤ 6 && inR nn 1 16 && fill ≤ nn && byteAt e 4 < nn && byteAt e 5 ≤ 2 &&
    (wc ≤ 255 || wc == 0xFFFF) && zeroAt e 0x14 12 && zeroAt e 0x60 32 &&
    (m % 4 != 1 || (f ≤ 1 && wc != 0xFFFF)) && (m % 4 == 0 || (f < 4 && !m.testBit 4)) &&
    (!m.testBit 4 || f == 2 || f == 3) &&
    (List.range fill).all (fun k => let h := f32 (leAt e (0x20 + 4 * k) 4); h.isFin && !(h.lt fl0))

/-- The model entry's SCALE_N and SCALE_TAB (Table 13-6). -/
def scaleN (s : State) (n : Nat) : Nat := leAt (ctx s n).model 2 2
/-- SCALE_TAB. -/
def scaleTab (s : State) (n : Nat) : Nat := leAt (ctx s n).model 0x18 8

/-- History maximum H of an entry: the largest of its valid history values (R207). -/
def histMax (e : List Byte) : Nat := (List.range (byteAt e 3)).foldl (fun a k => max a (leAt e (0x20 + 4 * k) 4)) 0

/-- The 16 bytes of the scale store for an entry of SCALE_TAB. -/
def scaleStore (e : List Byte) : List Byte :=
  e.take 2 ++ (e.drop 6).take 2 ++ (e.drop 8).take 4 ++ leBytes 4 (byteAt e 3) ++ leBytes 4 (histMax e)

/-- Scale of a tensor whose maximum is the FP32 word a (R207). -/
def scaleOf (a fmt : Nat) : Nat :=
  let x := f32 a
  if x.isZero then 0x3F800000 else (x.div (.ofNat (maxV fmt))).w32

/-- Level of a WIDE_CLAVE value (R211). -/
def levelOf (v : Nat) : Nat := if v = 0 then 0 else if v < 65536 then 1 else 2

/-- Format written at a level (Table 08-3). -/
def levelFmt (fmt l : Nat) : Nat := if l = 0 then fmt else if l = 1 then 2 else 4

/-- A Clave counter may be named by a context (R253). -/
def clvOwned (s : State) (k n : Nat) : Bool :=
  let c := getR s 0x190 (0x804 + 16 * k)
  bit c 31 && bits c 11 0 == n

/-! ### Element placement (R192, R239, R256, R263) -/

/-- Bits of an element of a format. -/
def elemW (fmt : Nat) : Nat := if fmt = 1 then 4 else if fmt ≤ 3 then 8 else if fmt ≤ 5 then 16 else 32

/-- Byte and bit of column c in its run: a whole row, or a channel block. -/
def elemPos (fmt bs c : Nat) : Nat × Nat :=
  if fmt = 1 then
    if bs = 0 then (32 * (c / 64) + c % 32, 4 * (c % 64 / 32)) else (c / 2, 4 * (c % 2))
  else (c * (elemW fmt / 8), 0)

/-- Bytes of a run of elements. -/
def packRun (fmt bs : Nat) (l : List Nat) : List Byte :=
  if fmt = 1 then
    let n := if bs = 0 then l.length / 64 * 32 + min 32 (l.length % 64) else cdiv l.length 2
    (List.range n).map (fun b =>
      let lo := if bs = 0 then 64 * (b / 32) + b % 32 else 2 * b
      let hi := if bs = 0 then lo + 32 else lo + 1
      BitVec.ofNat 8 (l.getD lo 0 % 16 + 16 * (l.getD hi 0 % 16)))
  else l.flatMap (fun v => leBytes (elemW fmt / 8) v)

/-- Bytes of one channel block at one position (Table 10-1). -/
def blkBytes (fmt bs : Nat) : Nat := bs * elemW fmt / 8

/-- Byte offset of row r's run b (all columns of a row, or block b of a channel-blocked output). -/
def runOfs (fmt bs ofs stride r b : Nat) : Nat := if bs = 0 then ofs + r * stride else ofs + b * stride + r * blkBytes fmt bs

/-- Reads one element of a tensor through a handle, in a format; INT4 elements are nibbles (R192, R256). -/
def readElem (s : State) (n lc : Nat) (i : Iss) (hb fmt bs ofs stride r c : Nat) : State × Fl × Option Nat :=
  let b := if bs = 0 then 0 else c / bs
  let cc := if bs = 0 then c else c % bs
  let p := elemPos fmt bs cc
  let x := hRead s n lc i hb (runOfs fmt bs ofs stride r b + p.1) (max 1 (elemW fmt / 8))
  let v := leNat x.2.1
  (x.1, if fmt = 1 then .ofInt (sext 4 (v >>> p.2)) else if fmt = 4 then bf16.dec v else if fmt = 5 then fp16.dec v
        else if fmt = 6 then f32 v else byteElem fmt v, x.2.2)

/-! ### Conversion (R193-R200, R207, R216) -/

/-- Conversion of an exact value to a format of Table 08-2. -/
def convert (fmt : Nat) (r : Rnd) (x : Fl) : Cvt :=
  match fmt with
  | 0 => cvtInt 8 r x
  | 1 => cvtInt 4 r x
  | 2 => e4m3.cvt r x
  | 3 => e5m2.cvt r x
  | 4 => bf16.cvt r x
  | 5 => fp16.cvt r x
  | _ => { q := x.w32 }

/-- E8M0 exponent of a block (R216). -/
def blkExp (fmt : Nat) (l : List Fl) : Nat :=
  if l.any Fl.isNan then 255
  else
    let x := l.foldl (fun a v => a.max v.abs) fl0
    match x with
    | .num _ m d e => if m = 0 then 0 else ((log2Q m d + e - (if fmt = 3 then 15 else 8) + 127).toNat |> min 254)
    | _ => 254

/-- The side mask of a drain: columns that go to the side tensor (R203). -/
def maskBit (mask : List Byte) (c : Nat) : Bool := (byteAt mask (c / 8)).testBit (c % 8)

/-- What converting a group counts. -/
structure Cnts where
  sat : Nat := 0
  nonfin : Nat := 0
  deriving DecidableEq, Repr

/-- Converts one row and writes it: main elements, block exponents behind them (log 33), and the side tensor. -/
def writeRow (n lc : Nat) (g : Grp) (fmt scale : Nat) (blk32 : Bool) (mask : List Byte)
    (rnd : Nat → Nat → Except Nat Rnd) (oofs sofs : Nat) (vals : List Nat) (r : Nat) (s : State) (k : Cnts) :
    State × Cnts × Option Nat :=
  let d := g.iss.d
  let cols := vals.length
  let bs := g.bs
  let runs := if bs = 0 then 1 else cdiv cols bs
  let per := if bs = 0 then cols else bs
  let sideOut := (byteAt d 8).testBit 7
  (List.range runs).foldl (fun (acc : State × Cnts × Option Nat) b =>
    match acc.2.2 with
    | some _ => acc
    | none =>
      let base := runOfs fmt bs oofs (leAt d 0x18 4) r b
      let cs := (List.range per).filter (fun c => b * per + c < cols)
      let xs := cs.map (fun c => f32 (vals.getD (b * per + c) 0))
      let exps := if blk32 then (List.range (cdiv xs.length 32)).map (fun j => blkExp fmt ((xs.drop (32 * j)).take 32)) else []
      let one := fun (c : Nat) =>
        let v := xs.getD c fl0
        let p := elemPos fmt bs c
        if sideOut && maskBit mask (b * per + c) then Except.ok ({ q := 0 } : Cvt)
        else if fmt = 6 then .ok { q := v.w32 }
        else
          match rnd (base + p.1) p.2 with
          | .error e => .error e
          | .ok rr =>
            if blk32 then
              let e := exps.getD (c / 32) 0
              if e = 255 then .ok { q := 0 } else .ok (convert fmt rr (v.mul (.num false 1 1 (127 - (e : Int)))))
            else if fmt ≤ 3 || scale != 0x3F800000 then .ok (convert fmt rr (v.div (f32 scale)))
            else .ok (convert fmt rr v)
      let cv := cs.map one
      match cv.findSome? (fun c => match c with
        | .error e => some e
        | .ok _ => none) with
      | some e => (acc.1, acc.2.1, some e)
      | none =>
        let qs := cv.map (fun c => match c with
          | .ok x => x
          | .error _ => { q := 0 })
        let k := acc.2.1
        let k := { sat := k.sat + (qs.filter (·.sat)).length, nonfin := k.nonfin + (qs.filter (·.nonfin)).length }
        let w := hWrite acc.1 n lc g.iss (byteAt d 0x10) base
          (packRun fmt bs (qs.map (·.q)) ++ (exps.map (BitVec.ofNat 8)))
        (w.1, k, w.2)) (s, k, none)
  |> fun acc =>
    if !sideOut || acc.2.2.isSome then acc
    else
      let side := ((List.range cols).filter (maskBit mask)).flatMap (fun c => leBytes 2 (bf16.cvt .rne (f32 (vals.getD c 0))).q)
      let w := hWrite acc.1 n lc g.iss (byteAt d 0x12) (sofs + r * leAt d 0x2C 4) side
      (w.1, acc.2.1, w.2)

/-- Converts and writes a group's rows in a format with a scale: what it counted, and the fault that stopped it
(R193-R204, R207, R210). The problems of a PPASS group follow one another in `vals`. -/
def writeGroup (s : State) (n lc : Nat) (g : Grp) (fmt scale : Nat) : State × Cnts × Option Nat :=
  let d := g.iss.d
  let ent := scaleEnt s n g.entry
  let quant := g.entry != 0xFFFF
  let sto := quant && (byteAt ent 0).testBit 3 && fmt < 6
  let blk32 := quant && (byteAt ent 0).testBit 4 && fmt ≤ 3
  let bd := if sto then binding s n lc g.entry else (s, .ok (0, 0, 0, 0))
  let s := bd.1
  let rnd := fun p b =>
    if !sto then Except.ok Rnd.rne
    else
      match bd.2 with
      | .error e => .error e
      | .ok (seed, step, tb, org) =>
        .ok (.sto (drawU seed 3 (callOf step g.entry) (drainG tb org ((p + iselOf g.iss (byteAt d 0x10)) % 2 ^ 32) b (elemW fmt))))
  let mk := if (byteAt d 8).testBit 7 then hRead s n lc g.iss (byteAt d 0x13) (leAt d 0x24 4 + 0xC00) 32 else (s, [], none)
  match mk.2.2 with
  | some e => (mk.1, {}, some e)
  | none =>
    let rows := leAt d 0xA 2
    let ps := match g.iss.pp with
      | some p => leAt p.2.1 0x34 4
      | none => 0
    ((List.range g.vals.length).zip g.vals).foldl (fun (acc : State × Cnts × Option Nat) q =>
      match acc.2.2 with
      | some _ => acc
      | none =>
        let j := g.q * g.pack + q.1 / rows
        writeRow n lc g fmt scale blk32 mk.2.1 rnd (leAt d 0x14 4 + j * ps) (leAt d 0x28 4) q.2 (q.1 % rows) acc.1 acc.2.1)
      (mk.1, {}, none)

/-- A_g: the largest finite quantise input of unmasked columns, as an FP32 word (R210). -/
def groupMax (g : Grp) (mask : List Byte) (useMask : Bool) : Nat :=
  (g.vals.map (fun r => ((List.range r.length).map (fun c =>
    let w := r.getD c 0 % 2 ^ 31
    if (useMask && maskBit mask c) || 0x7F800000 ≤ w then 0 else w)).foldl max 0)).foldl max 0

/-! ### The chain (R204, R205, R239-R241) -/

/-- Operands of a chain, column by column. -/
structure Chain where
  sw : List Byte
  bias : List Byte
  sv : List Byte
  lo : Fl
  hi : Fl
  tbl : List Byte
  th : Nat
  deriving DecidableEq, Repr

/-- FP32 value k of a parameter array. -/
def fpAt (l : List Byte) (k : Nat) : Fl := f32 (leAt l (4 * k) 4)

/-- TABLE (Table 09-8): one rounding of the exact interpolation. -/
def tableOp (h : Chain) (y : Fl) : Fl :=
  if y.isNan then .nan
  else if y.lt h.lo then fpAt h.tbl 0
  else if h.hi.le y then fpAt h.tbl 256
  else
    let t := ((y.sub h.lo).mul (.ofNat 256)).div (h.hi.sub h.lo)
    let i := t.floor.toNat
    let f := t.sub (.ofNat i)
    fl32 ((fpAt h.tbl i).add (f.mul ((fpAt h.tbl (i + 1)).sub (fpAt h.tbl i))))

/-- RELU: max(y, 0), a zero result positive; of a NaN the value is free (log 32). -/
def relu (y : Fl) : Fl :=
  if y.isNan then f32 Config.reluNan.toNat else if fl0.lt y then y else fl0

/-- Reads the parts of the parameter block that a chain uses (R240). -/
def readChain (s : State) (n lc : Nat) (i : Iss) (cols : Nat) : State × Chain × Option Nat :=
  let d := i.d
  let ops := drainOps d
  let rd := fun (acc : State × List (List Byte) × Option Nat) (q : Bool × Nat × Nat) =>
    match acc.2.2 with
    | some _ => acc
    | none =>
      if !q.1 then (acc.1, acc.2.1 ++ [[]], none)
      else
        let r := hRead acc.1 n lc i (byteAt d 0x13) (leAt d 0x24 4 + q.2.1) q.2.2
        (r.1, acc.2.1 ++ [r.2.1], r.2.2)
  let r := ([(true, 0, 4 * cols), (ops.contains 1, 0x400, 4 * cols), (ops.contains 2, 0x800, 4 * cols),
    ((byteAt d 8).testBit 3, 0xC20, 4), (ops.contains 3, 0xC24, 8), (ops.contains 3, 0xC40, 1028)] :
      List (Bool × Nat × Nat)).foldl rd (s, [], none)
  let g := fun k => r.2.1.getD k []
  let lo := fpAt (g 4) 0
  let hi := fpAt (g 4) 1
  let bad := ops.contains 3 && !(lo.isFin && hi.isFin && lo.lt hi)
  (r.1, { sw := g 0, bias := g 1, sv := g 2, lo := lo, hi := hi, tbl := g 5, th := leAt (g 3) 0 4 },
    if r.2.2.isSome then r.2.2 else if bad then some 4 else none)

/-- One value through the chain: rescale, side join, operations; the residual's element is read as it is met. -/
def chainVal (n lc : Nat) (i : Iss) (h : Chain) (bs : Nat) (sl : Slot) (side : Option Slot) (col0 r c : Nat) (s : State) :
    State × Fl × Option Nat :=
  let d := i.d
  let raw := sl.get (r % 16) (col0 + c)
  let acc := if sl.fp then f32 raw else .ofInt (sext 32 raw)
  let y := fl32 ((acc.mul (f32 sl.sIn)).mul (fpAt h.sw c))
  let y := match side with
    | some x => fAdd y (f32 (x.get (r % 16) (col0 + c)))
    | none => y
  (drainOps d).foldl (fun (a : State × Fl × Option Nat) op =>
    match a.2.2 with
    | some _ => a
    | none =>
      match op with
      | 1 => (a.1, fAdd a.2.1 (fpAt h.bias c), none)
      | 2 => (a.1, fMul a.2.1 (fpAt h.sv c), none)
      | 3 => (a.1, tableOp h a.2.1, none)
      | 4 => (a.1, relu a.2.1, none)
      | 5 =>
        match href a.1 n lc (byteAt d 0x11 % 64) with
        | none => (a.1, a.2.1, some 3)
        | some hr =>
          let e := readElem a.1 n lc i (byteAt d 0x11) hr.fmt bs (leAt d 0x1C 4) (leAt d 0x20 4) r c
          (e.1, fAdd a.2.1 (fMul e.2.1 (f32 hr.scale)), e.2.2)
      | _ => a) (s, y, none)

/-- The quantise inputs of rows of one problem's columns from column `col0`, as FP32 words. -/
def chainRows (n lc : Nat) (i : Iss) (h : Chain) (x : LEng) (who : Option Nat) (bs col0 cols rows : Nat) (s : State) :
    State × List (List Nat) × Option Nat :=
  let b := byteAt i.d 9
  (List.range rows).foldl (fun (acc : State × List (List Nat) × Option Nat) r =>
    match acc.2.2 with
    | some _ => acc
    | none =>
      let sl := x.slot (x.phys who (b % 16 + r / 16))
      let sd := if (byteAt i.d 8).testBit 2 then some (x.slot (x.phys who (b / 16 + r / 16))) else none
      let row := (List.range cols).foldl (fun (a : State × List Nat × Option Nat) c =>
        match a.2.2 with
        | some _ => a
        | none =>
          let v := chainVal n lc i h bs sl sd col0 r c a.1
          (v.1, a.2.1 ++ [v.2.1.w32], v.2.2)) (acc.1, [], none)
      (row.1, if row.2.2.isSome then acc.2.1 else acc.2.1 ++ [row.2.1], row.2.2)) (s, [], none)

/-- Checks that the drain's read makes of a slot range: storage of each slot, accumulate of each row of an INT pass
(R182, R183). Answers KIND, problem, slot, and row or column of each failure. -/
def drainChecks (x : LEng) (who : Option Nat) (slots : List Nat) (base rows : Nat) : List (Nat × Nat × Nat × Nat) :=
  let st := slots.flatMap (fun a => (x.slot (x.phys who a)).badCols.map (fun c =>
    (3, c / (256 / (x.slot (x.phys who a)).pack), a, c)))
  let ac := (List.range rows).flatMap (fun r =>
    let a := base + r / 16
    let sl := x.slot (x.phys who a)
    if !sl.acc then []
    else
      let per := 256 / sl.pack
      ((List.range sl.pack).filter (fun j =>
        ((List.range per).map (fun c => sl.get (r % 16) (per * j + c))).sum % 2 ^ 32 != tgetD sl.chkCol (8 * (r % 16) + j) 0)).map
        (fun j => (2, j, a, r % 16)))
  st ++ ac

/-- Stored bits inverted by errors in the rows drained. -/
def upset (x : LEng) (who : Option Nat) (base : Nat) (errs : List (Nat × Nat × Nat)) : LEng :=
  errs.foldl (fun x q =>
    let p := x.phys who (base + q.1 / 16)
    let sl := x.slot p
    let v := sl.get (q.1 % 16) q.2.1 ^^^ q.2.2
    { x with slots := tset x.slots p { sl with ent := tset0 sl.ent (256 * (q.1 % 16) + q.2.1) v } }) x

/-! ### Hazards (R284) -/

/-- EXCLUSIVE of a handle of a context. -/
def exclOf (s : State) (n lc h : Nat) : Bool := (tgetD (seq s n lc).handles h []).length != 0 &&
  (byteAt (tgetD (seq s n lc).handles h []) 0).testBit 2

/-- Records a same-row read and write in one cycle; through an EXCLUSIVE handle it faults the writer's context. -/
def hazard (s : State) (n lc : Nat) (i : Iss) (writer : Nat) (z : Hz) : State :=
  let pg := corePg z.core
  let b := (z.row % 16) ^^^ (z.row / 16 % 16)
  let ex := (z.wh < 64 && exclOf s n lc z.wh) || (z.rh < 64 && exclOf s z.rctx z.rlc z.rh)
  let s := bumpR s pg (0x4C0 + 4 * b) 1
  let s := putR s pg 0x404 (word (b2n ex <<< 31 ||| b <<< 27 ||| (z.row / 16 % 4096) <<< 15 ||| writer <<< 12 ||| n))
  if ex then seqFault s n lc i 0x10 pg else s

/-! ### Commit of a tensor (R208, R212, R279) -/

/-- Records A_inv, s and the level of an entry's committed tensor, to be written when the invocation completes (R208,
R209): A_inv is the maximum over all its groups. -/
def recordScale (s : State) (n entry a sc level : Nat) : State :=
  updCtx s n (fun c => { c with scaleUpd := tmodD c.scaleUpd entry (0, 0, 0) (fun q => (max q.1 a, sc, level)) })

/-- Groups of an entry over every logical core of a context, with their logical core. -/
def groupsOf (s : State) (n entry : Nat) (p : Grp → Bool) : List (Nat × Grp) :=
  (lcores s n).flatMap (fun l => ((seq s n l).grps.filter (fun g => g.entry == entry && p g)).map (fun g => (l, g)))

/-- Replaces a group of a logical core. -/
def setGrp (s : State) (n lc : Nat) (g : Grp) : State :=
  updSeq s n lc (fun q => { q with grps := q.grps.map (fun x =>
    if x.iss.addr == g.iss.addr && x.iss.iter == g.iss.iter && x.q == g.q then g else x) })

/-- What converting a group adds to the core's counts. -/
def addCnts (s : State) (pg : Nat) (k : Cnts) : State :=
  let s := if k.sat = 0 then s else putR64 s pg 0x304 (getR64 s pg 0x304 + k.sat)
  if k.nonfin = 0 then s else bumpR s pg 0x30C k.nonfin

/-- FMT_SAT_LAST (R220). -/
def satLast (s : State) (n lc entry level : Nat) : State :=
  putR s (lcPg s n lc) 0x300 (word (level <<< 30 ||| entry <<< 20 ||| n <<< 8 ||| leAt (ctx s n).recd 4 2 % 256))

/-- The wide path's decision for a group drained at a level (Table 08-4 step 3): within SAT_LIMIT its shadow slots
commit and (L, A_g) is recorded; above it the level is raised and the group drained again from its held values; above
it at level 2 the context faults. `fuel` covers the three levels. -/
def crossedDecide (n lc : Nat) (g : Grp) (fmt scale : Nat) : Nat → State → State × Grp × Option Nat
  | 0, s => (s, g, none)
  | fuel + 1, s =>
    let ent := scaleEnt s n g.entry
    let wc := leAt ent 2 2
    let L := levelOf (clv s wc).toNat
    let w := writeGroup s n lc g (levelFmt fmt L) scale
    let s := addCnts w.1 (lcPg s n lc) w.2.1
    match w.2.2 with
    | some e => (s, g, some e)
    | none =>
      if w.2.1.sat ≤ leAt ent 4 4 then (s, { g with level := L }, none)
      else
        let s := satLast s n lc g.entry L
        if 2 ≤ L then (bumpR s (lcPg s n lc) 0x318 1, g, some 0x0F)
        else
          let add := if L = 0 && (byteAt ent 0).testBit 2 then 1 else 65536
          let old := clv s wc
          let s := { clvAdd s wc add with claveLast := tset s.claveLast wc old }
          crossedDecide n lc g fmt scale fuel s

/-- A group's re-run at the final level (Table 08-4 step 4): the groups recorded below it are executed again. By R213
their quantise inputs are those already formed (log 34). -/
def rerun (n : Nat) (fmt scale : Nat) (q : Nat × Grp) (s : State) : State × Option Nat :=
  let ent := scaleEnt s n q.2.entry
  let F := levelOf (clv s (leAt ent 2 2)).toNat
  if F ≤ q.2.level then (s, none)
  else
    let s := bumpR s (lcPg s n q.1) 0x31C 1
    let r := crossedDecide n q.1 q.2 fmt scale 3 s
    (setGrp r.1 n q.1 r.2.1, r.2.2)

end Sys2Proof.Machine
end

