-- ==== Sys2Proof/Machine/Engines.lean ====
section
/-!
DEFINITION. Machine/Engines.lean: the commands of the engines and the drain unit: passes, drains, the CROSSED commit,
pauses and injections (R162-R189, R205-R215, R231-R243).
-/
namespace Sys2Proof.Machine

/-! ### Engine registers -/

/-- A write of BLK_CTRL.PAUSE of an engine (R186): its executing and loading passes run to completion, and it holds
behind them. -/
def enginePause (s : State) (page : Nat) (on : Bool) : State :=
  let c := (page - 0x040) / 4
  let e := (page - 0x040) % 4
  let was := engPaused s c e
  let s := updBlk s page (fun b => { b with ctrl := Tri.all (setBits b.ctrl.maj 8 8 (b2n on)) })
  let s := if on && was then s
    else (onCore s c).foldl (fun s q => updSeq s q.1 q.2 (fun x =>
      let mine := x.issued.filter (fun i => i.isPass && i.engine == e)
      let run := (mine.filter x.clear).take 2
      { x with issued := x.issued.map (fun i =>
        if i.isPass && i.engine == e then { i with begun := on && run.contains i } else i) })) s
  engStatus s c e

/-- ENGINE_PAUSE_WRITE. -/
def execEnginePauseWrite (m : Master) (page : Nat) (on : Bool) (s : State) : Host.Outcome State Fault Refusal :=
  .next (if isEngine page then guarded m page 0x014 s (fun s => enginePause s page on) else s)

/-- A write of ENG_INJECT (R188): one injection is armed; KIND 0 drops the write. -/
def engInject (s : State) (page : Nat) (v : Word) : State :=
  if !bit v 31 || bits v 30 29 = 0 then s
  else { s with engs := tset s.engs (page - 0x040) { inject := some (bits v 30 29, bits v 7 0) } }

/-- ENG_INJECT_ARM. -/
def execEngInjectArm (m : Master) (page : Nat) (v : Word) (s : State) : Host.Outcome State Fault Refusal :=
  .next (if isEngine page then guarded m page 0x130 s (fun s => engInject s page v) else s)

/-! ### Issue of passes and drains -/

/-- The first DRAIN ahead in the stream that drains slots of a pass, by its SCALE_ENTRY (R174, R212). -/
def drainAhead (s : State) (i : Iss) (a : Nat) : Nat → Option Nat
  | 0 => none
  | k + 1 =>
    let d := rdMem s a 64
    let j : Iss := { addr := a, d := d }
    if j.kind = 4 && j.engine == i.engine && j.slots.any (fun x => i.slots.contains x) then some (leAt d 0xE 2)
    else drainAhead s i (a + 64) k

/-- Issues a pass on its engine, unless the engine holds four (R165). An untagged pass that a CROSSED entry's DRAIN
ahead drains is held for a possible re-run. -/
def passIssue (n lc : Nat) (i : Iss) (s : State) : State :=
  let q := seq s n lc
  if 4 ≤ passesOf s q.core i.engine then stall s q.core 1
  else
    let ent := drainAhead s i (q.pc + 64) ((q.stop - q.pc) / 64)
    let wide := i.tag.isNone && (match ent with
      | some e => e != 0xFFFF && crossedEnt s n e
      | none => false)
    let prog := tgetD q.progAt i.addr 0
    let i := { i with wide := wide, prog := prog, begun := false }
    let s := updSeq s n lc (fun q => { q with progAt := tdel q.progAt i.addr })
    engStatus (enqueue s n lc i) q.core i.engine

/-- MPASS: one pass on one engine (R231). -/
def execMpass (n lc : Nat) (s : State) : Host.Outcome State Fault Refusal :=
  .next (issue s n lc (isOp 1) (passIssue n lc))

/-- PPASS: the next descriptor must be a DRAIN on the same engine (R235-R237). -/
def ppassIssue (n lc : Nat) (i : Iss) (s : State) : State :=
  let q := seq s n lc
  let d := rdMem s (q.pc + 64) 64
  if q.stop ≤ q.pc + 64 || byteAt d 0 != 4 || byteAt d 8 % 4 != i.engine then seqFault s n lc i 0x13 (corePg q.core)
  else
    let s' := passIssue n lc i s
    updSeq s' n lc (fun x => if x.pc = q.pc then x else { x with ppass := some i })

/-- PPASS. -/
def execPpass (n lc : Nat) (s : State) : Host.Outcome State Fault Refusal :=
  .next (issue s n lc (isOp 2) (ppassIssue n lc))

/-- CPASS: one output row segment of a window operator (R238, R261, R264). -/
def execCpass (n lc : Nat) (s : State) : Host.Outcome State Fault Refusal :=
  .next (issue s n lc (isOp 3) (passIssue n lc))

/-- DRAIN: a PRED drain may not carry its own tag; one behind a PPASS covers one problem's columns (R237, R243). -/
def drainIssue (n lc : Nat) (i : Iss) (s : State) : State :=
  let q := seq s n lc
  let pg := corePg q.core
  if (byteAt i.d 8).testBit 3 && i.tag == some (byteAt i.d 0xC / 32) then seqFault s n lc i 0x13 pg
  else
    let pp := q.ppass.filter (fun p => p.addr + 64 == i.addr)
    match pp with
    | some p =>
      if byteAt i.d 0xC % 32 * byteAt p.d 0x12 != 16 then seqFault s n lc i 0x04 pg
      else
        let done' := tgetD q.progAt i.addr 0
        updSeq (enqueue s n lc { i with pp := some (p.addr, p.d, p.idx), prog := done' }) n lc
          (fun x => { x with ppass := none })
    | none => enqueue s n lc i

/-- DRAIN. -/
def execDrain (n lc : Nat) (s : State) : Host.Outcome State Fault Refusal :=
  .next (issue s n lc (isOp 4) (drainIssue n lc))

/-! ### Completion of a pass -/

/-- Groups that the DRAIN behind a PPASS has drained. -/
def groupsDrained (q : Seq) (p : Iss) : Nat :=
  match q.issued.find? (fun i => i.kind == 4 && (match i.pp with
    | some x => x.1 == p.addr
    | none => false)) with
  | some i => i.prog
  | none => 0

/-- A PPASS may run its next pass: its slots are not those of a group still to be drained (R164, R237). -/
def ppassMay (q : Seq) (p : Iss) : Bool :=
  let grp := p.prog / byteAt p.d 0x13
  p.kind != 2 || decide (grp < groupsDrained q p + (if (byteAt p.d 8).testBit 2 then 2 else 1))

/-- The injection that an engine still holds after a run. -/
def setInject (s : State) (c e : Nat) (inj : Option (Nat × Nat)) : State :=
  { s with engs := if inj.isNone then tdel s.engs (4 * c + e) else tset s.engs (4 * c + e) { inject := inj } }

/-- Counters of a completed window descriptor (R271). -/
def winCount (s : State) (pg : Nat) (i : Iss) : State :=
  if i.kind != 3 then s
  else
    let s := bumpR s pg 0x380 1
    if (byteAt i.d 8).testBit 2 then bumpR s pg 0x384 1 else s

/-- What a run of pass k leaves: its counts, the failures of its checks, its fault, and the pass or descriptor done. -/
def passAfter (s : State) (n lc : Nat) (i : Iss) (f : ExecFact) (r : Run × Plan) : State :=
  let c := (seq s n lc).core
  let e := i.engine
  let pg := engPg c e
  let u := r.1
  let s := updSeq u.s n lc (fun q => q.setEng e u.e)
  let s := if u.used = 0 then s else bumpN (setInject s c e u.inj) pg 7 u.used
  let s := putR64 s pg 0x110 (getR64 s pg 0x110 + busC r.2.mode * u.rows)
  let s := u.fails.foldl (fun s q => chkFail s n lc i pg 1 q.2 (r.2.base + q.1 / 16) q.1) s
  match u.fault with
  | some code => seqFault s n lc i code (if code = 8 then corePg c else pg)
  | none =>
    let s := bump s pg 0
    if i.prog + 1 < i.passes then setIss s n lc { i with prog := i.prog + 1, begun := false }
    else retire (winCount s (corePg c) i) n lc i f.past

/-- PASS_COMPLETE: the executing pass of an engine has written and checked every row (R164, R168). It is the oldest
pass issued there, when nothing earlier holds it back; it waits for a free shadow slot (R175). -/
def passComplete (s : State) (n lc e : Nat) (f : ExecFact) : State :=
  let q := seq s n lc
  match q.issued.find? (fun i => i.isPass && i.engine == e) with
  | none => s
  | some i =>
    let pg := engPg q.core e
    if !seqLive s n lc || !q.clear i || gatesOf s n lc i != 0 || !ppassMay q i ||
        (engStops s q.core e && !i.begun && byteAt i.d 1 % 4 == 0) then s
    else
      match passRun s n lc i i.prog f with
      | none => if statusBit s pg 11 then s else setStatus (bump s pg 5) pg 11 true
      | some r => engStatus (setStatus (passAfter s n lc i f r) pg 11 false) q.core e

/-- PASS_COMPLETE. -/
def execPassComplete (n lc e : Nat) (f : ExecFact) (s : State) : Host.Outcome State Fault Refusal :=
  .next (passComplete s n lc e f)

/-! ### Completion of a drain -/

/-- What the PROVISIONAL handles of a drain ask of it (R293): groups of one CROSSED tensor share its output handle. -/
def drainGate (s : State) (n lc : Nat) (i : Iss) : Nat :=
  let ent := leAt i.d 0xE 2
  let own := fun (h : Nat) => i.tag.isNone && (match href s n lc h with
    | some r => r.wide && (groupsOf s n ent (fun g => g.crossed && !g.closed)).any (fun g => byteAt g.2.iss.d 0x10 % 64 == h)
    | none => false)
  let g := i.reads.map (fun h => hGate s n lc i h false) ++
    i.writes.map (fun h => if own h then 0 else hGate s n lc i h true)
  if g.contains 2 then 2 else if g.contains 1 then 1 else 0

/-- A condition of PRED_OP (R243): a NaN meets none. -/
def predMeets (op : Nat) (y th : Fl) : Bool :=
  match op with
  | 0 => th.le y
  | 1 => th.lt y
  | 2 => y.lt th
  | _ => y.le th

/-- The predicate of a drain over its rows. -/
def predOf (d : List Byte) (vals : List (List Nat)) (th : Nat) : Bool :=
  let c := byteAt d 8
  let l := vals.map (fun r => predMeets (c / 16 % 4) (f32 (r.getD (byteAt d 0xD) 0)) (f32 th))
  if c.testBit 6 then l.all id else l.any id

/-- Marks the handles a tagged or CROSSED drain writes PROVISIONAL (R293, R304). -/
def drainMarks (s : State) (n lc : Nat) (i : Iss) (crossed : Bool) : State :=
  match i.tag with
  | some t =>
    i.writes.foldl (fun s h =>
      match href s n lc h with
      | some r => if r.prov then s else hTensor (hProv s n lc h true t false) n lc h 0xFF 0x3F800000
      | none => s) s
  | none => if crossed then i.writes.foldl (fun s h => hProv s n lc h true 0 true) s else s

/-- Converts a group that is not CROSSED and records its tensor (R207-R210, R279). With staging, every group of the
tensor is converted at the scale of all of them. -/
def plainGroup (s : State) (n lc : Nat) (g : Grp) : State × Option Nat :=
  let pg := lcPg s n lc
  let oh := byteAt g.iss.d 0x10 % 64
  if g.entry = 0xFFFF then
    let w := writeGroup s n lc g 6 0x3F800000
    (hTensor w.1 n lc oh 6 0x3F800000, w.2.2)
  else
    let ent := scaleEnt s n g.entry
    let fmt := byteAt ent 1
    let others := groupsOf s n g.entry (fun x => x.staged)
    let a := others.foldl (fun a x => max a x.2.a) g.a
    let sc := if 4 ≤ fmt || (byteAt ent 0).testBit 4 then 0x3F800000
      else if g.staged then scaleOf a fmt else scaleOf (leAt ent 12 4) fmt
    let s := if g.staged && others.isEmpty then bumpR s pg 0x320 1 else s
    let w := writeGroup s n lc g fmt sc
    match w.2.2 with
    | some e => (w.1, some e)
    | none =>
      let s := hTensor (addCnts w.1 pg w.2.1) n lc oh fmt sc
      let s := if g.staged then
          others.foldl (fun s x => hTensor (writeGroup s n x.1 x.2 fmt sc).1 n x.1 (byteAt x.2.iss.d 0x10 % 64) fmt sc) s
        else s
      let s := if g.iss.tag.isNone then recordScale s n g.entry g.a sc 0 else s
      let s := if g.staged || g.iss.tag.isSome then updSeq s n lc (fun q => { q with grps := q.grps ++ [{ g with closed := true }] })
        else s
      (s, none)

/-- Drains a CROSSED group and decides it (Table 08-4 steps 2 and 3). -/
def crossedGroup (s : State) (n lc : Nat) (g : Grp) (slots : List Nat) : State × Option Nat :=
  let ent := scaleEnt s n g.entry
  let fmt := byteAt ent 1
  let others := groupsOf s n g.entry (fun x => x.staged)
  let a := others.foldl (fun a x => max a x.2.a) g.a
  let sc := if g.staged then scaleOf a fmt else scaleOf (leAt ent 12 4) fmt
  let s := if g.staged && others.isEmpty then bumpR s (lcPg s n lc) 0x320 1 else s
  let r := crossedDecide n lc g fmt sc 3 s
  match r.2.2 with
  | some e => (r.1, some e)
  | none =>
    let s := r.1
    let s := if g.staged then
        others.foldl (fun s x => (writeGroup s n x.1 x.2 (levelFmt fmt x.2.level) sc).1) s
      else s
    let s := updSeq s n lc (fun q =>
      let q := { q with grps := q.grps ++ [r.2.1] }
      if g.iss.tag.isNone then q.setEng g.iss.engine ((q.eng g.iss.engine).commit 8 slots) else q)
    (s, none)

/-- One run of a drain: group k of a PPASS, or the whole of another. Answers the fault that stopped it. -/
def drainRun (s : State) (n lc : Nat) (i : Iss) (k : Nat) (f : ExecFact) : State × Option Nat :=
  let q := seq s n lc
  let pg := corePg q.core
  let ep := engPg q.core i.engine
  let d := i.d
  let rows := leAt d 0xA 2
  let alt := match i.pp with
    | some p => if (byteAt p.2.1 8).testBit 2 && k % 2 = 1 then cdiv (leAt p.2.1 0xC 2) 16 else 0
    | none => 0
  let d' := putAt d 9 (leBytes 1 ((byteAt d 9 % 16 + alt) % 16 + byteAt d 9 / 16 * 16))
  let j := { i with d := d' }
  let base := byteAt d 9 % 16 + alt
  let slots := (List.range (cdiv rows 16)).map (base + ·)
  let sides := if (byteAt d 8).testBit 2 then (List.range (cdiv rows 16)).map (byteAt d 9 / 16 + ·) else []
  if f.par then (bumpR s pg 0x414 1, some 8)
  else if (slots ++ sides).any (fun a => 15 < a) then (s, some 1)
  else
    let ent := leAt d 0xE 2
    let quant := ent != 0xFFFF
    let eb := if quant && ent < scaleN s n then unitRead s (scaleTab s n + 128 * ent) 128 else (s, [], true)
    let s := eb.1
    if !eb.2.2 then (s, some 8)
    else if quant && (scaleN s n ≤ ent || !entryOk eb.2.1) then (s, some 4)
    else
      let crossed := quant && crossedEnt s n ent
      if crossed && !clvOwned s (leAt (scaleEnt s n ent) 2 2) n then (s, some 0x0C)
      else
        let who := match i.tag with
          | some t => some t
          | none => if crossed then some 8 else none
        let x := upset (q.eng i.engine) who base f.errs
        let bad := drainChecks x who (slots ++ sides) base rows
        if !bad.isEmpty then
          (bad.foldl (fun s b => chkFail s n lc i ep b.1 b.2.1 b.2.2.1 b.2.2.2) s, some 0)
        else
          let cols := 16 * (byteAt d 0xC % 32)
          let h := readChain s n lc j cols
          match h.2.2 with
          | some e => (h.1, some e)
          | none =>
            let s0 := x.slot (x.phys who base)
            let bs := s0.bs
            let pk := match i.pp with
              | some p => byteAt p.2.1 0x12
              | none => 1
            let np := match i.pp with
              | some p => min pk (leAt p.2.1 0x10 2 - k * pk)
              | none => 1
            let v := (List.range np).foldl (fun (acc : State × List (List Nat) × Option Nat) m =>
              match acc.2.2 with
              | some _ => acc
              | none =>
                let r := chainRows n lc j h.2.1 x who bs (m * 256 / pk) cols rows acc.1
                (r.1, acc.2.1 ++ r.2.1, r.2.2)) (h.1, [], none)
            match v.2.2 with
            | some e => (v.1, some e)
            | none =>
              let mask := if (byteAt d 8).testBit 7 then hRead v.1 n lc i (byteAt d 0x13) (leAt d 0x24 4 + 0xC00) 32 else (v.1, [], none)
              let g0 : Grp := { entry := ent, iss := i, q := k, bs := bs, pack := pk, vals := v.2.1, crossed := crossed,
                                staged := quant && byteAt (scaleEnt s n ent) 1 ≤ 3 && !(byteAt (scaleEnt s n ent) 0).testBit 4 &&
                                  (byteAt (scaleEnt s n ent) 0 % 4 == 2 || leAt (scaleEnt s n ent) 8 4 == 0) }
              let g := { g0 with a := groupMax g0 mask.2.1 ((byteAt d 8).testBit 7) }
              let s := drainMarks mask.1 n lc i crossed
              let r := if crossed then crossedGroup s n lc g slots else plainGroup s n lc g
              match r.2 with
              | some e => (r.1, some e)
              | none =>
                let s := f.hz.foldl (fun s z => hazard s n lc i 3 z) r.1
                if (byteAt d 8).testBit 3 then
                  (predVerdict s n lc (byteAt d 0xC / 32) i (predOf d v.2.1 h.2.1.th), none)
                else (s, none)

/-- DRAIN_COMPLETE: the drain unit serves the DRAINs in issue order (R242). -/
def drainComplete (s : State) (n lc : Nat) (f : ExecFact) : State :=
  let q := seq s n lc
  match q.issued.find? (fun i => i.kind == 4) with
  | none => s
  | some i =>
    let pg := corePg q.core
    let grps := match i.pp with
      | some p => cdiv (leAt p.2.1 0x10 2) (byteAt p.2.1 0x12)
      | none => 1
    let ready' := match i.pp with
      | some p =>
        match q.issued.find? (fun j => j.kind == 2 && j.addr == p.1) with
        | some j => decide ((i.prog + 1) * byteAt p.2.1 0x13 ≤ j.prog)
        | none => true
      | none => true
    let gt := drainGate s n lc i
    if !seqLive s n lc || !q.clear i || !ready' || gt = 1 then s
    else if gt = 2 then
      match i.tag with
      | some t => deferFault s n lc i t 0x13
      | none => s
    else
      let r := drainRun s n lc i i.prog f
      match r.2 with
      | some 0 => r.1
      | some code => seqFault r.1 n lc i code pg
      | none =>
        if i.prog + 1 < grps then setIss r.1 n lc { i with prog := i.prog + 1 }
        else retire r.1 n lc i f.past

/-- DRAIN_COMPLETE. -/
def execDrainComplete (n lc : Nat) (f : ExecFact) (s : State) : Host.Outcome State Fault Refusal :=
  .next (drainComplete s n lc f)

/-! ### The CROSSED commit -/

/-- Re-runs the groups below the final level, until none is (Table 08-4 step 4). -/
def rerunAll (n fmt scale entry : Nat) : Nat → State → State × Option (Nat × Grp × Nat)
  | 0, s => (s, none)
  | k + 1, s =>
    let r := (groupsOf s n entry (fun g => g.crossed && !g.closed)).foldl
      (fun (acc : State × Option (Nat × Grp × Nat)) q =>
        match acc.2 with
        | some _ => acc
        | none =>
          let x := rerun n fmt scale q acc.1
          (x.1, x.2.map (fun e => (q.1, q.2, e)))) (s, none)
    match r.2 with
    | some _ => r
    | none => rerunAll n fmt scale entry k r.1

/-- CROSSED_TENSOR_COMMIT (Table 08-4 steps 4 and 5): the rows become visible with format F and scale s, and the
history is recorded; a tagged group's rows pass to its tag's hold (R305). -/
def crossedCommit (s : State) (n entry : Nat) : State :=
  let gs := groupsOf s n entry (fun g => g.crossed && !g.closed)
  let busy := (lcores s n).any (fun l => (seq s n l).issued.any (fun i => i.kind == 4 && leAt i.d 0xE 2 == entry))
  match gs with
  | [] => s
  | g0 :: _ =>
    if busy || (ctx s n).st != .running then s
    else
      let ent := scaleEnt s n entry
      let fmt := byteAt ent 1
      let a := gs.foldl (fun a x => max a x.2.a) 0
      let sc := if g0.2.staged then scaleOf a fmt else scaleOf (leAt ent 12 4) fmt
      let r := rerunAll n fmt sc entry 3 s
      match r.2 with
      | some (lc, g, e) => seqFault r.1 n lc g.iss e (lcPg r.1 n lc)
      | none =>
        let s := r.1
        let F := levelOf (clv s (leAt ent 2 2)).toNat
        let s := gs.foldl (fun s x =>
          let h := byteAt x.2.iss.d 0x10 % 64
          let s := hTensor s n x.1 h (levelFmt fmt F) sc
          if x.2.iss.tag.isSome then s
          else x.2.iss.writes.foldl (fun s h => hProv s n x.1 h false 0 false) s) s
        let close := fun (l : List Grp) =>
          (l.filter (fun g => !(g.entry == entry && g.crossed && g.iss.tag.isNone))).map (fun g =>
            if g.entry == entry && g.crossed then { g with closed := true, level := F } else g)
        let s := (lcores s n).foldl (fun s l => updSeq s n l (fun q => { q with grps := close q.grps })) s
        let un := (gs.filter (fun x => x.2.iss.tag.isNone)).foldl (fun a x => max a x.2.a) 0
        let s := if gs.any (fun x => x.2.iss.tag.isNone) then recordScale s n entry un sc F else s
        let pg := lcPg s n g0.1
        if F = 1 then bumpR s pg 0x310 1 else if F = 2 then bumpR s pg 0x314 1 else s

/-- CROSSED_TENSOR_COMMIT. -/
def execCrossedTensorCommit (n entry : Nat) (s : State) : Host.Outcome State Fault Refusal :=
  .next (crossedCommit s n entry)

/-- What a tag's commit records of one of its groups (R208, R305). -/
def recordGrp (n : Nat) (s : State) (g : Grp) : State :=
  let ent := scaleEnt s n g.entry
  let sc := if g.staged then scaleOf g.a (byteAt ent 1) else scaleOf (leAt ent 12 4) (byteAt ent 1)
  recordScale s n g.entry g.a sc g.level

end Sys2Proof.Machine
end

