-- ==== Sys2Proof/Machine/Sequencer.lean ====
section
/-!
DEFINITION. Machine/Sequencer.lean: waits, signals, claims, fences and tags of a stream (R248-R253, R289-R299), and the
events of a core's scratchpad (R285-R288).
-/
namespace Sys2Proof.Machine

/-! ### WAIT (R250) -/

/-- The context's default watchdog budget in ticks (R311). -/
def wdogTicks (s : State) (n : Nat) : Nat := leAt (ctx s n).recd 0x1C 4 * Config.tUs

/-- A WAIT starts to wait: its window is [issue, issue + budget). -/
def waitIssue (n lc : Nat) (i : Iss) (s : State) : State :=
  let d := i.d
  let k := leAt d 0xA 2
  let cl := (byteAt d 8).testBit 0
  let isel := byteAt d 8 / 4 % 4
  let th := (leAt d 0xC 4 + (if isel = 0 then 0 else i.idx.getD (isel - 1) 0)) % 2 ^ 32
  if cl && !clvOwned s k n then seqFaultNow s n lc i 0x0C (lcPg s n lc)
  else
    let b := leAt d 0x10 4
    updSeq s n lc (fun q => { q with
      st := 2, wait := some { clave := cl, lc := byteAt d 9, ctr := k, thresh := word th, since := now s,
                              budget := if b = 0 then wdogTicks s n else b } })

/-- WAIT_ROW_READY. -/
def execWaitRowReady (n lc : Nat) (s : State) : Host.Outcome State Fault Refusal :=
  .next (issue s n lc (fun d => isOp 0x10 d && !(byteAt d 8).testBit 0) (waitIssue n lc))

/-- WAIT_CLAVE. -/
def execWaitClave (n lc : Nat) (s : State) : Host.Outcome State Fault Refusal :=
  .next (issue s n lc (fun d => isOp 0x10 d && (byteAt d 8).testBit 0) (waitIssue n lc))

/-- The value that a WAIT waits on. -/
def waitValue (s : State) (n : Nat) (w : Wait) : Word := if w.clave then clv s w.ctr else tgetD (seq s n w.lc).rrc w.ctr 0

/-- A counter has met THRESH: (value − THRESH) mod 2^32 < 2^31. -/
def meets (v th : Word) : Bool := decide ((v - th).toNat < 2 ^ 31)

/-- CLK_CORE cycles spent waiting are added to SEQ_WAIT_CYC: four a tick at 640 MHz (R254). -/
def addWaitCyc (s : State) (n lc since : Nat) : State :=
  let pg := lcPg s n lc
  putR64 s pg 0x220 (getR64 s pg 0x220 + 4 * (now s - since))

/-- The descriptor at the PC. -/
def atPc (s : State) (n lc : Nat) : Iss := nextIss s n lc (rdMem s (seq s n lc).pc 64)

/-- WAIT_SATISFIED. -/
def waitSatisfied (s : State) (n lc : Nat) : State :=
  match (seq s n lc).wait with
  | none => s
  | some w =>
    if !seqLive s n lc || !meets (waitValue s n w) w.thresh then s
    else
      let s := addWaitCyc s n lc w.since
      let s := updSeq s n lc (fun q => { q with wait := none, st := 1 })
      immediate s n lc (atPc s n lc) false

/-- WAIT_SATISFIED. -/
def execWaitSatisfied (n lc : Nat) (s : State) : Host.Outcome State Fault Refusal := .next (waitSatisfied s n lc)

/-- WAIT_WATCHDOG_EXPIRY: a WAIT still waiting when its window ends faults its context; so does a BARRIER that has waited
WDOG_US (Table 21-5). -/
def waitExpiry (s : State) (n lc : Nat) : State :=
  match (seq s n lc).wait with
  | none =>
    match (seq s n lc).barrier with
    | some (_, since) =>
      if !seqLive s n lc || now s < since + wdogTicks s n then s
      else seqFaultNow (addWaitCyc s n lc since) n lc (atPc s n lc) 0x09 (lcPg s n lc)
    | none => s
  | some w =>
    if !seqLive s n lc || now s < w.since + w.budget then s
    else seqFaultNow (addWaitCyc s n lc w.since) n lc (atPc s n lc) 0x09 (lcPg s n lc)

/-- WAIT_WATCHDOG_EXPIRY. -/
def execWaitWatchdogExpiry (n lc : Nat) (s : State) : Host.Outcome State Fault Refusal := .next (waitExpiry s n lc)

/-! ### SIGNAL (R249, R251) -/

/-- The effect of a SIGNAL: on a row-ready counter of its own core, or at the hub. -/
def signalDo (n lc : Nat) (d : List Byte) (s : State) : State :=
  let k := leAt d 0xA 2
  let v := leAt d 0xC 4
  if !(byteAt d 8).testBit 0 then
    updSeq s n lc (fun q => { q with rrc := tset q.rrc k (tgetD q.rrc k 0 + word v) })
  else if (byteAt d 8).testBit 1 then clvSet s k (word v)
  else
    let old := clv s k
    let s := clvAdd s k v
    { s with claveLast := tset s.claveLast k old }

/-- A SIGNAL takes effect once every earlier descriptor has completed and is visible; a tagged one is held (R249,
R294). -/
def signalIssue (n lc : Nat) (i : Iss) (s : State) : State :=
  let q := seq s n lc
  if (byteAt i.d 8).testBit 0 && !clvOwned s (leAt i.d 0xA 2) n then seqFaultNow s n lc i 0x0C (corePg q.core)
  else if i.tag.isSome then
    if 16 ≤ q.held.length then stall s q.core 4
    else advance (updSeq s n lc (fun q => { q with held := q.held ++ [i] })) n lc i
  else if !q.issued.isEmpty then s
  else immediate (signalDo n lc i.d s) n lc i false

/-- SIGNAL_ROW_READY. -/
def execSignalRowReady (n lc : Nat) (s : State) : Host.Outcome State Fault Refusal :=
  .next (issue s n lc (fun d => isOp 0x11 d && !(byteAt d 8).testBit 0) (signalIssue n lc))

/-- SIGNAL_CLAVE. -/
def execSignalClave (n lc : Nat) (s : State) : Host.Outcome State Fault Refusal :=
  .next (issue s n lc (fun d => isOp 0x11 d && byteAt d 8 % 4 == 1) (signalIssue n lc))

/-- SIGNAL_CLAVE_SET. -/
def execSignalClaveSet (n lc : Nat) (s : State) : Host.Outcome State Fault Refusal :=
  .next (issue s n lc (fun d => isOp 0x11 d && byteAt d 8 % 4 == 3) (signalIssue n lc))

/-! ### CLAIM (R252) -/

/-- A CLAIM's body may hold neither a CLAIM nor anything behind the stream's END. -/
def bodyOk (s : State) (a : Nat) : Nat → Bool
  | 0 => true
  | k + 1 =>
    let d := rdMem s a 16
    byteAt d 0 != 0x12 && !(byteAt d 0 == 0x30 && byteAt d 8 == 3 && k != 0) && bodyOk s (a + 64) k

/-- CLAIM opens a loop over its next BODY descriptors; the first take is due. -/
def claimIssue (n lc : Nat) (i : Iss) (s : State) : State :=
  let q := seq s n lc
  let d := i.d
  let k := leAt d 0xA 2
  let body := leAt d 0xC 2
  let lease := (byteAt d 8).testBit 0
  if !clvOwned s k n || (lease && !bit (getR s 0x190 (0x804 + 16 * k)) 30) then seqFaultNow s n lc i 0x0C (corePg q.core)
  else if q.stop < q.pc + 64 * (body + 1) || !bodyOk s (q.pc + 64) body || q.claim.isSome then
    seqFaultNow s n lc i 0x13 (corePg q.core)
  else
    let c : Claim := { ctr := k, lease := lease, body := q.pc + 64, stop := q.pc + 64 * (body + 1), step := leAt d 0xE 2,
                       limit := leAt d 0x10 4, mul := [leAt d 0x14 4, leAt d 0x18 4, leAt d 0x1C 4] }
    updSeq (immediate s n lc i false) n lc (fun q => { q with claim := some c })

/-- CLAIM. -/
def execClaim (n lc : Nat) (s : State) : Host.Outcome State Fault Refusal :=
  .next (issue s n lc (isOp 0x12) (claimIssue n lc))

/-- The hub's answer to a take: the lowest returned value, else the counter, to which STEP is added below LIMIT. -/
def hubTake (s : State) (k : Claim) : State × Nat :=
  match tgetD s.returns k.ctr [] with
  | v :: t => ({ s with returns := if t.isEmpty then tdel s.returns k.ctr else tset s.returns k.ctr t,
                        claveLast := tset s.claveLast k.ctr (word v) }, v)
  | [] =>
    let v := clv s k.ctr
    let s := if v.toNat < k.limit then clvAdd s k.ctr k.step else s
    ({ s with claveLast := tset s.claveLast k.ctr v }, v.toNat)

/-- CLAIM_TAKE: at LIMIT or above the body is skipped; otherwise IDX1-IDX3 are set and the body runs. With LEASE the hub
records the value; a full lease table makes the take wait. -/
def claimTake (s : State) (n lc : Nat) : State :=
  let q := seq s n lc
  match q.claim with
  | none => s
  | some k =>
    if !k.due || !seqLive s n lc || q.st != 1 then s
    else if k.lease && 1024 ≤ s.leases.length then bump s 0x190 5
    else
      let r := hubTake s k
      if k.limit ≤ r.2 then updSeq r.1 n lc (fun q => skipDone { q with claim := none, pc := k.stop } 32)
      else
        let s := if k.lease then { r.1 with leases := r.1.leases ++ [(k.ctr, r.2, n, lc)] } else r.1
        updSeq s n lc (fun q => { q with
          claim := some { k with due := false, val := some r.2, iter := k.iter + 1 }, pc := k.body,
          idx := k.mul.map (fun m => r.2 * m % 2 ^ 32) })

/-- CLAIM_TAKE. -/
def execClaimTake (n lc : Nat) (s : State) : Host.Outcome State Fault Refusal := .next (claimTake s n lc)

/-- Inserts a value into a rising list. -/
def insertLe (v : Nat) : List Nat → List Nat
  | [] => [v]
  | x :: t => if v ≤ x then v :: x :: t else x :: insertLe v t

/-- Open leases of a context go to their counters' return lists (R252). -/
def leasesReturn (s : State) (n : Nat) : State :=
  let mine := s.leases.filter (fun l => l.2.2.1 == n)
  { s with leases := s.leases.filter (fun l => l.2.2.1 != n),
           returns := mine.foldl (fun t l => tmodD t l.1 [] (insertLe l.2.1)) s.returns }

/-- CLAVE_VAL_WRITE: served at the hub in arrival order (R253). -/
def execClaveValWrite (m : Master) (k : Nat) (v : Word) (s : State) : Host.Outcome State Fault Refusal :=
  .next (if k < 256 then guarded m 0x190 (0x800 + 16 * k) s (fun s => clvSet s k v) else s)

/-! ### FENCE (R248) -/

/-- FENCE with a scope of LOCAL or MEMORY: it passes when every earlier descriptor has completed. -/
def fenceIssue (n lc : Nat) (i : Iss) (s : State) : State :=
  if (seq s n lc).issued.isEmpty then immediate s n lc i false else s

/-- A FENCE of a scope. -/
def isFence (k : Nat) (d : List Byte) : Bool := isOp 0x30 d && byteAt d 8 == k

/-- FENCE_LOCAL. -/
def execFenceLocal (n lc : Nat) (s : State) : Host.Outcome State Fault Refusal :=
  .next (issue s n lc (isFence 0) (fenceIssue n lc))

/-- FENCE_MEMORY. -/
def execFenceMemory (n lc : Nat) (s : State) : Host.Outcome State Fault Refusal :=
  .next (issue s n lc (isFence 1) (fenceIssue n lc))

/-- FENCE BARRIER: the core waits for the others; a BARRIER_ID other than that of a core already there faults. -/
def barrierIssue (n lc : Nat) (i : Iss) (s : State) : State :=
  let id := leAt i.d 0xA 2
  if !(seq s n lc).issued.isEmpty then s
  else if (lcores s n).any (fun l => match (seq s n l).barrier with
    | some (x, _) => x != id
    | none => false) then seqFaultNow s n lc i 0x13 (lcPg s n lc)
  else updSeq s n lc (fun q => { q with st := 2, barrier := some (id, now s) })

/-- FENCE_BARRIER. -/
def execFenceBarrier (n lc : Nat) (s : State) : Host.Outcome State Fault Refusal :=
  .next (issue s n lc (isFence 2) (barrierIssue n lc))

/-- BARRIER_RELEASE: every logical core has reached the barrier, and all proceed. -/
def barrierRelease (s : State) (n : Nat) : State :=
  let ls := lcores s n
  if (ctx s n).st != .running || ls.isEmpty || ls.any (fun l => (seq s n l).barrier.isNone) then s
  else
    ls.foldl (fun s l =>
      match (seq s n l).barrier with
      | none => s
      | some (_, since) =>
        let s := addWaitCyc s n l since
        let s := updSeq s n l (fun q => { q with st := 1, barrier := none })
        immediate s n l (atPc s n l) false) s

/-- BARRIER_RELEASE. -/
def execBarrierRelease (n : Nat) (s : State) : Host.Outcome State Fault Refusal := .next (barrierRelease s n)

/-- FENCE END ends the stream; it must be its last descriptor. -/
def endIssue (n lc : Nat) (i : Iss) (s : State) : State :=
  let q := seq s n lc
  if q.pc + 64 != q.stop then seqFaultNow s n lc i 0x13 (corePg q.core)
  else if !q.issued.isEmpty then s
  else
    let s := immediate s n lc i false
    let s := updSeq s n lc (fun q => { q with ended := true, st := 0, claim := none })
    updCtx s n (fun c => { c with ended := if c.ended.contains lc then c.ended else c.ended ++ [lc] })

/-- FENCE_END. -/
def execFenceEnd (n lc : Nat) (s : State) : Host.Outcome State Fault Refusal :=
  .next (issue s n lc (isFence 3) (endIssue n lc))

/-! ### Tags (R289-R299, R302) -/

/-- SPEC opens a FREE tag. -/
def specIssue (n lc : Nat) (i : Iss) (s : State) : State :=
  let t := byteAt i.d 8 % 8
  let q := seq s n lc
  if (q.tag t).st != 0 then seqFaultNow s n lc i 0x13 (corePg q.core)
  else
    let s := bumpR (updSeq s n lc (fun q => q.setTag t { st := 1 })) (corePg q.core) 0x530 1
    immediate s n lc i false

/-- SPEC. -/
def execSpec (n lc : Nat) (s : State) : Host.Outcome State Fault Refusal :=
  .next (issue s n lc (isOp 0x18) (specIssue n lc))

/-- The wait of a closing COMMIT or SQUASH is over (R296); a COMMIT also waits for the tag's CROSSED groups (R305). -/
def closeReady (q : Seq) (t : Nat) (commit : Bool) : Bool :=
  q.issued.all (fun i => i.tag != some t &&
    !(i.kind == 4 && (byteAt i.d 8).testBit 3 && byteAt i.d 0xC / 32 == t)) &&
  !(commit && q.grps.any (fun g => g.crossed && !g.closed && g.iss.tag == some t))

/-- COMMIT closes a tag (Table 12-2): it commits unless the tag is FAULTED or its verdict is squash. -/
def commitIssue (n lc : Nat) (i : Iss) (s : State) : State :=
  let t := byteAt i.d 8 % 8
  let q := seq s n lc
  let x := q.tag t
  if x.st = 0 || x.st = 4 then seqFaultNow s n lc i 0x13 (corePg q.core)
  else if x.st = 5 || !closeReady q t (x.st == 1) then s
  else
    let s := immediate s n lc i false
    if x.st = 3 then updSeq s n lc (fun q => q.setTag t {})
    else if x.st = 2 then startSquash s n lc t x.verdict true true
    else updSeq s n lc (fun q => q.setTag t { x with st := 4, closed := true })

/-- COMMIT. -/
def execCommit (n lc : Nat) (s : State) : Host.Outcome State Fault Refusal :=
  .next (issue s n lc (isOp 0x19) (commitIssue n lc))

/-- SQUASH closes a tag unconditionally. -/
def squashIssue (n lc : Nat) (i : Iss) (s : State) : State :=
  let t := byteAt i.d 8 % 8
  let q := seq s n lc
  let x := q.tag t
  if x.st = 0 || x.st = 4 then seqFaultNow s n lc i 0x13 (corePg q.core)
  else if x.st = 5 || !closeReady q t false then s
  else
    let s := immediate s n lc i false
    if x.st = 3 then updSeq s n lc (fun q => q.setTag t {})
    else startSquash s n lc t x.verdict true false

/-- SQUASH. -/
def execSquash (n lc : Nat) (s : State) : Host.Outcome State Fault Refusal :=
  .next (issue s n lc (isOp 0x1A) (squashIssue n lc))

/-- TAG_SQUASH_COMPLETE. -/
def execTagSquashComplete (n lc t : Nat) (s : State) : Host.Outcome State Fault Refusal :=
  .next (if t < 8 then squashDone s n lc t else s)

/-! ### Scratchpad events (R285-R287) -/

/-- The scrub of a core's rows ends: they read 0, and the core can be granted. -/
def scrubDone (s : State) (c : Nat) : State :=
  let x := coreSt s c
  if x.st != 1 then s
  else
    let s := x.rows.foldl (fun s r => { s with mem := memZero s.mem (scratchAddr c (64 * r.1)) (64 * (r.2 - r.1)) }) s
    let s := setCore s c { x with st := 0, rows := [], pend := [], late := [] }
    bumpR (x.late.foldl (fun s (w : Nat × List Byte) => wrMem s (scratchAddr c w.1) w.2) s) (corePg c) 0x40C 1

/-- PENDING_SCRUB_DEADLINE: 64 µs after marking, the scrub goes on ahead of every writer until no row is PENDING. -/
def execPendingScrubDeadline (c : Nat) (s : State) : Host.Outcome State Fault Refusal :=
  let x := coreSt s c
  .next (if x.pend.isEmpty || now s < x.pendAt + 64 * Config.tUs then s else setCore s c { x with pend := [] })

/-- A write of SP_DEBUG (R287): RETAIN 1 makes the next kill of CTX keep its rows, CTX 0 with it drops the write;
RELEASE 1 ends retention and starts the row scrub. -/
def spDebugWrite (s : State) (c : Nat) (v : Word) : State :=
  if bit v 31 && bits v 11 0 = 0 then s
  else
    let s := putRV s (corePg c) 0x408 (v &&& 0x80000FFF#32)
    if bit v 30 && (coreSt s c).st = 3 then setCore s c { coreSt s c with st := 1 } else s

/-- SP_DEBUG_RETAIN. -/
def execSpDebugRetain (m : Master) (c : Nat) (v : Word) (s : State) : Host.Outcome State Fault Refusal :=
  .next (if c < 48 && bit v 31 then guarded m (corePg c) 0x408 s (fun s => spDebugWrite s c v) else s)

/-- SP_DEBUG_RELEASE. -/
def execSpDebugRelease (m : Master) (c : Nat) (v : Word) (s : State) : Host.Outcome State Fault Refusal :=
  .next (if c < 48 && bit v 30 then guarded m (corePg c) 0x408 s (fun s => spDebugWrite s c v) else s)

end Sys2Proof.Machine
end

