-- ==== Sys2Proof/Machine/Dma.lean ====
section
/-!
DEFINITION. Machine/Dma.lean: device accesses of a context (R35, R52, R222, R454, R462, R537), DMA descriptors (R281-R283,
R294), RESHARD (R245-R247), and the commit of a tag with its held list (R297).
-/
namespace Sys2Proof.Machine

/-! ### Where a context's access goes -/

/-- The park area of a core (R327, R329): closed to every path. -/
def parkArea (s : State) (c ofs : Nat) : Bool :=
  let top := 0x400000 - bits (getR s 0x190 0x118) 7 0 * 0x10000
  let cap := if c < 32 then bit (getR s 0x190 0x110) c else bit (getR s 0x190 0x114) (c - 32)
  cap && corePresent s c && top ≤ ofs && ofs < top + 1408 * 1024

/-- The target of one access of a context. -/
inductive Tgt where
  | scr (core ofs : Nat)
  | park
  | gddr (a : Nat)
  | host (p : Nat)
  | mirror (page ofs : Nat)
  | held
  | bad (code page : Nat)
  deriving DecidableEq, Repr

/-- The target of a device address that a context's descriptor names; a scratchpad address names a logical core. -/
def devTgt (s : State) (n lc a : Nat) : Tgt :=
  let pg := lcPg s n lc
  match locate a with
  | .gddr =>
    match dispOf s (0x130 + quadOf a) with
    | .run => .gddr a
    | .held => .held
    | .notReady => .bad 0x17 (0x130 + quadOf a)
    | .fenced => .bad 0x16 (0x130 + quadOf a)
  | .scratch l o =>
    match (ctx s n).cores[l]? with
    | some c => if parkArea s c o then .park else .scr c o
    | none => .bad 0x0D pg
  | .host w o =>
    if s.pcie.frozen then .bad 0x0E 0x180
    else
      match outwAddr s w o with
      | some p => .host p
      | none => .bad 0x0D pg
  | .peer m o =>
    if !peerUsable s m then .bad 0x0D pg else if s.pcie.frozen then .bad 0x0E 0x180 else .host (peerAddr s m o)
  | .mirror page o => .mirror page o
  | .none => .bad 0x0D pg

/-- An operand of a DMA or RESHARD: a device address, or an offset in a handle (R230, R277). -/
structure Opnd where
  isH : Bool
  hb : Nat
  base : Nat
  deriving DecidableEq, Repr

/-- The target of byte `ofs` of an operand and how far it reaches to the next 64 B boundary. -/
def opTgt (s : State) (n lc : Nat) (i : Iss) (x : Opnd) (ofs : Nat) (wr : Bool) : Tgt × Nat :=
  let pg := lcPg s n lc
  if !x.isH then
    let a := (x.base + ofs) % 2 ^ 64
    (devTgt s n lc a, 64 - a % 64)
  else
    match href s n lc (x.hb % 64) with
    | none => (.bad 3 pg, 1)
    | some h =>
      let o := (x.base + ofs + iselOf i x.hb) % 2 ^ 32
      if wr && h.ro then (.bad 3 pg, 1)
      else if h.ext ≤ o then (.bad 2 pg, 1)
      else
        let a := h.base + o
        let k := min (64 - a % 64) (h.ext - o)
        if h.scr then (.scr h.core a, k) else (devTgt s n lc a, k)

/-- Reads one piece that lies within one target. -/
def tgtRead (s : State) (n : Nat) (t : Tgt) (len : Nat) : State × List Byte × Option (Nat × Nat) :=
  match t with
  | .scr c o =>
    let r := scrRead s c o len
    (r.1, r.2, none)
  | .park => (s, zeros len, none)
  | .gddr a =>
    let r := rdGddr s 0 a len
    if r.2.2 then (r.1, [], some (8, 0x140 + chanOf a)) else (r.1, r.2.1, none)
  | .host p => (hostMark s, memRdL s.pcieMem p len, none)
  | .mirror page o =>
    if !mirrorOpen s n page then (s, [], some (0x0C, page))
    else
      let first := o / 4
      let r := (List.range ((o + len - 1) / 4 - first + 1)).foldl (fun (acc : State × List Byte) k =>
        let q := mirrorRead acc.1 page (4 * (first + k))
        (q.1, acc.2 ++ leBytes 4 q.2.toNat)) (s, [])
      (r.1, (r.2.drop (o % 4)).take len, none)
  | .held => (s, [], some (0x17, 0))
  | .bad code page => (s, [], some (code, page))

/-- Reads `len` bytes of an operand from byte `ofs`: the bytes before the first failing one, and its fault. -/
def opRead (n lc : Nat) (i : Iss) (x : Opnd) : Nat → Nat → Nat → State → State × List Byte × Option (Nat × Nat)
  | 0, _, _, s => (s, [], none)
  | fuel + 1, ofs, len, s =>
    if len = 0 then (s, [], none)
    else
      let t := opTgt s n lc i x ofs false
      let k := min t.2 len
      let r := tgtRead s n t.1 k
      match r.2.2 with
      | some e => (r.1, r.2.1, some e)
      | none =>
        let q := opRead n lc i x fuel (ofs + k) (len - k) r.1
        (q.1, r.2.1 ++ q.2.1, q.2.2)

/-- Writes one piece that lies within one target. -/
def tgtWrite (s : State) (t : Tgt) (l : List Byte) : State × Option (Nat × Nat) :=
  match t with
  | .scr c o => (scrWrite s c o l, none)
  | .park => (s, none)
  | .gddr a =>
    let r := wrGddr s a l
    (r.1, if r.2 then none else some (8, 0x140 + chanOf a))
  | .host p => ({ hostMark s with pcieMem := memWrL s.pcieMem p l }, none)
  | .mirror page _ => (s, some (0x0C, page))
  | .held => (s, some (0x17, 0))
  | .bad code page => (s, some (code, page))

/-- Writes bytes through an operand: how many were written, and the fault of the first that was not. -/
def opWrite (n lc : Nat) (i : Iss) (x : Opnd) : Nat → Nat → List Byte → State → State × Nat × Option (Nat × Nat)
  | 0, _, _, s => (s, 0, none)
  | fuel + 1, ofs, l, s =>
    if l.isEmpty then (s, 0, none)
    else
      let t := opTgt s n lc i x ofs true
      let k := min t.2 l.length
      let r := tgtWrite s t.1 (l.take k)
      match r.2 with
      | some e => (r.1, 0, some e)
      | none =>
        let q := opWrite n lc i x fuel (ofs + k) (l.drop k) r.1
        (q.1, k + q.2.1, q.2.2)

/-- Any 64 B piece of a byte range of an operand that is held (R68). -/
def opHeld (s : State) (n lc : Nat) (i : Iss) (x : Opnd) (ofs len : Nat) (wr : Bool) : Bool :=
  (List.range (len / 64 + 2)).any (fun k => k * 64 < len + 64 &&
    (opTgt s n lc i x (ofs + min (64 * k) (len - 1)) wr).1 == .held)

/-! ### A DMA descriptor (Table 09-9) -/

/-- Its source. -/
def Iss.src (i : Iss) : Opnd := ⟨(byteAt i.d 8).testBit 1, byteAt i.d 9, leAt i.d 0x10 8⟩

/-- Its destination. -/
def Iss.dst (i : Iss) : Opnd := ⟨(byteAt i.d 8).testBit 2, byteAt i.d 0xA, leAt i.d 0x18 8⟩

/-- FILL. -/
def Iss.fill (i : Iss) : Bool := (byteAt i.d 8).testBit 4

/-- TRANSPOSE. -/
def Iss.transp (i : Iss) : Bool := (byteAt i.d 8).testBit 3

/-- Rows of its destination and bytes of each. -/
def Iss.dmaShape (i : Iss) : Nat × Nat :=
  if i.transp then (leAt i.d 0x20 4 / byteAt i.d 0xB, leAt i.d 0xC 4 * byteAt i.d 0xB) else (leAt i.d 0xC 4, leAt i.d 0x20 4)

/-- Bytes that it writes. -/
def Iss.dmaBytes (i : Iss) : Nat := i.dmaShape.1 * i.dmaShape.2

/-- Reads the source bytes of destination row j, from byte b on. -/
def dmaRow (s : State) (n lc : Nat) (i : Iss) (j b : Nat) : State × List Byte × Option (Nat × Nat) :=
  let len := i.dmaShape.2
  if i.fill then (s, ((List.range len).map (fun k => (i.d.drop 0x2C).getD (k % 4) 0)).drop b, none)
  else if i.transp then
    let el := byteAt i.d 0xB
    let r := (List.range (leAt i.d 0xC 4)).foldl (fun (acc : State × List Byte × Option (Nat × Nat)) r =>
      match acc.2.2 with
      | some _ => acc
      | none =>
        let q := opRead n lc i i.src (el + 1) (r * leAt i.d 0x24 4 + j * el) el acc.1
        (q.1, acc.2.1 ++ q.2.1, q.2.2)) (s, [], none)
    (r.1, r.2.1.drop b, r.2.2)
  else opRead n lc i i.src (len + 1) (j * leAt i.d 0x24 4 + b) (len - b) s

/-- Moves bytes [lo, hi) of a DMA, row by row: bytes moved, and the fault of the first that failed (R283). -/
def dmaMove (n lc : Nat) (i : Iss) (hi : Nat) : Nat → Nat → State → State × Nat × Option (Nat × Nat)
  | 0, at', s => (s, at', none)
  | fuel + 1, at', s =>
    let len := i.dmaShape.2
    if hi ≤ at' || len = 0 then (s, at', none)
    else
      let j := at' / len
      let b := at' % len
      let r := dmaRow s n lc i j b
      let l := r.2.1.take (hi - at')
      let w := opWrite n lc i i.dst (l.length + 1) (j * leAt i.d 0x28 4 + b) l r.1
      match w.2.2 with
      | some e => (w.1, at' + w.2.1, some e)
      | none =>
        match r.2.2 with
        | some e => if at' + l.length < hi then (w.1, at' + w.2.1, some e) else (w.1, at' + w.2.1, none)
        | none => dmaMove n lc i hi fuel (at' + l.length) w.1

/-! ### Overlap (R282) -/

/-- The physical place of a byte of an operand: memory below 2^64, PCIe memory above. -/
def physOf (s : State) (n lc : Nat) (i : Iss) (x : Opnd) (ofs : Nat) (wr : Bool) : Option Nat :=
  match (opTgt s n lc i x ofs wr).1 with
  | .scr c o => some (scratchAddr c o)
  | .gddr a => some a
  | .host p => some (2 ^ 64 + p)
  | _ => none

/-- Source and destination places of byte k of a DMA. -/
def bytePair (s : State) (n lc : Nat) (i : Iss) (k : Nat) : Option Nat × Option Nat :=
  let len := i.dmaShape.2
  let j := k / len
  let b := k % len
  let el := byteAt i.d 0xB
  let so := if i.transp then b / el * leAt i.d 0x24 4 + j * el + b % el else j * leAt i.d 0x24 4 + b
  (physOf s n lc i i.src so false, physOf s n lc i i.dst (j * leAt i.d 0x28 4 + b) true)

/-- A byte at a physical place. -/
def physRd (s : State) (p : Nat) : Byte := if p < 2 ^ 64 then memRd s.mem p else memRd s.pcieMem (p - 2 ^ 64)

/-- Sets a byte at a physical place. -/
def physWr (s : State) (p : Nat) (b : Byte) : State :=
  if p < 2 ^ 64 then { s with mem := memWr s.mem p b } else { s with pcieMem := memWr s.pcieMem (p - 2 ^ 64) b }

/-- The value of a destination byte whose source lies in the destination: the source's old or its new value, as the free
choice of each byte says; `old` is memory before the descriptor. -/
def overlapVal (old : State) (pairs : List (Nat × Nat)) (seed : Nat) : Nat → Nat → Byte
  | 0, p => physRd old p
  | fuel + 1, p =>
    match pairs.find? (fun (q : Nat × Nat) => q.2 == p) with
    | none => physRd old p
    | some q =>
      if pairs.any (fun (r : Nat × Nat) => r.2 == q.1) && Config.freeChoice (seed + p) % 2 = 1 then
        overlapVal old pairs seed fuel q.1
      else physRd old q.1

/-- A DMA whose source and destination bytes overlap: after the move, each overlapped destination byte takes its source's
old or new value, which the spec leaves open (log 35). -/
def overlapFix (old : State) (n lc : Nat) (i : Iss) (lo hi : Nat) (s : State) : State :=
  if i.fill then s
  else
    let l := (List.range (hi - lo)).filterMap (fun k =>
      match bytePair old n lc i (lo + k) with
      | (some a, some b) => some (a, b)
      | _ => none)
    let pairs := l.reverse
    if l.any (fun (q : Nat × Nat) => l.any (fun (r : Nat × Nat) => r.2 == q.1)) then
      let s' := (l.filter (fun (q : Nat × Nat) => l.any (fun (r : Nat × Nat) => r.2 == q.1))).foldl
        (fun s q => physWr s q.2 (overlapVal old pairs s.free l.length q.2)) s
      { s' with free := s.free + 1 }
    else s

/-- Moves bytes [lo, hi) of a DMA and counts them. -/
def dmaRun (s : State) (n lc : Nat) (i : Iss) (lo hi : Nat) : State × Nat × Option (Nat × Nat) :=
  let r := dmaMove n lc i hi (hi + 1) lo s
  let pg := lcPg s n lc
  let o := 0x424 + 0x10 * (byteAt i.d 8 % 2)
  let t := putR64 r.1 pg o (getR64 r.1 pg o + (r.2.1 - lo))
  (overlapFix s n lc i lo r.2.1 t, r.2.1, r.2.2)

/-! ### Reads of host memory and peers (R309, R455) -/

/-- Non-posted requests that may be outstanding (R455). -/
def npLimit (s : State) : Nat := if s.pcie.tag10 then 768 else if s.pcie.extTag then 256 else 32

/-- Bytes of one read request. -/
def readUnit (s : State) : Nat := min 256 s.pcie.mrrs

/-- The read requests of source bytes [o, o + len): offset and length of each. -/
def unitsOf (u o : Nat) : Nat → Nat → List (Nat × Nat)
  | 0, _ => []
  | fuel + 1, len =>
    if len = 0 then [] else
      let k := min (u - o % u) len
      (o, k) :: unitsOf u (o + k) fuel (len - k)

/-- The source bytes of a DMA that lie beyond the PCIe link: one list of requests over its rows. -/
def hostUnits (s : State) (n lc : Nat) (i : Iss) : List (Nat × Nat) :=
  if i.fill || i.kind != 8 then []
  else
    let far := match (opTgt s n lc i i.src 0 false).1 with
      | .host _ => true
      | _ => false
    if !far then []
    else
      let len := leAt i.d 0x20 4
      (List.range (leAt i.d 0xC 4)).flatMap (fun r => unitsOf (readUnit s) (r * leAt i.d 0x24 4) (len + 1) len)

/-- A DMA's outstanding read requests. -/
def npOf (s : State) (n : Nat) (i : Iss) (c : Nat) : List (Nat × NpReq) :=
  s.pcie.np.filter (fun (q : Nat × NpReq) =>
    q.2.ctx == some n && q.2.core == 2 * c + byteAt i.d 8 % 2 && q.2.dest == i.addr && !q.2.abandoned)

/-- The lowest free tag below the limit. -/
def npTag (s : State) : Option Nat := (List.range (npLimit s)).find? (fun t => (tget s.pcie.np t).isNone)

/-- Issues a DMA's next read requests, up to the bounds of its engine and of the endpoint. Answers the requests made. -/
def dmaReads (n lc c : Nat) (i : Iss) : List (Nat × Nat) → State → State × Nat
  | [], s => (s, 0)
  | u :: t, s =>
    match (opTgt s n lc i i.src u.1 false).1 with
    | .host p =>
      if 96 ≤ dmaOut s c (byteAt i.d 8 % 2) then (s, 0)
      else
        match npTag s with
        | none => (bump s 0x180 7, 0)
        | some tag =>
          let q : NpReq := { ctx := some n, core := 2 * c + byteAt i.d 8 % 2, addr := p, bytes := u.2, dest := i.addr,
                             issued := now s }
          let r := dmaReads n lc c i t (hostMark { s with pcie := { s.pcie with np := tset s.pcie.np tag q } })
          (r.1, r.2 + 1)
    | _ => (s, 0)

/-- The read requests of a logical core's DMAs: the first of each engine that has some left to make; held ones once their
tag commits. -/
def dmaPump (s : State) (n lc : Nat) : State :=
  [0, 1].foldl (fun s e =>
    let q := seq s n lc
    let l := q.issued.filter (fun i => i.kind == 8 && byteAt i.d 8 % 2 == e && gatesOf s n lc i == 0 && q.clear i) ++
      q.held.filter (fun i => i.kind == 8 && byteAt i.d 8 % 2 == e && (match i.tag with
        | some t => (q.tag t).st == 4
        | none => false))
    match l.find? (fun i => decide (i.units < (hostUnits s n lc i).length)) with
    | none => s
    | some i =>
      let r := dmaReads n lc q.core i ((hostUnits s n lc i).drop i.units) s
      updSeq r.1 n lc (fun q =>
        let f := fun (j : Iss) => if j.addr == i.addr && j.iter == i.iter && j.kind == 8 then { j with units := i.units + r.2 } else j
        { q with issued := q.issued.map f, held := q.held.map f })) s

/-- Abandons the read requests of a context's DMA descriptors (R334, R457): the tag stays until its completion. -/
def npAbandon (s : State) (n : Nat) (p : NpReq → Bool) : State :=
  { s with pcie := { s.pcie with np := s.pcie.np.map (fun q =>
    if q.2.ctx == some n && p q.2 then (q.1, { q.2 with abandoned := true }) else q) } }

/-- Every byte a DMA reads beyond the link has arrived, or its next request cannot be made. -/
def dmaArrived (s : State) (n lc : Nat) (i : Iss) : Bool :=
  (npOf s n i (seq s n lc).core).isEmpty &&
    (let l := hostUnits s n lc i
     match l[i.units]? with
     | none => true
     | some u => match (opTgt s n lc i i.src u.1 false).1 with
       | .host _ => false
       | _ => true)

/-! ### Issue and completion of a DMA -/

/-- The destination of a tagged DMA waits for its commit (R281, R294): anything but a scratchpad handle. -/
def dmaHeldDst (s : State) (n lc : Nat) (i : Iss) : Bool :=
  if !i.dst.isH then true
  else
    match href s n lc (i.dst.hb % 64) with
    | some h => !h.scr
    | none => false

/-- A DMA descriptor issues: at most 8 on an engine; a tagged one that writes outside the scratchpad is held. -/
def dmaIssue (n lc : Nat) (i : Iss) (s : State) : State :=
  let q := seq s n lc
  let i := { i with prog := tgetD q.progAt i.addr 0 }
  if i.tag.isSome && dmaHeldDst s n lc i then
    if 16 ≤ q.held.length then stall s q.core 4
    else advance (updSeq s n lc (fun q => { q with held := q.held ++ [i] })) n lc i
  else if 8 ≤ (dmaOf s q.core (byteAt i.d 8 % 2)).length then stall s q.core 5
  else
    let s := updSeq s n lc (fun q => { q with progAt := tdel q.progAt i.addr })
    dmaPump (enqueue s n lc i) n lc

/-- DMA_COPY: a DMA with neither FILL nor TRANSPOSE. -/
def execDmaCopy (n lc : Nat) (s : State) : Host.Outcome State Fault Refusal :=
  .next (issue s n lc (fun d => isOp 8 d && !(byteAt d 8).testBit 3 && !(byteAt d 8).testBit 4) (dmaIssue n lc))

/-- DMA_FILL. -/
def execDmaFill (n lc : Nat) (s : State) : Host.Outcome State Fault Refusal :=
  .next (issue s n lc (fun d => isOp 8 d && (byteAt d 8).testBit 4) (dmaIssue n lc))

/-- DMA_TRANSPOSE. -/
def execDmaTranspose (n lc : Nat) (s : State) : Host.Outcome State Fault Refusal :=
  .next (issue s n lc (fun d => isOp 8 d && (byteAt d 8).testBit 3 && !(byteAt d 8).testBit 4) (dmaIssue n lc))

/-- A DMA's operands meet a memory quad that is not ready yet (R68), or a write to the host range that waits for D0 (R464). -/
def dmaWaits (s : State) (n lc : Nat) (i : Iss) : Bool :=
  let sh := i.dmaShape
  ((s.pcie.dstate != 0 || s.pcie.turnOff) && (List.range sh.1).any (fun j =>
    match (opTgt s n lc i i.dst (j * leAt i.d 0x28 4) true).1 with
    | .host _ => true
    | _ => false)) ||
  (List.range sh.1).any (fun j => opHeld s n lc i i.dst (j * leAt i.d 0x28 4) sh.2 true) ||
    (!i.fill && (List.range (leAt i.d 0xC 4)).any (fun j =>
      opHeld s n lc i i.src (j * leAt i.d 0x24 4) (leAt i.d 0x20 4) false))

/-- What a finished DMA leaves: the tensor's format and scale (R279), and PROVISIONAL under its tag (R293). -/
def dmaMarks (s : State) (n lc : Nat) (i : Iss) : State :=
  let s := match i.tag with
    | some t =>
      if i.dst.isH && (match href s n lc (i.dst.hb % 64) with
        | some h => h.scr && !h.prov
        | none => false) then hTensor (hProv s n lc (i.dst.hb % 64) true t false) n lc (i.dst.hb % 64) 0xFF 0x3F800000 else s
    | none => s
  if i.src.isH && i.dst.isH && !i.fill then
    match href s n lc (i.src.hb % 64) with
    | some h => if h.fmt = 0xFF then s else hTensor s n lc (i.dst.hb % 64) h.fmt h.scale
    | none => s
  else s

/-- DMA_COMPLETE of the oldest descriptor of an engine (R281-R283). -/
def dmaComplete (s : State) (n lc e : Nat) (f : ExecFact) : State :=
  let q := seq s n lc
  match q.issued.find? (fun i => i.kind == 8 && byteAt i.d 8 % 2 == e) with
  | none => s
  | some i =>
    let g := gatesOf s n lc i
    if !seqLive s n lc || !q.clear i || g = 1 || dmaWaits s n lc i then s
    else if g = 2 then
      match i.tag with
      | some t => deferFault s n lc i t 0x13
      | none => s
    else if !dmaArrived s n lc i then dmaPump s n lc
    else
      let r := dmaRun s n lc i i.prog i.dmaBytes
      let s := f.hz.foldl (fun s z => hazard s n lc i (1 + e) z) r.1
      if f.par then seqFault s n lc i 0x08 (corePg q.core)
      else
        match r.2.2 with
        | some (code, pg) => seqFault s n lc i code pg
        | none => dmaPump (retire (dmaMarks s n lc i) n lc i f.past) n lc

/-- DMA_COMPLETE. -/
def execDmaComplete (n lc e : Nat) (f : ExecFact) (s : State) : Host.Outcome State Fault Refusal :=
  .next (dmaComplete s n lc e f)

/-- The descriptor that a read request serves is still in progress: not discarded by a fault, a squash or a teardown. -/
def npLive (s : State) (r : NpReq) : Bool :=
  match r.ctx with
  | none => true
  | some n => !r.abandoned && (lcores s n).any (fun l =>
      ((seq s n l).issued ++ (seq s n l).held).any (fun i => i.addr == r.dest && i.kind == 8))

/-- A read request of a DMA failed (R283, R457): the bytes before it stand, and the fault is raised or deferred. -/
def dmaReadFailed (s : State) (n : Nat) (r : NpReq) : State :=
  let s := npAbandon s n (fun x => x.dest == r.dest && x.core == r.core)
  match (lcores s n).find? (fun l => (seq s n l).core == r.core / 2) with
  | none => s
  | some lc =>
    let q := seq s n lc
    match (q.issued ++ q.held).find? (fun i => i.addr == r.dest && i.kind == 8) with
    | none => s
    | some i =>
      let m := i.dmaShape.2
      let k := (List.range i.dmaBytes).find? (fun k => match (bytePair s n lc i k).1 with
        | some p => p == 2 ^ 64 + r.addr
        | none => false)
      let s := if m = 0 || q.held.contains i then s else (dmaRun s n lc i i.prog (max i.prog (k.getD i.prog))).1
      seqFault s n lc i 0x0E 0x180

/-! ### The commit of a tag (R294, R297) -/

/-- Runs a committing tag's held entries in stream order; the first that fails ends the run. -/
def heldRun (n lc : Nat) : List Iss → State → State × Option (Iss × Nat × Nat)
  | [], s => (s, none)
  | i :: t, s =>
    if i.kind = 8 then
      let r := dmaRun s n lc i 0 i.dmaBytes
      match r.2.2 with
      | some (code, pg) => (r.1, some (i, code, pg))
      | none => heldRun n lc t (dmaMarks r.1 n lc { i with tag := none })
    else heldRun n lc t (signalDo n lc i.d s)

/-- TAG_COMMIT_COMPLETE: the rename, the flags, the held list, and the tag FREE (Table 12-3). -/
def tagCommit (s : State) (n lc t : Nat) : State :=
  let q := seq s n lc
  let mine := q.held.filter (fun i => i.tag == some t)
  if !seqLive s n lc || (q.tag t).st != 4 then s
  else if mine.any (fun i => i.kind == 8 && dmaWaits s n lc i) then s
  else if mine.any (fun i => i.kind == 8 && !dmaArrived s n lc i) then dmaPump s n lc
  else
    let s := commitTag s n lc t (recordGrp n)
    let s := updSeq s n lc (fun q => { q with held := q.held.filter (fun i => i.tag != some t) }.setTag t {})
    let r := heldRun n lc mine s
    let s := bumpR r.1 (corePg q.core) 0x534 1
    let s := mine.foldl (fun s i => leaseClose s n lc i.lease) s
    match r.2 with
    | some (i, code, pg) => seqFaultNow s n lc i code pg
    | none => s

/-- TAG_COMMIT_COMPLETE. -/
def execTagCommitComplete (n lc t : Nat) (s : State) : Host.Outcome State Fault Refusal :=
  .next (if t < 8 then tagCommit s n lc t else s)

/-! ### RESHARD (R245-R247) -/

/-- Logical cores in PARTS, ascending. -/
def partsOf (d : List Byte) : List Nat := (List.range 48).filter (fun l => (leAt d 0x18 8).testBit l)

/-- Bytes 0x08-0x1F, which every part's RESHARD has in common. -/
def reshardKey (d : List Byte) : List Byte := (d.drop 8).take 24

/-- Rows and elements that rank i of P holds in a layout: row range, element range. -/
def portion (d : List Byte) (mode i : Nat) : (Nat × Nat) × (Nat × Nat) :=
  let R := leAt d 0xC 4
  let C := leAt d 0x10 4 / byteAt d 0x14
  let P := (partsOf d).length
  match mode with
  | 0 => ((i * R / P, (i + 1) * R / P), (0, C))
  | 1 => ((0, R), (i * C / P, (i + 1) * C / P))
  | 2 => ((0, R), (0, C))
  | _ => if (partsOf d).getD i 64 = byteAt d 9 then ((0, R), (0, C)) else ((0, 0), (0, 0))

/-- The part of rank `src`'s source portion that rank `dst` takes: rows and elements (R246). A destination that holds
the data takes it from itself. -/
def exchange (d : List Byte) (src dst : Nat) : (Nat × Nat) × (Nat × Nat) :=
  let sm := byteAt d 8 % 4
  let a := portion d sm src
  let b := portion d (byteAt d 8 / 4 % 4) dst
  if sm = 2 && src != dst then ((0, 0), (0, 0))
  else ((max a.1.1 b.1.1, min a.1.2 b.1.2), (max a.2.1 b.2.1, min a.2.2 b.2.2))

/-- Two ranks exchange data. -/
def exchanges (d : List Byte) (src dst : Nat) : Bool :=
  let x := exchange d src dst
  decide (x.1.1 < x.1.2 ∧ x.2.1 < x.2.2)

/-- Copies one exchange, row by row, from the source's operand to the destination's. -/
def pushRows (n sl dl : Nat) (si di : Iss) (src dst : Nat) : Nat → Nat → State → State × Option (Nat × Iss × Nat × Nat)
  | 0, _, s => (s, none)
  | fuel + 1, r, s =>
    let x := exchange si.d src dst
    let a := portion si.d (byteAt si.d 8 % 4) src
    let b := portion si.d (byteAt si.d 8 / 4 % 4) dst
    let el := byteAt si.d 0x14
    if x.1.2 ≤ r then (s, none)
    else
      let so := leAt si.d 0x20 4 + (r - a.1.1) * leAt si.d 0x24 4 + (x.2.1 - a.2.1) * el
      let do' := leAt di.d 0x28 4 + (r - b.1.1) * leAt di.d 0x2C 4 + (x.2.1 - b.2.1) * el
      let len := (x.2.2 - x.2.1) * el
      let q := opRead n sl si ⟨true, byteAt si.d 0x15, 0⟩ (len + 1) so len s
      let w := opWrite n dl di ⟨true, byteAt di.d 0x16, 0⟩ (len + 1) do' q.2.1 q.1
      match w.2.2, q.2.2 with
      | some (code, pg), _ => (w.1, some (dl, di, code, pg))
      | none, some (code, pg) => (w.1, some (sl, si, code, pg))
      | none, none => pushRows n sl dl si di src dst fuel (r + 1) w.1

/-- The RESHARD that a logical core has issued with the layout of another's. -/
def reshardAt (s : State) (n l : Nat) (d : List Byte) : Option Iss :=
  (seq s n l).issued.find? (fun i => i.kind == 9 && reshardKey i.d == reshardKey d)

/-- RESHARD issues; one of the same RS_ID with another layout on a part faults the context. -/
def reshardIssue (n lc : Nat) (i : Iss) (s : State) : State :=
  if (partsOf i.d).any (fun l => (seq s n l).issued.any (fun j =>
      j.kind == 9 && leAt j.d 0xA 2 == leAt i.d 0xA 2 && reshardKey j.d != reshardKey i.d)) ||
      !(partsOf i.d).contains lc then
    seqFaultNow s n lc i 0x13 (lcPg s n lc)
  else enqueue s n lc i

/-- RESHARD. -/
def execReshard (n lc : Nat) (s : State) : Host.Outcome State Fault Refusal :=
  .next (issue s n lc (isOp 9) (reshardIssue n lc))

/-- Parts that a core's RESHARD exchanges data with, itself included. -/
def partners (d : List Byte) (rank : Nat) : List Nat :=
  (List.range (partsOf d).length).filter (fun k => exchanges d k rank || exchanges d rank k)

/-- The push of one part's portion to another, where they exchange one. -/
def push1 (n : Nat) (d : List Byte) (sl dl : Nat) (si di : Iss) (src dst : Nat) (s : State) :
    State × Option (Nat × Iss × Nat × Nat) :=
  let x := exchange d src dst
  if exchanges d src dst then pushRows n sl dl si di src dst (x.1.2 - x.1.1 + 1) x.1.1 s else (s, none)

/-- Notes on a part's RESHARD that it has exchanged its portions with another part. -/
def gotMark (s : State) (n l other : Nat) (d : List Byte) : State :=
  match reshardAt s n l d with
  | some i => setIss s n l { i with got := other :: i.got }
  | none => s

/-- The pushes between two parts that have both issued, made once. -/
def pushOnce (n : Nat) (d : List Byte) (src dst : Nat) (s : State) : State × Option (Nat × Iss × Nat × Nat) :=
  let sl := (partsOf d).getD src 64
  let dl := (partsOf d).getD dst 64
  match reshardAt s n sl d, reshardAt s n dl d with
  | some si, some di =>
    if si.got.contains dl then (s, none)
    else
      let r := push1 n d sl dl si di src dst s
      let q := if src = dst || r.2.isSome then r else push1 n d dl sl di si dst src r.1
      let t := gotMark q.1 n sl dl d
      (if src = dst then t else gotMark t n dl sl d, q.2)
  | _, _ => (s, none)

/-- The pushes that a core's RESHARD makes and receives. -/
def reshardPushes (n : Nat) (d : List Byte) (rank : Nat) (s : State) : State × Option (Nat × Iss × Nat × Nat) :=
  (partners d rank).foldl (fun (acc : State × Option (Nat × Iss × Nat × Nat)) k =>
    match acc.2 with
    | some _ => acc
    | none => pushOnce n d rank k acc.1) (s, none)

/-- The first RESHARD in a core's issued list that nothing earlier holds back. -/
def reshardHead (s : State) (n lc : Nat) : Option Iss :=
  let q := seq s n lc
  q.issued.find? (fun i => i.kind == 9 && q.clear i && gatesOf s n lc i == 0)

/-- RESHARD_COMPLETE on one core: every partner has issued, the bytes destined here are written and the pushes made here
are acknowledged. -/
def reshardComplete (s : State) (n lc : Nat) (f : ExecFact) : State :=
  match reshardHead s n lc with
  | none => s
  | some i =>
    let rank := ((partsOf i.d).takeWhile (· != lc)).length
    let ready' := (partners i.d rank).all (fun k =>
      let l := (partsOf i.d).getD k 64
      l == lc || i.got.contains l || (match reshardHead s n l with
        | some j => reshardKey j.d == reshardKey i.d
        | none => false))
    if !seqLive s n lc || !ready' then s
    else
      let r := reshardPushes n i.d rank s
      let s := f.hz.foldl (fun s z => hazard s n lc i 5 z) r.1
      if f.par then seqFault s n lc i 0x08 (lcPg s n lc)
      else
        match r.2 with
        | some (l, j, code, pg) => seqFault s n l j code pg
        | none => retire s n lc i f.past

/-- RESHARD_COMPLETE. -/
def execReshardComplete (n lc : Nat) (f : ExecFact) (s : State) : Host.Outcome State Fault Refusal :=
  .next (reshardComplete s n lc f)

/-- RESHARD_WATCHDOG: a part whose partners have not issued within the context's watchdog budget (R247). -/
def reshardExpiry (s : State) (n lc : Nat) : State :=
  match (seq s n lc).issued.find? (fun i => i.kind == 9) with
  | none => s
  | some i =>
    let rank := ((partsOf i.d).takeWhile (· != lc)).length
    let missing := (partners i.d rank).any (fun k =>
      let l := (partsOf i.d).getD k 64
      l != lc && !i.got.contains l && (reshardAt s n l i.d).isNone)
    if !seqLive s n lc || !missing || now s < i.since + wdogTicks s n then s
    else seqFaultNow s n lc i 0x09 (lcPg s n lc)

/-- RESHARD_WATCHDOG. -/
def execReshardWatchdog (n lc : Nat) (s : State) : Host.Outcome State Fault Refusal := .next (reshardExpiry s n lc)

end Sys2Proof.Machine
end

