-- ==== Sys2Proof/Machine/Crop.lean ====
section
/-!
DEFINITION. Machine/Crop.lean: the crop entry's fields, its checks that need no memory, its geometry, colour and
layout (R139-R144). Every step that R141 and R142 name is one FP32 rounding of its exact value (log 27).
-/
namespace Sys2Proof.Machine

/-! ### Fields of a crop entry (Table 06-2) -/

/-- ROT. -/
def cRot (e : List Byte) : Nat := byteAt e 0 % 4
/-- LETTERBOX. -/
def cLbox (e : List Byte) : Bool := (byteAt e 0).testBit 2
/-- WARP. -/
def cWarp (e : List Byte) : Bool := (byteAt e 0).testBit 3
/-- FILTER. -/
def cFilter (e : List Byte) : Nat := byteAt e 0 / 16 % 4
/-- DEST_IS_POOL. -/
def cPool (e : List Byte) : Bool := (byteAt e 0).testBit 6
/-- BGR. -/
def cBgr (e : List Byte) : Bool := (byteAt e 0).testBit 7
/-- SRC_X, SRC_Y, SRC_W, SRC_H. -/
def cSrc (e : List Byte) (i : Nat) : Nat := leAt e (4 + 2 * i) 2
/-- OUT_W. -/
def cOutW (e : List Byte) : Nat := leAt e 0xC 2
/-- OUT_H. -/
def cOutH (e : List Byte) : Nat := leAt e 0xE 2
/-- SRC_W in the rotated frame (R140). -/
def cRotW (e : List Byte) : Nat := if cRot e % 2 = 0 then cSrc e 2 else cSrc e 3
/-- SRC_H in the rotated frame. -/
def cRotH (e : List Byte) : Nat := if cRot e % 2 = 0 then cSrc e 3 else cSrc e 2
/-- Bytes of an output element. -/
def cElem (e : List Byte) : Nat := if byteAt e 3 ≤ 2 then 1 else 2
/-- Output channels. -/
def cChan (e : List Byte) : Nat := if byteAt e 1 = 4 then 1 else 3
/-- Elements per pixel within a row of the layout (R143). -/
def cPix (e : List Byte) : Nat := [1, 4, 16, 32].getD (byteAt e 2) 1
/-- Planes of the layout. -/
def cPlanes (e : List Byte) : Nat := if byteAt e 2 = 0 then cChan e else 1
/-- Bytes of an output row. -/
def cRowBytes (e : List Byte) : Nat := cOutW e * cPix e * cElem e
/-- DEST_PITCH. -/
def cPitch (e : List Byte) : Nat := leAt e 0x48 4
/-- Bytes from the destination to the end of its last row. -/
def cExtent (e : List Byte) : Nat := (cPlanes e * cOutH e - 1) * cPitch e + cRowBytes e

/-- An output axis against its source axis lies outside 1/16 to 8 (R140). -/
def ratioBad (out src : Nat) : Bool := decide (out * 16 < src ∨ 8 * src < out)

/-- The first illegal field of an entry among those that need no memory, in offset order (R139, R140). `job` is a
ring's entry, `w` and `h` the picture. -/
def entryBad (e : List Byte) (job : Bool) (w h : Nat) : Option Nat :=
  (([((cWarp e && (cRot e != 0 || cLbox e)) || (cWarp e && 2 ≤ cFilter e) ||
      (cFilter e == 3 && (cRotW e < cOutW e || cRotH e < cOutH e)) || (job && cPool e), 0),
    (4 < byteAt e 1, 1), (3 < byteAt e 2, 2), (4 < byteAt e 3, 3),
    (cSrc e 2 < 2 || cSrc e 3 < 2 || w < cSrc e 0 + cSrc e 2 || h < cSrc e 1 + cSrc e 3, 4),
    (cOutW e < 1 || 4096 < cOutW e || cOutH e < 1 || 4096 < cOutH e ||
      (!cWarp e && (ratioBad (cOutW e) (cRotW e) || ratioBad (cOutH e) (cRotH e))), 0xC),
    (byteAt e 0x13 != 0, 0x13),
    ((List.range 3).any (fun c => !(fp16.dec (leAt e (0x1A + 2 * c) 2)).isFin), 0x1A)] : List (Bool × Nat)).find?
      (·.1)).map (·.2)

/-- The later fields: DEST alignment, pitch, KEEP and reserved bytes; `destBad` is the check of the block. -/
def entryBad2 (e : List Byte) (destBad keepBad : Bool) : Option Nat :=
  (([((if cPool e then leAt e 0x40 8 >>> 6 != 0 else leAt e 0x40 8 % 64 != 0) || destBad, 0x40),
    (cPitch e % 64 != 0 || cPitch e < cRowBytes e, 0x48),
    (4 < byteAt e 0x50 || (byteAt e 0x50 != 0 && (cOutW e % 16 != 0 || cOutH e % 16 != 0)), 0x50),
    (63 < byteAt e 0x51 || (byteAt e 0x50 != 0 && keepBad), 0x51), (!zeroAt e 0x52 46, 0x52)] :
      List (Bool × Nat)).find? (·.1)).map (·.2)

/-! ### Source samples -/

/-- Tiles of a plane read for an entry: first tile column and row, columns, and the tiles in raster order. -/
structure Region where
  tx : Nat
  ty : Nat
  nx : Nat
  tiles : List (List Nat)
  deriving DecidableEq, Repr

/-- Reads k tiles of a region of a plane; the damaged ones are counted. -/
def readRegionK (s : State) (addr b w tx ty nx : Nat) : Nat → State × List (List Nat) × Nat
  | 0 => (s, [], 0)
  | k + 1 =>
    let r := readRegionK s addr b w tx ty nx k
    let q := readTile r.1 addr b w (tx + k % nx) (ty + k / nx)
    (q.1, r.2.1 ++ [q.2.1], r.2.2 + b2n q.2.2)

/-- The tiles that hold samples x0 to x1 and y0 to y1 of a plane. -/
def readRegion (s : State) (addr b w x0 y0 x1 y1 : Nat) : State × Region × Nat :=
  let nx := x1 / 8 + 1 - x0 / 8
  let ny := y1 / 8 + 1 - y0 / 8
  let r := readRegionK s addr b w (x0 / 8) (y0 / 8) nx (nx * ny)
  (r.1, { tx := x0 / 8, ty := y0 / 8, nx := nx, tiles := r.2.1 }, r.2.2)

/-- A sample of a region. -/
def Region.at (g : Region) (x y : Nat) : Nat :=
  (g.tiles.getD ((y / 8 - g.ty) * g.nx + (x / 8 - g.tx)) []).getD (8 * (y % 8) + x % 8) 0

/-- The source of an entry: regions of the three planes and the sizes beyond which a tap reads the nearest edge
sample. -/
structure Src where
  y : Region
  cb : Region
  cr : Region
  w : Nat
  h : Nat
  deriving DecidableEq, Repr

/-- A tap position brought into a plane. -/
def edge (n : Nat) (i : Int) : Nat := min i.toNat (n - 1)

/-- A tap of a plane of w × h samples. -/
def tap (g : Region) (w h : Nat) (x y : Int) : Fl := .ofNat (g.at (edge w x) (edge h y))

/-! ### Filters (R141) -/

/-- Phase of a position, in 1/64 sample. -/
def phase64 (p : Fl) : Nat := rneClamp 64 ((p.sub (.ofInt p.floor)).mul (.ofNat 64))

/-- Bilinear sample of a plane, rounded once to FP32. -/
def bilinear (g : Region) (w h : Nat) (px py : Fl) : Fl :=
  let x := px.floor
  let y := py.floor
  let fx := phase64 px
  let fy := phase64 py
  let t := fun (dx dy : Int) (a b : Nat) => (tap g w h (x + dx) (y + dy)).mul (.frac (a * b) 4096)
  fl32 ((t 0 0 (64 - fx) (64 - fy)).add ((t 1 0 fx (64 - fy)).add ((t 0 1 (64 - fx) fy).add (t 1 1 fx fy))))

/-- Bicubic kernel with a = −0.5 at distance |t|. -/
def cubic (t : Fl) : Fl :=
  let t := t.abs
  let t2 := t.mul t
  let t3 := t2.mul t
  if t.le (.ofNat 1) then ((Fl.frac 3 2).mul t3).sub ((Fl.frac 5 2).mul t2) |>.add (.ofNat 1)
  else if t.lt (.ofNat 2) then
    (((Fl.frac 5 2).mul t2).sub ((Fl.frac 1 2).mul t3)).sub ((Fl.ofNat 4).mul t) |>.add (.ofNat 2)
  else .ofNat 0

/-- A tap rounded to 1/1,024. -/
def tap1024 (x : Fl) : Fl :=
  match x.mul (.ofNat 1024) with
  | .num s n d e =>
    let p := pow2 e
    .num s (Rnd.rne.toInt (n * p.1) (d * p.2)) 1024 0
  | v => v

/-- Bicubic sample. -/
def bicubic (g : Region) (w h : Nat) (px py : Fl) : Fl :=
  let x := px.floor
  let y := py.floor
  let wt := fun (p : Fl) (o : Int) => tap1024 (cubic (p.sub (.ofInt o)))
  let d : List Int := [-1, 0, 1, 2]
  fl32 (d.foldl (fun a j => d.foldl (fun a i =>
    a.add ((tap g w h (x + i) (y + j)).mul ((wt px (x + i)).mul (wt py (y + j))))) a) (.ofNat 0))

/-- Average over an area: source extent [a/k, b/k) of each axis, in units of 1/k sample. -/
def areaAvg (g : Region) (w h : Nat) (ax bx kx ay by' ky : Nat) : Fl :=
  let cov := fun (a b k i : Nat) => min b ((i + 1) * k) - max a (i * k)
  let xs := (List.range (cdiv bx kx - ax / kx)).map (· + ax / kx)
  let ys := (List.range (cdiv by' ky - ay / ky)).map (· + ay / ky)
  let sum := ys.foldl (fun (t y : Nat) => xs.foldl (fun (t x : Nat) =>
    t + g.at (edge w x) (edge h y) * (cov ax bx kx x * cov ay by' ky y)) t) 0
  fl32 (.frac sum ((bx - ax) * (by' - ay)))

/-! ### Geometry (R141) -/

/-- Scaled size in the rotated frame: OUT, or the letterboxed size. -/
def scaledSize (e : List Byte) : Nat × Nat :=
  if !cLbox e then (cOutW e, cOutH e)
  else
    let n := if cOutW e * cRotH e ≤ cOutH e * cRotW e then (cOutW e, cRotW e) else (cOutH e, cRotH e)
    ((2 * cRotW e * n.1 + n.2) / (2 * n.2), (2 * cRotH e * n.1 + n.2) / (2 * n.2))

/-- Position of one axis: SRC + (x + 0.5) × SRC_W ÷ OW − 0.5 in FP32. -/
def samplePos (src len out x : Nat) : Fl :=
  fSub (fAdd (.ofNat src) (fDiv (fMul (.frac (2 * x + 1) 2) (.ofNat len)) (.ofNat out))) (.frac 1 2)

/-- Unrotated coordinates of a pixel of the scaled image, whose unrotated size is ow × oh. -/
def unrotate (rot ow oh x y : Nat) : Nat × Nat :=
  if rot = 0 then (x, y)
  else if rot = 1 then (y, oh - 1 - x)
  else if rot = 2 then (ow - 1 - x, oh - 1 - y)
  else (ow - 1 - y, x)

/-- The warp's position, or none where it yields PAD. -/
def warpPos (e : List Byte) (w h x y : Nat) : Option (Fl × Fl) :=
  let c := fun (i : Nat) => f32 (leAt e (0x20 + 4 * i) 4)
  let lin := fun (a b k : Fl) => fAdd (fAdd (fMul a (.ofNat x)) (fMul b (.ofNat y))) k
  let d := lin (c 6) (c 7) (.ofNat 1)
  let px := fDiv (lin (c 0) (c 1) (c 2)) d
  let py := fDiv (lin (c 3) (c 4) (c 5)) d
  let inside := fun (p : Fl) (n : Nat) => p.isFin && (Fl.num true 1 2 0).le p && p.lt ((Fl.ofNat n).sub (.frac 1 2))
  if (Fl.ofNat 0).lt d && inside px w && inside py h then some (px, py) else none

/-- Chroma at a luma position, chroma location type 0. -/
def chromaAt (s : Src) (g : Region) (px py : Fl) : Fl :=
  bilinear g (s.w / 2) (s.h / 2) (px.mul (.frac 1 2)) ((py.mul (.frac 1 2)).sub (.frac 1 4))

/-- Luma at a position by the point filters. -/
def lumaAt (s : Src) (filter : Nat) (px py : Fl) : Fl :=
  if filter = 0 then tap s.y s.w s.h (px.add (.frac 1 2)).floor (py.add (.frac 1 2)).floor
  else if filter = 2 then bicubic s.y s.w s.h px py
  else bilinear s.y s.w s.h px py

/-- Y, Cb and Cr of an output pixel, or none for PAD. -/
def pixel (e : List Byte) (s : Src) (ox oy : Nat) : Option (Fl × Fl × Fl) :=
  if cWarp e then
    match warpPos e s.w s.h ox oy with
    | none => none
    | some (px, py) => some (lumaAt s (cFilter e) px py, chromaAt s s.cb px py, chromaAt s s.cr px py)
  else
    let sz := scaledSize e
    let fx := (cOutW e - sz.1) / 2
    let fy := (cOutH e - sz.2) / 2
    if ox < fx || oy < fy || fx + sz.1 ≤ ox || fy + sz.2 ≤ oy then none
    else
      let ow := if cRot e % 2 = 0 then sz.1 else sz.2
      let oh := if cRot e % 2 = 0 then sz.2 else sz.1
      let q := unrotate (cRot e) ow oh (ox - fx) (oy - fy)
      let px := samplePos (cSrc e 0) (cSrc e 2) ow q.1
      let py := samplePos (cSrc e 1) (cSrc e 3) oh q.2
      let y := if cFilter e = 3 then
          areaAvg s.y s.w s.h (cSrc e 0 * ow + q.1 * cSrc e 2) (cSrc e 0 * ow + (q.1 + 1) * cSrc e 2) ow
            (cSrc e 1 * oh + q.2 * cSrc e 3) (cSrc e 1 * oh + (q.2 + 1) * cSrc e 3) oh
        else lumaAt s (cFilter e) px py
      some (y, chromaAt s s.cb px py, chromaAt s s.cr px py)

/-! ### Colour and output (R142) -/

/-- Red, green and blue of CSC 0-3, each one FP32 rounding of the exact matrix value, clamped. The coefficients are
those of BT.601 and BT.709 (PRESUMED, log 27). -/
def toRgb (csc : Nat) (y cb cr : Fl) : List Fl :=
  let limited := decide (csc < 2)
  let k := if csc % 2 = 0 then (2990, 1140) else (2126, 722)
  let kg := 10000 - k.1 - k.2
  let yy := if limited then (y.sub (.ofNat 16)).mul (.frac 255 219) else y
  let cs := fun (c : Fl) => (c.sub (.ofNat 128)).mul (if limited then .frac 255 224 else .ofNat 1)
  let b := cs cb
  let r := cs cr
  let cr2 := (Fl.frac (2 * (10000 - k.1)) 10000).mul r
  let cb2 := (Fl.frac (2 * (10000 - k.2)) 10000).mul b
  let g := yy.sub (((Fl.frac k.1 kg).mul cr2).add ((Fl.frac k.2 kg).mul cb2))
  [yy.add cr2, g, yy.add cb2].map (fun v => (fl32 v).clamp (.ofNat 0) (.ofNat 255))

/-- One output element's encoding: value x of channel c. -/
def outElem (e : List Byte) (c : Nat) (x : Fl) : Nat :=
  let f := byteAt e 3
  if f = 1 then rneClamp 255 x
  else
    let v := fMul (fSub x (fp16.dec (leAt e (0x14 + 2 * c) 2))) (fp16.dec (leAt e (0x1A + 2 * c) 2))
    if f = 0 then (cvtInt 8 .rne v).q
    else if f = 2 then (e4m3.cvt .rne v).q
    else if f = 3 then (bf16.cvt .rne v).q
    else (fp16.cvt .rne v).q

/-- The channel encodings of an output pixel. -/
def outPixel (e : List Byte) (depth : Nat) (p : Option (Fl × Fl × Fl)) : List Nat :=
  let chans := match p with
    | none => (List.range (cChan e)).map (fun c => Fl.ofNat (byteAt e (0x10 + c)))
    | some (y, cb, cr) =>
      let q := fun (v : Fl) => if depth = 10 then v.mul (.frac 1 4) else v
      if byteAt e 1 = 4 then [(q y).clamp (.ofNat 0) (.ofNat 255)]
      else
        let l := toRgb (byteAt e 1) (q y) (q cb) (q cr)
        if cBgr e then l.reverse else l
  (List.range chans.length).map (fun c => outElem e c (chans.getD c .nan))

/-- Bytes of one row of a plane of the output from its pixels' channel encodings (R143). -/
def outRow (e : List Byte) (plane : Nat) (px : List (List Nat)) : List Byte :=
  px.flatMap (fun p =>
    if byteAt e 2 = 0 then leBytes (cElem e) (p.getD plane 0)
    else (List.range (cPix e)).flatMap (fun c => leBytes (cElem e) (p.getD c 0)))

end Sys2Proof.Machine
end

