-- ==== Sys2Proof/Machine/Scaler.lean ====
section
/-!
DEFINITION. Machine/Scaler.lean: gating and scale-list commands, scaler pipes and job rings (R136-R148, R159, R564).
-/
namespace Sys2Proof.Machine

/-! ### Commands (R159) -/

/-- The first illegal field of a gate configuration record (Table 06-4). -/
def gateBad (s : State) (x : Stm) (o : List Byte) : Option Nat :=
  let tw := leAt o 4 2
  let th := leAt o 6 2
  let tileBad := fun (t m : Nat) => decide (t < 32 ∨ 1024 < t) || t % 16 != 0 || decide (64 < cdiv m t)
  (([(1 < byteAt o 0, 0), (16 < byteAt o 1, 1), (4 < byteAt o 2, 2), (1 < byteAt o 3, 3), (tileBad tw x.maxW, 4),
    (tileBad th x.maxH, 6), (255 ≤ leAt o 0xA 2 && leAt o 0xA 2 != 0xFFFF, 0xA),
    (63 < byteAt o 0xC || poolBelow' s (byteAt o 0xC) (128 + cdiv x.maxW tw * cdiv x.maxH th), 0xC),
    (63 < byteAt o 0xD, 0xD), (leAt o 0xE 2 < 1 || 4095 < leAt o 0xE 2, 0xE),
    (255 < leAt o 0x18 2 && leAt o 0x18 2 != 0xFFFF, 0x18), (!zeroAt o 0x1A 38, 0x1A)] : List (Bool × Nat)).find?
      (·.1)).map (·.2)
where
  /-- The block size of a pool is below a need, or the pool does not exist. -/
  poolBelow' (s : State) (pn need : Nat) : Bool :=
    match pool s pn with
    | some p => decide (p.bsize < need)
    | none => true

/-- GATE_SET (R148): gating starts again at GATE_NO 0, and its next frame is processed whole. -/
def opGateSet : POp := fun n o _ s =>
  let x := stm s n
  if 1024 ≤ n then illegal s 0
  else if x.st = 0 then refuse s 5 0
  else
    match gateBad s x o with
    | some f => illegal s f
    | none => done (updGate s n (fun g => { g with recd := o.take 64, no := 0, whole := true, age := [] }))

/-- SCALE_SET (R564): the entries are read now and kept. -/
def opScaleSet : POp := fun n o _ s =>
  let k := leAt o 8 4
  if 1024 ≤ n then illegal s 0
  else if 8 < k then illegal s 8
  else if (stm s n).st = 0 then refuse s 5 0
  else if k = 0 then done (updGate s n (fun g => { g with list := [] }))
  else
    let r := unitRead s (leAt o 0 8) (128 * k)
    if !r.2.2 then illegal r.1 0
    else done (updGate r.1 n (fun g => { g with
      list := (List.range k).map (fun i => (r.2.1.drop (128 * i)).take 128) }))

/-- Table 06-9. -/
def gateStatus (g : Gate) : List Byte :=
  leBytes 4 g.last ++ leBytes 2 g.procd ++ leBytes 2 g.carried ++ leBytes 4 g.frames.toNat ++ leBytes 4 g.wholes.toNat ++
    leBytes 4 g.fallback.toNat ++ leBytes 4 g.boxOvf.toNat ++ leBytes 4 g.dropped.toNat ++
    leBytes 4 g.cropLimit.toNat ++ zeros 32

/-- GATE_READ (R159). -/
def opGateRead : POp := fun n _ _ s =>
  if 1024 ≤ n then illegal s 0
  else if (stm s n).st = 0 then refuse s 5 0
  else done (portStatus s .scl (gateStatus (gate s n)))

/-- GATE_RESET (R150). -/
def opGateReset : POp := fun n _ _ s =>
  if 1024 ≤ n then illegal s 0
  else if (stm s n).st = 0 then refuse s 5 0
  else done (updGate s n (fun g => { g with age := [], whole := true }))

/-! ### Job rings (R145-R147) -/

/-- A cluster's PIPES_BUSY (Table 06-8). -/
def pipesBusy (s : State) (p : Nat) : State := setStatus s (sclPage p) 8 (s.pipes.any (fun q => q.1 / 8 == p))

/-- Address of the slot of a job number. -/
def slotAddr (s : State) (p n no : Nat) : Nat :=
  getR64 s (sclPage p) (ringOfs n) + 16384 * (no % 2 ^ bits (getR s (sclPage p) (ringOfs n + 8)) 3 0)

/-- Result fields of a job (Table 06-3, from 0x30). -/
def jobResult (s : State) (j : RJob) (code : Nat) : List Byte :=
  leBytes 1 code ++ leBytes 1 j.okN ++ leBytes 1 (match j.refused with
    | some (i, _) => i
    | none => 0xFF) ++ leBytes 1 (match j.refused with
    | some (_, f) => f
    | none => 0) ++ leBytes 1 (b2n j.damaged) ++ zeros 3 ++ leBytes 8 (now s)

/-- RESULT of a job that has run. -/
def RJob.result (j : RJob) : Nat := if j.code != 0 then j.code else if j.refused.isSome then 2 else 1

/-- Ends completed jobs at the head of a ring: results, RING_CONS, DONE_CLAVE, and the claim of a LAST_FOR_FRAME. -/
def ringFinish (s : State) (p n : Nat) : Nat → State
  | 0 => s
  | k + 1 =>
    let key := 8 * p + n
    match tgetD s.rjobs key [] with
    | [] => s
    | j :: t =>
      if j.ended < j.n then s
      else
        let s := (unitWrite s (j.addr + 0x30) (jobResult s j j.result)).1
        let s := putR { s with rjobs := tset s.rjobs key t } (sclPage p) (ringOfs n + 12) (word (j.no + 1))
        let s := if leAt j.hdr 0x10 2 ≤ 255 then clvAdd s (leAt j.hdr 0x10 2) 1 else s
        let s := match j.fr with
          | some f => if (byteAt j.hdr 1).testBit 0 && s.sframes.any (fun g => g.stm == f.stm && g.map == f.map &&
              g.frameNo == f.frameNo) then sframeDrop s f else s
          | none => s
        ringFinish s p n k

/-- Changes a started job of a ring. -/
def updJob (s : State) (key no : Nat) (f : RJob → RJob) : State :=
  { s with rjobs := tmod s.rjobs key (fun l => l.map (fun j => if j.no = no then f j else j)) }

/-- Starts a ring's next runnable job (R146): NO_FRAME, STALE and CROP_LIMIT are decided here. -/
def ringStart (s : State) (p n : Nat) : State :=
  let key := 8 * p + n
  match tgetD s.ringAt key [] with
  | [] => s
  | at' :: rest =>
    let jobs := tgetD s.rjobs key []
    let no := ((getR s (sclPage p) (ringOfs n + 12)).toNat + jobs.length) % 2 ^ 32
    let a := slotAddr s p n no
    let r := unitRead s a 64
    let s := { r.1 with ringAt := tset r.1.ringAt key rest }
    let h := if r.2.2 then r.2.1 else zeros 64
    let m := leAt h 2 2
    let mp := leAt h 8 8
    let cand := s.sframes.filter (fun f => f.stm == m && f.map == mp)
    let fr := match cand.find? (fun f => f.frameNo == leAt h 4 4) with
      | some f => some f
      | none => cand.head?
    let fr := if r.2.2 && rdLe s (mp + 0x14) 4 = leAt h 4 4 then fr else none
    let j : RJob := { no := no, hdr := h, addr := a, runAt := at', prio := (stm s m).prio }
    let N := byteAt h 0
    match fr with
    | none => { s with rjobs := tset s.rjobs key (jobs ++ [{ j with code := 3 }]) }
    | some f =>
      if !(stm s m).adapt && aged s f.stamp (stm s m).stale then
        { s with rjobs := tset s.rjobs key (jobs ++ [{ j with code := 4 }]) }
      else
        let room := min N (64 - f.jobs)
        let s := updSframe s f (fun f => { f with jobs := f.jobs + room })
        let s := if room < N then updGate s m (fun g => { g with cropLimit := satAdd g.cropLimit (N - room) }) else s
        { s with rjobs := tset s.rjobs key (jobs ++ [{ j with
            fr := some f, n := room, code := if room < N then 5 else 0 }]) }

/-- Starts what a ring can start: jobs without entries end at once, and a next job starts once every entry of the one
before it has been taken. -/
def ringAdvance (s : State) (p n : Nat) : Nat → State
  | 0 => s
  | k + 1 =>
    let key := 8 * p + n
    let open' := (tgetD s.rjobs key []).any (fun j => j.taken < j.n)
    if open' || (tgetD s.ringAt key []).isEmpty || !bit (getR s (sclPage p) (ringOfs n + 8)) 31 then s
    else ringAdvance (ringFinish (ringStart s p n) p n 257) p n k

/-- A ring's unfinished jobs end with ABORTED and RING_CONS takes the counter's value; entries in pipes complete
(R147). Ended so, a job signals no counter and releases no claim (log 28). -/
def ringAbort (s : State) (p n : Nat) : State :=
  let key := 8 * p + n
  let pg := sclPage p
  let jobs := tgetD s.rjobs key []
  let s := jobs.foldl (fun s j => (unitWrite s (j.addr + 0x30) (jobResult s j 6)).1) s
  let first := (getR s pg (ringOfs n + 12)).toNat + jobs.length
  let s := forN (tgetD s.ringAt key []).length (fun i s =>
    let a := slotAddr s p n (first + i)
    (unitWrite s (a + 0x30) (jobResult s { no := 0, hdr := [], addr := a, runAt := 0 } 6)).1) s
  putR { s with rjobs := tdel s.rjobs key, ringAt := tdel s.ringAt key } pg (ringOfs n + 12)
    (clv s (bits (getR s pg (ringOfs n + 8)) 15 8))

/-- RING_RESET (R147). -/
def opRingReset : POp := fun i _ _ s =>
  if 32 ≤ i then illegal s 0 else done (ringAbort s (i / 8) (i % 8))

/-- Ends the rings of a context that is torn down (R147). -/
def ringsOfCtx (s : State) (c : Nat) : State :=
  forN 4 (fun p s => forN 8 (fun n s =>
    let cfg := getR s (sclPage p) (ringOfs n + 8)
    if bit cfg 31 && bits cfg 27 16 = c then ringAbort s p n else s) s) s

/-! ### Pipes -/

/-- An entry that a free pipe can take. -/
structure Cand where
  prio : Nat
  cls : Nat            -- 0 standing, 1 ring
  at' : Nat
  stm : Nat
  fr : SFrame
  ring : Option Nat := none
  job : Nat := 0
  idx : Nat
  deriving DecidableEq, Repr

/-- The order of R138. -/
def Cand.before (a b : Cand) : Bool :=
  let k := fun (c : Cand) => [c.prio, c.cls, c.at', c.stm]
  decide (k a < k b)

/-- Candidates of a cluster: the next standing entry of each runnable frame, and the next entry of each ring's job. -/
def pipeCands (s : State) (p : Nat) : List Cand :=
  (s.sframes.filter (fun f => f.cluster == p && f.phase == 1 && decide (f.taken < f.list.length))).map (fun f =>
    { prio := (stm s f.stm).prio, cls := 0, at' := f.runAt, stm := f.stm, fr := f, idx := f.taken }) ++
  (List.range 8).flatMap (fun n =>
    match (tgetD s.rjobs (8 * p + n) []).find? (fun j => decide (j.taken < j.n)) with
    | some j =>
      match j.fr with
      | some f => [{ prio := (stm s f.stm).prio, cls := 1, at' := j.runAt, stm := f.stm, fr := f,
                     ring := some (8 * p + n), job := j.no, idx := j.taken }]
      | none => []
    | none => [])

/-- The allocated block that holds a whole byte range. -/
def blockHolding (s : State) (a n : Nat) : Option (KPool × Nat) :=
  match s.ket.pools.find? (fun q => q.2.base ≤ a && a < q.2.base + q.2.nblocks * q.2.bsize) with
  | none => none
  | some (_, p) =>
    let b := (a - p.base) / p.bsize
    if p.broken || p.addr b + p.bsize < a + n || (tget p.owners b).isNone then none else some (p, b)

/-- The consumer of an entry (R140): the ring's owner, or CONSUMER_CTX of the gate configuration. -/
def consumerOf (s : State) (c : Cand) : Option Nat :=
  match c.ring with
  | some k => some (bits (getR s (sclPage (k / 8)) (ringOfs (k % 8) + 8)) 27 16)
  | none => if (gate s c.stm).gated then some (leAt (gate s c.stm).recd 0xE 2) else none

/-- The destination of an entry is not allowed (R140). -/
def destBad (s : State) (e : List Byte) (cons : Option Nat) : Bool :=
  if cPool e then
    match cons with
    | none => true
    | some _ =>
      match pool s (leAt e 0x40 8 % 64) with
      | some k => decide (k.bsize < cExtent e)
      | none => true
  else
    match blockHolding s (leAt e 0x40 8) (cExtent e) with
    | none => true
    | some (k, b) =>
      match cons with
      | some c => !(liveOwners s k b).any (fun o => o.space == 1 && o.id == c)
      | none => false

/-- One block for the consumer, or none. -/
def consAlloc (s : State) (pn : Nat) (c : Option Nat) : State × Option Nat :=
  match c with
  | none => (s, none)
  | some c => gateDecide.stmAllocCtx s pn c

/-- An entry is refused (R140): counted, and its list or job goes on. -/
def entryRefused (s : State) (p : Nat) (c : Cand) (field : Nat) : State :=
  let s := bump s (sclPage p) 1
  match c.ring with
  | some k => updJob s k c.job (fun j => { j with
      ended := j.ended + 1, refused := if j.refused.isSome then j.refused else some (c.idx, field) })
  | none => updSframe s c.fr (fun f => { f with ended := f.ended + 1 })

/-- What follows the end of an entry: the list or the ring's jobs that it completes. -/
def entryEnded (s : State) (stmN frameNo map : Nat) (ring : Option Nat) : State :=
  match ring with
  | some k => ringAdvance (ringFinish s (k / 8) (k % 8) 257) (k / 8) (k % 8) 257
  | none =>
    match s.sframes.find? (fun f => f.stm == stmN && f.frameNo == frameNo && f.map == map) with
    | some f => if f.phase = 1 && f.list.length ≤ f.ended then listDone s f else s
    | none => s

/-- A pipe takes an entry: it is read, checked, given its blocks, and held or refused. -/
def takeEntry (s : State) (p pipe : Nat) (c : Cand) : State :=
  let s := match c.ring with
    | some k => updJob s k c.job (fun j => { j with taken := j.taken + 1 })
    | none => updSframe s c.fr (fun f => { f with taken := f.taken + 1 })
  let rd := match c.ring with
    | some k =>
      match (tgetD s.rjobs k []).find? (fun (j : RJob) => j.no == c.job) with
      | some j => unitRead s (j.addr + 64 + 128 * c.idx) 128
      | none => (s, [], false)
    | none => (s, c.fr.list.getD c.idx [], true)
  let s := rd.1
  let e := rd.2.1
  let refused := fun (s : State) (f : Nat) => entryEnded (entryRefused s p c f) c.stm c.fr.frameNo c.fr.map c.ring
  if !rd.2.2 then refused s 0
  else
    let cons := consumerOf s c
    match entryBad e c.ring.isSome c.fr.w c.fr.h with
    | some f => refused s f
    | none =>
      match entryBad2 e (destBad s e cons) (cons.isNone) with
      | some f => refused s f
      | none =>
        let d := if cPool e then consAlloc s (leAt e 0x40 8 % 64) cons else (s, some (leAt e 0x40 8))
        match d with
        | (s, none) => refused s 0x40
        | (s, some dest) =>
          let k := if byteAt e 0x50 = 0 then (s, some 0) else consAlloc s (byteAt e 0x51) cons
          match k with
          | (s, none) => refused (if cPool e then relBlock s dest 1 (cons.getD 0) else s) 0x51
          | (s, some kb) =>
            let s := if c.ring.isSome then s else
              updSframe s c.fr (fun f => { f with outAddr := tset f.outAddr c.idx dest })
            let x : PipeEnt := { fr := c.fr, ring := c.ring, job := c.job, idx := c.idx, recd := e, dest := dest,
                                 keep := if byteAt e 0x50 = 0 then none else some kb }
            pipesBusy { s with pipes := tset s.pipes (8 * p + pipe) x } p

/-- PIPE_TAKE_ENTRY: a free pipe of cluster p takes the first entry in the order of R138. -/
def execPipeTakeEntry (p : Nat) (s : State) : Host.Outcome State Fault Refusal :=
  .next (
    let free := (List.range 8).find? (fun i => (tget s.pipes (8 * p + i)).isNone)
    match free with
    | none => s
    | some pipe =>
      if 4 ≤ p || lowEvent s || !ready s (sclPage p) || quiesceOf (blk s (sclPage p)) || !partStays s p then s
      else
        let s := forN 8 (fun n s => ringAdvance s p n 257) s
        match (pipeCands s p).foldl (fun (b : Option Cand) c =>
          match b with
          | none => some c
          | some d => if c.before d then some c else some d) none with
        | none => s
        | some c => takeEntry s p pipe c)

/-- Samples the spec leaves open, n of them at depth b: the chroma and the border of a keep copy (R144; log 27). -/
def freeSamples (s : State) (b n : Nat) : List Nat × State :=
  ((List.range n).map (fun i => (Config.freeWord (s.free + i)).toNat % 2 ^ b), { s with free := s.free + n })

/-- Writes the rows of one plane of an output. -/
def writeRows (s : State) (e : List Byte) (dest plane : Nat) (px : List (List Nat)) : Nat → State
  | 0 => s
  | k + 1 =>
    let s := writeRows s e dest plane px k
    (unitWrite s (dest + (plane * cOutH e + k) * cPitch e) (outRow e plane ((px.drop (k * cOutW e)).take (cOutW e)))).1

/-- Runs an entry: reads its source, writes its output and its keep copy; answers the damaged tiles it read. -/
def runEntry (s : State) (x : PipeEnt) : State × Nat :=
  let e := x.recd
  let f := x.fr
  let b := f.depth
  let x0 := if cWarp e then 0 else cSrc e 0 - 2
  let y0 := if cWarp e then 0 else cSrc e 1 - 2
  let x1 := if cWarp e then f.w - 1 else min (f.w - 1) (cSrc e 0 + cSrc e 2 + 1)
  let y1 := if cWarp e then f.h - 1 else min (f.h - 1) (cSrc e 1 + cSrc e 3 + 1)
  let ry := readRegion s f.pic b f.cw x0 y0 x1 y1
  let cb := f.pic + planeSize f.cw f.ch b
  let cr := cb + planeSize (f.cw / 2) (f.ch / 2) b
  let c0x := x0 / 2 - 1
  let c0y := y0 / 2 - 1
  let c1x := min (f.w / 2 - 1) (x1 / 2 + 1)
  let c1y := min (f.h / 2 - 1) (y1 / 2 + 1)
  let rb := readRegion ry.1 cb b (f.cw / 2) c0x c0y c1x c1y
  let rr := readRegion rb.1 cr b (f.cw / 2) c0x c0y c1x c1y
  let src : Src := { y := ry.2.1, cb := rb.2.1, cr := rr.2.1, w := f.w, h := f.h }
  let s := rr.1
  let pts := (List.range (cOutW e * cOutH e)).map (fun i => pixel e src (i % cOutW e) (i / cOutW e))
  let px := pts.map (outPixel e b)
  let s := forN (cPlanes e) (fun c s => writeRows s e x.dest c px (cOutH e)) s
  let s := match x.keep with
    | none => s
    | some kb =>
      let n := cOutW e * cOutH e
      let fy := freeSamples s b n
      let ys := (List.range n).map (fun i =>
        match pts.getD i none with
        | some (y, _, _) => rneClamp (2 ^ b - 1) y
        | none => fy.1.getD i 0)
      let fb := freeSamples fy.2 b (n / 4)
      let fc := freeSamples fb.2 b (n / 4)
      writePicture fc.2 kb b ([0, 0, 1, 2, 4].getD (byteAt e 0x50) 0) (cOutW e) (cOutH e) ys fb.1 fc.1
  (s, ry.2.2 + rb.2.2 + rr.2.2)

/-- CROP_ENTRY_COMPLETE: the entry of pipe k is written, unless Gong's cut holds its pipe (R474), and completes its list or job (R136, R147, R152). -/
def execCropEntryComplete (k : Nat) (s : State) : Host.Outcome State Fault Refusal :=
  .next (match tget s.pipes k with
    | none => s
    | some x =>
      if lowEvent s then s else
      let p := k / 8
      let r := runEntry s x
      let s := bumpN (bump r.1 (sclPage p) 0) (sclPage p) 7 r.2
      let s := pipesBusy { s with pipes := tdel s.pipes k } p
      let s := match x.ring with
        | some q => updJob s q x.job (fun j => { j with
            ended := j.ended + 1, okN := j.okN + 1, damaged := j.damaged || r.2 != 0 })
        | none => updSframe s x.fr (fun f => { f with ended := f.ended + 1 })
      entryEnded s x.fr.stm x.fr.frameNo x.fr.map x.ring)

/-- SCALER_CLAIM_STALE_EXPIRY: the claim of each picture of the stream whose age has reached STALE_LIMIT is released
and counted (R147). A frame whose list is not complete is dropped, and the tracker has a gap (R20, R359; log 28). -/
def execScalerClaimStaleExpiry (n : Nat) (s : State) : Host.Outcome State Fault Refusal :=
  .next (if (stm s n).adapt then s
    else (s.sframes.filter (fun f => f.stm == n && aged s f.stamp (stm s n).stale)).foldl (fun s f =>
      let s := bump s (sclPage f.cluster) 6
      if f.phase = 2 then sframeDrop s f else startDrop s f 1) s)

/-- GATE_SET. -/
def execGateSet (m : Master) (tag idx : Nat) (s : State) : Host.Outcome State Fault Refusal :=
  .next (portCmd .scl m 1 tag idx opGateSet s)

/-- SCALE_SET. -/
def execScaleSet (m : Master) (tag idx : Nat) (s : State) : Host.Outcome State Fault Refusal :=
  .next (portCmd .scl m 2 tag idx opScaleSet s)

/-- GATE_READ. -/
def execGateRead (m : Master) (tag idx : Nat) (s : State) : Host.Outcome State Fault Refusal :=
  .next (portCmd .scl m 3 tag idx opGateRead s)

/-- GATE_RESET. -/
def execGateReset (m : Master) (tag idx : Nat) (s : State) : Host.Outcome State Fault Refusal :=
  .next (portCmd .scl m 4 tag idx opGateReset s)

/-- RING_RESET. -/
def execRingReset (m : Master) (tag idx : Nat) (s : State) : Host.Outcome State Fault Refusal :=
  .next (portCmd .scl m 5 tag idx opRingReset s)

end Sys2Proof.Machine
end

