-- ==== Sys2Proof/Machine/CarOps.lean ====
section
/-!
DEFINITION. Machine/CarOps.lean: what Carillon's commands are built from: the checks of a mapping list (R221-R226, R327), the
order and placement of grants (R318-R320), the swap (R324), pauses and context images (R325-R333).
-/
namespace Sys2Proof.Machine

/-! ### Cores -/

/-- A core that the part and the active profile offer (R222). -/
def coreOffered (s : State) (c : Nat) : Bool := corePresent s c && partStays s (c / 12)

/-- An urgent-capable core (R327). -/
def urgCap (s : State) (c : Nat) : Bool :=
  corePresent s c && (if c < 32 then bit (getR s 0x190 0x110) c else bit (getR s 0x190 0x114) (c - 32))

/-- First byte of the urgent reserve in an urgent-capable core's scratchpad. -/
def reserveTop (s : State) : Nat := 0x400000 - bits (getR s 0x190 0x118) 7 0 * 0x10000

/-- First byte of the urgent working rows, behind the park area. -/
def workTop (s : State) : Nat := reserveTop s + 1408 * 1024

/-- A core that can be granted: offered, in RUN, neither scrubbing nor retained (R285, R287). -/
def coreUsable (s : State) (c : Nat) : Bool := coreOffered s c && ready s (corePg c) && (coreSt s c).st == 0

/-- Contexts that hold a core and are not parked there. -/
def coreUsers (s : State) (c : Nat) : List Nat :=
  (s.ctxs.filter (fun (q : Nat × Ctx) => q.2.cores.contains c && tget s.car.parkedOn c != some q.1)).map (·.1)

/-- CLASS of a context. -/
def clsOf (s : State) (n : Nat) : Nat := byteAt (ctx s n).recd 0

/-- Bytes as they stand, without the effects of a read. -/
def peek (s : State) (a n : Nat) : List Byte := fitBytes n (unitRead s a n).2.1

/-- The fault of a read by Carillon that brought no bytes (R52, R419, R454, R462). -/
def readCode (s : State) (a : Nat) : Nat :=
  match locate a with
  | .gddr => 8
  | .host _ _ => if s.pcie.frozen then 0x0E else 0x0D
  | _ => 0x0D

/-! ### The mapping list (R221-R226) -/

/-- RELOCATABLE. -/
def hdrReloc (h : List Byte) : Bool := (byteAt h 5).testBit 0
/-- NCORES. -/
def hdrCores (h : List Byte) : Nat := byteAt h 6
/-- OFFSET of a stream, in bytes. -/
def hdrOfs (h : List Byte) (k : Nat) : Nat := 64 * leAt h (0x40 + 8 * k) 4
/-- COUNT of a stream. -/
def hdrCount (h : List Byte) (k : Nat) : Nat := leAt h (0x44 + 8 * k) 4

/-- The values of a list are pairwise different. -/
def distinct : List Nat → Bool
  | [] => true
  | x :: t => !t.contains x && distinct t

/-- The check of a list header for a class: 0, or the fault code (R223, R327). -/
def hdrCheck (s : State) (cls : Nat) (h : List Byte) : Nat :=
  let nc := hdrCores h
  let map := (List.range nc).map (fun k => byteAt h (0x10 + k))
  let form := h.take 4 == [0x43, 0x58, 0x4D, 0x4C] && byteAt h 4 == 1 && byteAt h 5 < 2 && inR nc 1 48 && byteAt h 7 == 0 &&
    leAt h 8 2 ≤ 255 && zeroAt h 0xA 6 &&
    (if hdrReloc h then (List.range 48).all (fun k => byteAt h (0x10 + k) == 0xFF)
     else distinct map && (List.range (48 - nc)).all (fun k => byteAt h (0x10 + nc + k) == 0xFF)) &&
    (List.range nc).all (fun k => 8 ≤ leAt h (0x40 + 8 * k) 4 && inR (hdrCount h k) 1 16777215) &&
    zeroAt h (0x40 + 8 * nc) (8 * (48 - nc)) && zeroAt h 0x1C0 64
  let offered := (List.range 48).filter (coreOffered s)
  let urgent := offered.filter (urgCap s)
  if !form then 0x04
  else if cls = 0 && urgent.length < nc then 0x0B
  else if hdrReloc h then (if offered.length < nc then 0x0B else 0)
  else if map.all (fun c => coreOffered s c && (cls != 0 || urgCap s c)) then 0 else 0x0B

/-- CLK_ENG cycles of NP_LIMIT at the active profile's frequency: 3,840 MHz over ENG_DIV (R226). -/
def npCycles (s : State) : Nat := npLimitUs s * 3840 / profF s 0x102 1 12

/-- Scans a stream for non-preemptible units: 0, or the fault code. The option is the summed MAX_CYC of the unit so far. -/
def npScan (s : State) : Nat → Nat → Option Nat → Nat
  | 0, _, _ => 0
  | k + 1, a, u =>
    let d := peek s a 16
    let np := byteAt d 1 % 4
    let bad := isOp 0x10 d || isOp 0x12 d || isOp 9 d || (isOp 0x30 d && (byteAt d 8 == 2 || byteAt d 8 == 3))
    if np = 2 && u.isNone then 0x04
    else
      match (if np = 1 then some (leAt d 4 3) else if np = 2 then u.map (· + leAt d 4 3) else none) with
      | none => npScan s k (a + 64) none
      | some x => if bad then 0x04 else if npCycles s < x then 0x0A else npScan s k (a + 64) (some x)

/-- The scan of every stream of a list. -/
def npCheck (s : State) (a : Nat) (h : List Byte) : Nat :=
  (((List.range (hdrCores h)).map (fun k => npScan s (hdrCount h k) (a + hdrOfs h k) none)).find? (· != 0)).getD 0

/-- The submission check of a list (R223, R226). -/
def listCheck (s : State) (cls a : Nat) : Nat :=
  let r := unitRead s a 512
  if a % 64 != 0 then 0x04
  else if !r.2.2 then readCode s a
  else
    let c := hdrCheck s cls r.2.1
    if c != 0 then c else npCheck s a r.2.1

/-- An invocation record keeps Table 13-2. -/
def invOk (r : List Byte) : Bool :=
  let m := leAt r 0x18 2
  leAt r 0 8 % 64 == 0 && (m < 1024 || m == 0xFFFF) && leAt r 0x1A 2 < 2 && !((byteAt r 0x1A).testBit 0 && m == 0xFFFF) &&
    zeroAt r 0x1C 4 && zeroAt r 0x28 24

/-! ### Handle tables (R276, R327) -/

/-- A handle entry keeps Table 11-2, for a list of nc logical cores. -/
def handleOk (e : List Byte) (nc : Nat) : Bool :=
  let f := byteAt e 0
  let mem := f.testBit 4
  let fmt := byteAt e 2
  let sc := f32 (leAt e 4 4)
  let base := leAt e 8 8
  let ext := leAt e 0x10 8
  f / 32 == 0 && (if mem then byteAt e 1 == 0 else byteAt e 1 < nc) && (fmt ≤ 6 || fmt == 0xFF) && byteAt e 3 / 16 == 0 &&
    sc.isFin && fl0.lt sc && ((fmt ≤ 3) || leAt e 4 4 == 0x3F800000) && base % 64 == 0 && ext % 64 == 0 && 64 ≤ ext &&
    (if mem then base < 2 ^ 48 && ext ≤ 2 ^ 40 else base < 0x400000 && base + ext ≤ 0x400000) && zeroAt e 0x18 8

/-- Byte range of a valid SCRATCH handle of logical core lc on itself. -/
def localSpan (lc : Nat) (e : List Byte) : Option (Nat × Nat) :=
  if byteAt e 0 % 2 = 1 && !(byteAt e 0).testBit 4 && byteAt e 1 = lc then some (leAt e 8 8, leAt e 8 8 + leAt e 0x10 8) else none

/-- The reserve admits a local handle on an urgent-capable core: a class 0 one in the working rows, another clear of the
reserve (R327). -/
def reserveOk (s : State) (cls : Nat) (r : Nat × Nat) : Bool :=
  if cls = 0 then decide (workTop s ≤ r.1) else decide (r.2 ≤ reserveTop s)

/-- One entry as it is loaded on a core: PROVISIONAL and PTAG are the device's own; an entry that breaks a rule becomes
invalid. -/
def handleLoad (s : State) (cls core lc nc : Nat) (e : List Byte) : List Byte :=
  let ok := handleOk e nc && (match localSpan lc e with
    | some r => !urgCap s core || reserveOk s cls r
    | none => true)
  let f := byteAt e 0
  putAt (putAt e 0 (leBytes 1 (f - 8 * (f / 8 % 2) - (if ok then 0 else f % 2)))) 3 [0]

/-- The 64 entries of a table of 2,048 bytes. -/
def handleTab (f : List Byte → List Byte) (l : List Byte) : Tbl (List Byte) :=
  (List.range 64).map (fun h => (h, f ((l.drop (32 * h)).take 32)))

/-- A MEM handle made by the device (R315, R348, R405). -/
def memHandle (ro : Bool) (base ext : Nat) : List Byte :=
  leBytes 1 (0x11 + 2 * b2n ro) ++ [0, 0xFF, 0] ++ leBytes 4 0x3F800000 ++ leBytes 8 base ++ leBytes 8 ext ++ zeros 8

/-- Size of the Kettle block at an address; 64 B for a header of the firmware area. -/
def blockSize (s : State) (a : Nat) : Nat :=
  match ketPtr s a with
  | some q => q.2.1.bsize
  | none => 64

/-- Handles that the device replaces on a logical core for an invocation (R315, R348, R398). -/
def devHandles (s : State) (i : Inv) (lc : Nat) : List (Nat × List Byte) :=
  if i.special = 1 then
    let x := batch s i.owner
    [(62, memHandle true x.plan (blockSize s x.plan)), (61, memHandle false x.out (blockSize s x.out))]
  else if i.special = 2 then
    let x := ajob s i.owner
    let st := leAt x.recd 0x38 2
    let b := x.blks.getD (x.step % 2) 0
    [(60, memHandle false (leAt x.recd 0x18 8 + lc * st) st)] ++ (if lc = 0 then [(59, memHandle true b (blockSize s b))] else [])
  else if i.block != 0 && lc = 0 then [(63, memHandle true i.block (blockSize s i.block))]
  else []

/-! ### The shape of what waits for cores -/

/-- What a grant needs: RELOCATABLE, the number of cores, the core map, and the handle table of a logical core. -/
structure Shape where
  reloc : Bool
  nc : Nat
  map : List Nat
  tabAt : List Nat
  deriving DecidableEq, Repr

/-- The shape of a list's invocation. -/
def listShape (s : State) (i : Inv) : Shape :=
  let h := peek s (leAt i.recd 0 8) 512
  { reloc := hdrReloc h, nc := hdrCores h, map := (List.range (hdrCores h)).map (fun k => byteAt h (0x10 + k)),
    tabAt := (List.range (hdrCores h)).map (fun k => leAt i.recd 8 8 + 2048 * k) }

/-- MID_INVOCATION of a context's image. -/
def imgMid (s : State) (n : Nat) : Bool := (byteAt (peek s (ctx s n).image 8) 5).testBit 1

/-- The shape of a context image. -/
def imgShape (s : State) (a : Nat) : Shape :=
  let h := peek s a 512
  { reloc := (byteAt h 5).testBit 0, nc := byteAt h 6, map := (List.range (byteAt h 6)).map (fun k => byteAt h (0xC0 + k)),
    tabAt := (List.range (byteAt h 6)).map (fun k => a + 64 * leAt h (0x100 + 4 * k) 4 + 0x800) }

/-- The invocation that a context would be granted for: the head of its queue, or the one it is suspended in. -/
def headInv (s : State) (n : Nat) : Option Inv :=
  let c := ctx s n
  if c.st = .waiting then c.queue.head? else if c.st = .suspended then c.cur else none

/-- The shape of a context's next grant. -/
def shapeOf (s : State) (n : Nat) (i : Inv) : Shape :=
  if (ctx s n).st = .suspended && imgMid s n then imgShape s (ctx s n).image else listShape s i

/-- Local spans of a logical core. -/
def shapeSpans (s : State) (sh : Shape) (lc : Nat) : List (Nat × Nat) :=
  (List.range 64).filterMap (fun h => localSpan lc (peek s (sh.tabAt.getD lc 0 + 32 * h) 32))

/-- A logical core's handles avoid the urgent reserve (R319, R327). -/
def avoids (s : State) (sh : Shape) (lc : Nat) : Bool := (shapeSpans s sh lc).all (fun r => decide (r.2 ≤ reserveTop s))

/-! ### Selection (R318) -/

/-- The completion ring of a context is full (R314); a batch has a logit ring instead (R341). -/
def cplFull (s : State) (n : Nat) (i : Inv) : Bool :=
  let c := ctx s n
  i.special != 1 && 2 ^ byteAt c.recd 0x19 ≤ (c.cplProd - c.cplCons).toNat

/-- A context has an invocation that may be selected. -/
def selectable (s : State) (n : Nat) : Bool :=
  match headInv s n with
  | some i => (ctx s n).st = .suspended || !cplFull s n i
  | none => false

/-- The key of R318: class, PRIORITY, CAPTURE (behind every stream without an STM), arrival, ctx. -/
def selKey (s : State) (n : Nat) : List Nat :=
  match headInv s n with
  | none => [4]
  | some i => [clsOf s n, byteAt (ctx s n).recd 2, if leAt i.recd 0x18 2 = 0xFFFF then 2 ^ 64 else leAt i.recd 0x20 8, i.arrival, n]

/-- Contexts that come before one in the selection order. -/
def selBefore (s : State) (n : Nat) : List Nat :=
  (tkeys s.ctxs).filter (fun m => m != n && selectable s m && decide (selKey s m < selKey s n))

/-- The head invocation is stale at its selection (R316). -/
def invStale (s : State) (i : Inv) : Bool :=
  let m := leAt i.recd 0x18 2
  (byteAt i.recd 0x1A).testBit 0 && m < 1024 && (stm s m).st != 0 && !(stm s m).adapt && aged s (leAt i.recd 0x20 8) (stm s m).stale

/-- The fault for which an invocation is refused at its grant, 0 for none (R223, R226, R324). A ring entry was checked when
it was submitted; its header is checked again. -/
def invCode (s : State) (n : Nat) (i : Inv) : Nat :=
  let a := leAt i.recd 0 8
  if i.checked != 0 then i.checked
  else if !i.ring then (if invOk i.recd then listCheck s (clsOf s n) a else 0x04)
  else
    let r := unitRead s a 512
    if r.2.2 then hdrCheck s (clsOf s n) r.2.1 else readCode s a

/-! ### Placement (R319, R320) -/

/-- A core is reserved for another context that still waits for it. -/
def reservedOther (s : State) (n c : Nat) : Bool :=
  match tget s.car.reserved c with
  | some m => m != n && selectable s m
  | none => false

/-- A core is free for a context: a class 0 one takes urgent-capable cores, with a context parked below it or not; another
takes a core with nothing parked (R328). -/
def coreFree (s : State) (n c : Nat) : Bool :=
  coreUsable s c && !reservedOther s n c && (coreUsers s c).isEmpty &&
    (if clsOf s n = 0 then urgCap s c else (tget s.car.parkedOn c).isNone)

/-- A core that may be shared: both contexts allow it and are of one class, its handles are disjoint from the other's, and it
is not urgent-capable (R320). -/
def coreShared (s : State) (n c : Nat) (sh : Shape) (lc : Nat) : Bool :=
  match coreUsers s c with
  | [m] =>
    coreUsable s c && !reservedOther s n c && !urgCap s c && (tget s.car.parkedOn c).isNone && (ctx s m).st == .running &&
      clsOf s m == clsOf s n && (ctx s m).flag 2 && (ctx s n).flag 2 && (ctx s m).evict.isNone &&
      (let ml := ((ctx s m).cores.takeWhile (· != c)).length
       let l := (seq s m ml).handles.filterMap (fun (q : Nat × List Byte) => localSpan ml q.2)
       (shapeSpans s sh lc).all (fun a => l.all (fun b => decide (a.2 ≤ b.1 ∨ b.2 ≤ a.1))))
  | _ => false

/-- A busy core can be freed for a context under Table 13-5: parked for class 0, evicted for classes 1 and 2. -/
def coreFreeable (s : State) (n c : Nat) : Bool :=
  let us := coreUsers s c
  coreUsable s c && !reservedOther s n c && (tget s.car.parkedOn c).isNone && !us.isEmpty &&
    (match clsOf s n with
     | 0 => urgCap s c && us.all (fun m => clsOf s m != 0 && ((ctx s m).st == .running || (ctx s m).st == .parked))
     | 1 => us.all (fun m => 2 ≤ clsOf s m && (ctx s m).st == .running)
     | 2 => us.all (fun m => clsOf s m == 3 && (ctx s m).st == .running)
     | _ => false)

/-- A logical core may stand on a physical core: outside class 0 it avoids the reserve of an urgent-capable one, where
Carillon chooses the map. -/
def coreSuits (s : State) (n : Nat) (sh : Shape) (lc c : Nat) : Bool := clsOf s n = 0 || !sh.reloc || !urgCap s c || avoids s sh lc

/-- A placement is legal with the cores that a test allows. -/
def placeOk (s : State) (n : Nat) (sh : Shape) (place : List Nat) (allow : Nat → Nat → Bool) : Bool :=
  place.length == sh.nc && distinct place && (sh.reloc || place == sh.map) &&
    (List.range place.length).all (fun k => allow k (place.getD k 48) && coreSuits s n sh k (place.getD k 48))

/-- Cores of a set of partitions, as far as a relocatable list can use them: those that are not urgent-capable, and as many
urgent-capable ones as it has logical cores that avoid the reserve. -/
def roomIn (s : State) (n : Nat) (sh : Shape) (free : Nat → Bool) (parts : Nat) : Nat :=
  let l := (List.range 48).filter (fun c => parts.testBit (c / 12) && free c)
  if clsOf s n = 0 then l.length
  else
    let k := ((List.range sh.nc).filter (avoids s sh)).length
    (l.filter (fun c => !urgCap s c)).length + min (l.filter (urgCap s)).length k

/-- A context's next grant fits in the cores that a test calls free. -/
def fits (s : State) (n : Nat) (sh : Shape) (free : Nat → Bool) : Bool :=
  if sh.reloc then decide (sh.nc ≤ roomIn s n sh free 15) else sh.map.all free

/-- Selecting a context would dispose of its invocation, or it fits in free cores. -/
def goesFirst (s : State) (m : Nat) : Bool :=
  match headInv s m with
  | none => false
  | some i =>
    ((ctx s m).st = .waiting && (invStale s i || invCode s m i != 0)) || fits s m (shapeOf s m i) (coreFree s m)

/-- Carillon's preference for a relocatable list: the fewest partitions, then the most cores that ran the context last. -/
def placeBest (s : State) (n : Nat) (sh : Shape) (place : List Nat) : Bool :=
  let free := coreFree s n
  let parts := (place.map (fun c => c / 12)).eraseDups.length
  let cands := (List.range 16).filter (fun p => (List.range 4).countP p.testBit == parts && sh.nc ≤ roomIn s n sh free p)
  let last := fun (c : Nat) => free c && (ctx s n).lastCores.contains c
  !sh.reloc ||
    ((List.range 16).all (fun p => decide (parts ≤ (List.range 4).countP p.testBit) || roomIn s n sh free p < sh.nc) &&
     cands.all (fun p => min sh.nc (roomIn s n sh last p) ≤ (place.filter last).length))

/-! ### The swap (R324) -/

/-- Slice of a context in ticks (R321). -/
def sliceTicks (s : State) (n : Nat) : Nat :=
  let r := leAt (ctx s n).recd 0x24 4
  (if r = 0 then bits (getR s 0x190 (0x100 + 4 * clsOf s n)) 16 0 else r) * Config.tUs

/-- URGENT_ACTIVE: a class 0 invocation is granted or cores are being parked for it. -/
def urgentLevel (s : State) : State :=
  setStatus s 0x190 8 (s.ctxs.any (fun (q : Nat × Ctx) => q.2.st != .closed && byteAt q.2.recd 0 == 0 &&
    ((!q.2.cores.isEmpty && q.2.st != .teardown) || !q.2.want.isEmpty)))

/-- The scale store of a model entry as SCALE_TAB stands; GRAD_E4M3 turns OUT_FMT 3 of a BLOCK32 entry into 2 (R409). -/
def scaleLoad (s : State) (m : List Byte) (grad : Bool) : List Byte :=
  (List.range (leAt m 2 2)).flatMap (fun e =>
    let x := scaleStore (peek s (leAt m 0x18 8 + 128 * e) 128)
    if grad && (byteAt x 0).testBit 4 && byteAt x 1 = 3 then putAt x 1 [2] else x)

/-- A granted context's window opens. -/
def openWindow (s : State) (n : Nat) : State :=
  updCtx s n (fun c => { c with sliceEnd := now s + (sliceTicks s n - c.debt), debt := 0, progress := now s })

/-- Swaps an invocation in on its cores: handle tables, counters, tags, the scale store and the sequencers. -/
def swapIn (s : State) (n : Nat) (i : Inv) (place : List Nat) : State :=
  let a := leAt i.recd 0 8
  let h := peek s a 512
  let m := tgetD s.models (leAt h 8 2) []
  let grad := i.special = 2 && (ajob s i.owner).gradE4m3
  let s := updCtx s n (fun c => { c with
    st := .running, cur := some i, cores := place, lastCores := place, ended := [], acked := [], want := [], evict := none,
    pausedAt := none, np := false, grantAt := now s, lastGrant := now s, hdr := h, model := m, scale := scaleLoad s m grad,
    scaleUpd := [] })
  let s := { s with car := { s.car with reserved := s.car.reserved.filter (fun (q : Nat × Nat) => q.2 != n) } }
  let s := forN place.length (fun lc s =>
    let core := place.getD lc 0
    let t := handleTab (handleLoad s (clsOf s n) core lc place.length) (peek s (leAt i.recd 8 8 + 2048 * lc) 2048)
    let t := (devHandles s i lc).foldl (fun t (q : Nat × List Byte) => tset t q.1 q.2) t
    setSeq s n lc { core := core, base := a + hdrOfs h lc, stop := a + hdrOfs h lc + 64 * hdrCount h lc, pc := a + hdrOfs h lc,
                    st := 1, handles := t }) s
  let s := if i.special = 2 then loadStart s i.owner ((ajob s i.owner).step + 1) else s
  urgentLevel (openWindow s n)

/-- Takes the head invocation of a context's queue. -/
def popHead (s : State) (n : Nat) : State := updCtx s n (fun c => { c with queue := c.queue.tail })

/-- A selected invocation is refused: the fault is its context's, and its completion is written at the teardown (R324). -/
def refuseInv (s : State) (n : Nat) (i : Inv) (code : Nat) : State :=
  ctxFault (updCtx (popHead s n) n (fun c => { c with cur := some i, grantAt := 0, want := [] })) n code 0x190 0

/-- IDLE, or WAITING with invocations queued. -/
def settle (s : State) (n : Nat) : State :=
  updCtx s n (fun c => { c with st := if c.queue.isEmpty then .idle else .waiting })

/-- A stale invocation is dropped at its selection (R316, R20, R150). -/
def dropStale (s : State) (n : Nat) (i : Inv) : State :=
  let m := leAt i.recd 0x18 2
  let fr := if i.block = 0 then ((gate s m).pend.find? (fun q => q.2.1 == leAt i.recd 0x20 8)).map (·.1)
    else some (gateRecFrame s i.block).2.1
  let s := bump (complete (popHead s n) n i 3 0 0) 0x190 1
  settle (invDropped (stmEvent s m 4 0 (fr.getD 0)) n i 5) n

/-- Grants cores to a context: an invocation is swapped in, or a suspended context begins its restore. -/
def grantNow (s : State) (n : Nat) (place : List Nat) : State :=
  match headInv s n with
  | none => s
  | some i =>
    if (ctx s n).st = .waiting then swapIn (popHead s n) n i place
    else
      let s := updCtx s n (fun c => { c with st := .restoring, cores := place, lastCores := place, want := [], progress := now s })
      urgentLevel { s with car := { s.car with reserved := s.car.reserved.filter (fun (q : Nat × Nat) => q.2 != n) } }

/-! ### Pauses (R325, R326) -/

/-- A logical core is inside a non-preemptible unit. -/
def inUnit (s : State) (n lc : Nat) : Bool :=
  let q := seq s n lc
  q.issued.any (fun i => byteAt i.d 1 % 4 != 0) || (q.np && byteAt (peek s q.pc 8) 1 % 4 == 2)

/-- A context is inside a non-preemptible unit. -/
def inUnits (s : State) (n : Nat) : Bool := (lcores s n).any (inUnit s n)

/-- Every DRAIN that follows a PPASS has drained the groups of its passes. -/
def drainsEven (q : Seq) : Bool :=
  q.issued.all (fun i => match i.pp with
    | some p => match q.issued.find? (fun j => j.kind == 2 && j.addr == p.1) with
      | some j => i.prog * byteAt j.d 0x13 == j.prog
      | none => true
    | none => true)

/-- A pause is reached on a logical core: it is outside a unit, no tag is committing or squashing, what it has issued can
return to the stream, and no read of host memory is outstanding (R306, R325, R326). -/
def paused (s : State) (n lc : Nat) : Bool :=
  let q := seq s n lc
  !inUnit s n lc && q.tags.all (fun (t : Nat × STag) => t.2.st != 4 && t.2.st != 5) && q.issued.all (fun i =>
    i.addr < q.pc && q.pc ≤ i.addr + 64 * 33 && i.got.isEmpty && (npOf s n i q.core).isEmpty && (match q.claim with
      | some k => i.iter == k.iter && !k.due
      | none => true)) && drainsEven q

/-- The pause of a context is reached on every logical core. -/
def pausedAll (s : State) (n : Nat) : Bool := (lcores s n).all (paused s n)

/-- A DMA in progress stops at a 64 B unit: the bytes it has written stand, and it resumes from that point. -/
def dmaStop (s : State) (n : Nat) (f : Nat × Nat × Nat) : State :=
  let q := seq s n f.1
  match q.issued.find? (fun i => i.kind == 8 && byteAt i.d 8 % 2 == f.2.1) with
  | none => s
  | some i =>
    if f.2.2 ≤ i.prog || i.dmaBytes ≤ f.2.2 || f.2.2 % 64 != 0 || !q.clear i || gatesOf s n f.1 i != 0 then s
    else
      let r := dmaRun s n f.1 i i.prog f.2.2
      match r.2.2 with
      | some (code, pg) => seqFault r.1 n f.1 i code pg
      | none => setIss r.1 n f.1 { i with prog := f.2.2 }

/-- What a logical core has issued and not completed returns to the stream: the PC is that of the oldest, those completed
behind it are skipped, and progress is kept (R326). -/
def unissue (q : Seq) : Seq :=
  match q.issued.map (·.addr) with
  | [] => q
  | a :: t =>
    let lo := t.foldl min a
    let done := (List.range ((q.pc - lo) / 64)).map (fun k => lo + 64 * k)
    { q with pc := lo, skip := q.skip ++ done.filter (fun x => !(a :: t).contains x), issued := [], np := false,
             progAt := q.issued.foldl (fun t i => if i.prog = 0 then t else tset t i.addr i.prog) q.progAt,
             ppass := if q.issued.any (fun i => i.kind == 2) then none else q.ppass }

/-- Stops every logical core of a context at its pause. -/
def pauseCtx (s : State) (n : Nat) (dma : List (Nat × Nat × Nat)) : State :=
  let s := dma.foldl (fun s f => dmaStop s n f) s
  (lcores s n).foldl (fun s l => updSeq s n l unissue) s

/-- The overrun of a pause that met a non-preemptible unit (R322). -/
def overrun (s : State) (n : Nat) : State :=
  let c := ctx s n
  match c.pausedAt with
  | some t => if c.np then putR (bump s 0x190 4) 0x190 0x130 (maxW (getR s 0x190 0x130) (now s - t)) else s
  | none => s

/-- A request to pause a context, noting whether it falls inside a unit. -/
def askPause (s : State) (n : Nat) : State :=
  let inside := inUnits s n
  updCtx s n (fun c => if c.pausedAt.isSome then c else { c with pausedAt := some (now s), np := inside })

/-- An eviction is requested of a RUNNING context (Table 13-4). -/
def askEvict (s : State) (n : Nat) (why : EvictWhy) : State :=
  if (ctx s n).st = .running then updCtx (askPause s n) n (fun c => { c with st := .evicting, evict := some why }) else s

/-! ### Clearing cores (R285-R287) -/

/-- Row ranges of a logical core's valid local SCRATCH handles. -/
def localRows (s : State) (n lc : Nat) : List (Nat × Nat) :=
  (seq s n lc).handles.filterMap (fun (q : Nat × List Byte) => (localSpan lc q.2).map (fun r => (r.1 / 64, r.2 / 64)))

/-- The rows of an outgoing context are marked PENDING (R286). -/
def rowsPending (s : State) (n lc : Nat) : State :=
  (localRows s n lc).foldl (fun s r => markPending s (seq s n lc).core r.1 r.2 n) s

/-- Marks the park area of a core PENDING (R329). -/
def parkPending (s : State) (c n : Nat) : State := markPending s c (reserveTop s / 64) (workTop s / 64) n

/-- Removes what a context has parked, and marks those park areas PENDING. -/
def unparkAll (s : State) (n : Nat) : State :=
  let l := (s.car.parkedOn.filter (fun (q : Nat × Nat) => q.2 == n)).map (·.1)
  let s := { s with car := { s.car with parkedOn := s.car.parkedOn.filter (fun (q : Nat × Nat) => q.2 != n) } }
  l.foldl (fun s c => parkPending s c n) s

/-! ### Context images (R332) -/

/-- Physical slots that an image holds of an engine, in order. -/
def liveSlots (x : LEng) : List Nat := (List.range 20).filter (fun p => (tget x.slots p).isSome)

/-- A slot's 17,920 bytes: entries, checksum row, checksum column. -/
def slotBytes (x : Slot) : List Byte :=
  (List.range 4096).flatMap (fun k => leBytes 4 (tgetD x.ent k 0)) ++ (List.range 256).flatMap (fun k => leBytes 4 (tgetD x.chkRow k 0)) ++
    (List.range 128).flatMap (fun k => leBytes 4 (tgetD x.chkCol k 0))

/-- Nonzero 4-byte words of a byte string, by their index. -/
def wordTab (l : List Byte) (k : Nat) : Tbl Nat :=
  (List.range k).filterMap (fun i => if leAt l (4 * i) 4 = 0 then none else some (i, leAt l (4 * i) 4))

/-- A slot from its bytes; what an image does not hold of it stays as it was. -/
def slotOf (old : Slot) (l : List Byte) : Slot :=
  { old with ent := wordTab l 4096, chkRow := wordTab (l.drop 16384) 256, chkCol := wordTab (l.drop 17408) 128 }

/-- Descriptor of a PPASS or CPASS in progress on an engine: address and pass index. -/
def passAt (s : State) (q : Seq) (e : Nat) : Option (Nat × Nat) :=
  q.progAt.find? (fun (p : Nat × Nat) =>
    let d := peek s p.1 16
    (isOp 2 d || isOp 3 d) && byteAt d 8 % 4 == e)

/-- Descriptor of a DMA in progress on an engine: address and bytes done. -/
def dmaAt (s : State) (q : Seq) (e : Nat) : Option (Nat × Nat) :=
  q.progAt.find? (fun (p : Nat × Nat) =>
    let d := peek s p.1 16
    isOp 8 d && byteAt d 8 % 2 == e)

/-- The claim fields of a section; the flags are [0] LEASE, [1] a take is due, [2] a value is taken (log 42). -/
def claimBytes (q : Seq) : List Byte :=
  match q.claim with
  | none => zeros 12
  | some k => leBytes 4 ((k.stop - q.base) / 64) ++ leBytes 4 (k.val.getD 0) ++ leBytes 2 k.ctr ++
      leBytes 2 (b2n k.lease + 2 * b2n k.due + 4 * b2n k.val.isSome)

/-- The fixed part of a logical core's section (Table 13-10). -/
def fixedBytes (s : State) (n lc : Nat) : List Byte :=
  let q := seq s n lc
  let mask := (List.range 32).foldl (fun a k => a + 2 ^ k * b2n (q.skip.contains (q.pc + 64 * (k + 1)))) 0
  let eng := fun (e : Nat) =>
    let x := q.eng e
    let p := (passAt s q e).getD (0, 0)
    (List.range 16).flatMap (fun a => leBytes 1 (tgetD x.ren a a)) ++ leBytes 4 ((liveSlots x).foldl (fun m k => m + 2 ^ k) 0) ++
      leBytes 4 p.2 ++ leBytes 4 ((p.1 - q.pc) / 64) ++ zeros 4
  let dma := fun (e : Nat) =>
    let p := (dmaAt s q e).getD (0, 0)
    leBytes 8 p.1 ++ leBytes 8 p.2 ++ zeros 16
  let tag := fun (t : Nat) =>
    let x := q.tag t
    leBytes 1 x.st ++ leBytes 1 x.verdict ++ leBytes 1 x.code ++ zeros 1 ++ leBytes 8 x.desc ++ zeros 4
  leBytes 8 q.pc ++ leBytes 4 mask ++ leBytes 4 (b2n q.claim.isSome) ++ (List.range 3).flatMap (fun k => leBytes 4 (q.idx.getD k 0)) ++
    claimBytes q ++ zeros 24 ++ (List.range 16).flatMap (fun k => leBytes 4 (tgetD q.rrc k 0).toNat) ++
    (List.range 4).flatMap eng ++ (List.range 2).flatMap dma ++ (List.range 8).flatMap tag ++
    leBytes 1 q.held.length ++ zeros 63 ++ fitBytes 1024 (q.held.flatMap (fun i => fitBytes 64 i.d)) ++ zeros 512 ++
    (List.range 64).flatMap (fun h => fitBytes 32 (tgetD q.handles h []))

/-- A logical core's whole section. -/
def sectionBytes (s : State) (n lc : Nat) : List Byte :=
  let q := seq s n lc
  fixedBytes s n lc ++ (q.handles.filterMap (fun (e : Nat × List Byte) => localSpan lc e.2)).flatMap
      (fun r => rdMem s (scratchAddr q.core r.1) (r.2 - r.1)) ++
    (List.range 4).flatMap (fun e => (liveSlots (q.eng e)).flatMap (fun p => slotBytes ((q.eng e).slot p)))

/-- Bytes of a logical core's section. -/
def sectionLen (s : State) (n lc : Nat) : Nat :=
  let q := seq s n lc
  4096 + ((q.handles.filterMap (fun (e : Nat × List Byte) => localSpan lc e.2)).map (fun r => r.2 - r.1)).sum +
    17920 * ((List.range 4).map (fun e => (liveSlots (q.eng e)).length)).sum

/-- The scale store in an image, padded to a multiple of 64. -/
def storeBytes (s : State) (n : Nat) : List Byte :=
  let l := (ctx s n).scale
  fitBytes (64 * cdiv l.length 64) l

/-- Bytes of a context's image. -/
def imageLen (s : State) (n : Nat) : Nat :=
  512 + (storeBytes s n).length + ((lcores s n).map (sectionLen s n)).sum

/-- Offset of a logical core's section. -/
def sectionOfs (s : State) (n lc : Nat) : Nat :=
  512 + (storeBytes s n).length + ((List.range lc).map (sectionLen s n)).sum

/-- The image header (Table 13-9). -/
def imageHdr (s : State) (n : Nat) (mid : Bool) : List Byte :=
  let c := ctx s n
  let nc := c.cores.length
  let i := match c.cur with
    | some i => i.recd
    | none => []
  let seqNo := match c.cur with
    | some i => i.seq
    | none => c.seqNo
  [0x43, 0x58, 0x43, 0x49, 1] ++ leBytes 1 (b2n (mid && hdrReloc c.hdr) + 2 * b2n mid) ++ leBytes 1 nc ++ leBytes 1 (byteAt c.recd 0) ++
    leBytes 2 n ++ leBytes 2 (leAt c.recd 4 2) ++ leBytes 2 s.part.code ++ leBytes 1 (engDiv s) ++ zeros 1 ++
    leBytes 4 (imageLen s n) ++ leBytes 4 c.debt ++ leBytes 8 (now s) ++
    leBytes 8 (leAt (tgetD s.models (leAt c.recd 4 2) []) 0x10 8) ++ leBytes 4 seqNo ++ zeros 20 ++ fitBytes 64 c.recd ++ fitBytes 64 i ++
    (List.range 48).flatMap (fun k => leBytes 1 (c.cores.getD k 0xFF)) ++ zeros 16 ++
    (List.range 48).flatMap (fun k => leBytes 4 (if k < nc then sectionOfs s n k / 64 else 0)) ++ zeros 64

/-- A context's image. -/
def imageBytes (s : State) (n : Nat) (mid : Bool) : List Byte :=
  imageHdr s n mid ++ storeBytes s n ++ (lcores s n).flatMap (sectionBytes s n)

/-- The CLAIM whose body ends at an address: the nearest one before it that says so. -/
def claimDesc (s : State) (stop : Nat) : Nat → Nat → Option (Nat × List Byte)
  | 0, _ => none
  | k + 1, a =>
    let d := peek s a 64
    if isOp 0x12 d && a + 64 * (leAt d 0xC 2 + 1) = stop then some (a, d) else if a < 64 then none else claimDesc s stop k (a - 64)

/-- The CLAIM loop of a section. -/
def claimOf (s : State) (base : Nat) (f : List Byte) : Option Claim :=
  if !(byteAt f 0xC).testBit 0 then none
  else
    let stop := base + 64 * leAt f 0x1C 4
    match claimDesc s stop 256 (stop - 64) with
    | none => none
    | some (a, d) =>
      let fl := leAt f 0x26 2
      some { ctr := leAt f 0x24 2, lease := fl.testBit 0, body := a + 64, stop := stop, step := leAt d 0xE 2, limit := leAt d 0x10 4,
             mul := [leAt d 0x14 4, leAt d 0x18 4, leAt d 0x1C 4], due := fl.testBit 1,
             val := if fl.testBit 2 then some (leAt f 0x20 4) else none, iter := 1 }

/-- A logical core's sequencer from its section at `a`; `old` is what the context left behind when it was evicted, from which
comes what an image does not hold (log 42). -/
def seqOf (s : State) (old : Seq) (core base stop a : Nat) : Seq :=
  let f := peek s a 4096
  let pc := leAt f 0 8
  let held := (List.range (byteAt f 0x1C0)).map (fun k =>
    let d := (f.drop (0x200 + 64 * k)).take 64
    match old.held[k]? with
    | some i => if i.d == d then i else { addr := 0, d := d }
    | none => ({ addr := 0, d := d, tag := if (byteAt d 1).testBit 2 then some (byteAt d 1 / 8 % 8) else none } : Iss))
  let eng := fun (e : Nat) =>
    let o := 0x80 + 32 * e
    let x := old.eng e
    { x with ren := (List.range 16).filterMap (fun k => if byteAt f (o + k) = k then none else some (k, byteAt f (o + k))),
             slots := (List.range 20).filterMap (fun p => if (leAt f (o + 16) 4).testBit p then some (p, x.slot p) else none) }
  let prog := (List.range 4).filterMap (fun e =>
      if leAt f (0x80 + 32 * e + 20) 4 = 0 then none else some (pc + 64 * leAt f (0x80 + 32 * e + 24) 4, leAt f (0x80 + 32 * e + 20) 4)) ++
    (List.range 2).filterMap (fun e =>
      if leAt f (0x108 + 32 * e) 8 = 0 then none else some (leAt f (0x100 + 32 * e) 8, leAt f (0x108 + 32 * e) 8))
  { core := core, base := base, stop := stop, pc := pc, st := if old.ended then 0 else 1, idx := (List.range 3).map (fun k => leAt f (0x10 + 4 * k) 4),
    rrc := (List.range 16).map (fun k => (k, word (leAt f (0x40 + 4 * k) 4))), handles := handleTab id (f.drop 0x800),
    tags := (List.range 8).filterMap (fun t =>
      let o := 0x140 + 16 * t
      if byteAt f o = 0 then none
      else some (t, { st := byteAt f o, verdict := byteAt f (o + 1), code := byteAt f (o + 2), desc := leAt f (o + 4) 8 })),
    held := held, claim := claimOf s base f,
    skip := (List.range 32).filterMap (fun k => if (leAt f 8 4).testBit k then some (pc + 64 * (k + 1)) else none),
    engs := (List.range 4).map (fun e => (e, eng e)), grps := old.grps, ended := old.ended,
    progAt := prog.foldl (fun t (p : Nat × Nat) => tset t p.1 p.2)
      (old.progAt.filter (fun (p : Nat × Nat) => isOp 4 (peek s p.1 16))) }

/-- Restores a logical core from its section: the sequencer, the rows of its local handles, and its live slots. -/
def restoreCore (s : State) (n lc core base stop a : Nat) : State :=
  let q := seqOf s (seq s n lc) core base stop a
  let r := (q.handles.filterMap (fun (e : Nat × List Byte) => localSpan lc e.2)).foldl (fun (acc : State × Nat) (r : Nat × Nat) =>
    (scrWrite acc.1 core r.1 (peek acc.1 acc.2 (r.2 - r.1)), acc.2 + (r.2 - r.1))) (s, a + 4096)
  let t := (List.range 4).foldl (fun (acc : Seq × Nat) e => (liveSlots (q.eng e)).foldl (fun (acc : Seq × Nat) p =>
    (acc.1.setEng e { acc.1.eng e with slots := tset (acc.1.eng e).slots p (slotOf ((q.eng e).slot p) (peek s acc.2 17920)) },
     acc.2 + 17920)) acc) (q, r.2)
  setSeq r.1 n lc t.1

end Sys2Proof.Machine
end

