-- ==== Sys2Proof/Machine/Kettle.lean ====
section
/-!
DEFINITION. Machine/Kettle.lean: the commands of Kettle's port and its background sweep (R430-R439, R442).
-/
namespace Sys2Proof.Machine

/-- Two byte ranges (start, length) overlap. -/
def overlaps (a m b n : Nat) : Bool := decide (a < b + n && b < a + m)

/-- A region's first address and size (Table 18-1). -/
def regionOf (r : Nat) : Nat × Nat :=
  if r = 0 then (0, 0xC00000000) else (0xC00000000 + (r - 1) * 0x80000000, 0x80000000)

/-- A byte range lies inside a region. -/
def inRegion (r a n : Nat) : Bool := decide ((regionOf r).1 ≤ a && a + n ≤ (regionOf r).1 + (regionOf r).2)

/-- The ranges a new pool must not overlap: other pools' blocks and metadata, the firmware reserve (R430, R432),
and ranges of destroyed BROKEN pools (R439). -/
def usedRanges (s : State) (pn : Nat) : List (Nat × Nat) :=
  (s.ket.pools.filter (fun q => q.1 != pn)).flatMap (fun q =>
      [(q.2.base, q.2.nblocks * q.2.bsize), (q.2.metaAt, metaSize q.2.nblocks)]) ++
    (match s.ket.resv with
     | some a => [(a, 0x10000000)]
     | none => []) ++ s.ket.lost

/-- A range overlaps any of a list. -/
def hitsAny (l : List (Nat × Nat)) (a n : Nat) : Bool := l.any (fun r => overlaps r.1 r.2 a n)

/-- The metadata of a new pool: free bitmap and level-1 summary of ones, owner table of zeros (R431). -/
def ketFormat (s : State) (p : KPool) : State :=
  let n := p.nblocks
  let bm := p.metaAt + 64
  let sm := bm + 64 * cdiv n 512
  let ot := sm + 64 * cdiv n 32768
  let ones := fun (k : Nat) => List.replicate (k / 8) (0xFF : Byte) ++
    (if k % 8 = 0 then [] else [BitVec.ofNat 8 (2 ^ (k % 8) - 1)])
  let s := { s with mem := memZero s.mem bm (ot + 32 * n - bm) }
  wrMem (wrMem s bm (ones n)) sm (ones (cdiv n 64))

/-- POOL_CREATE (R430). -/
def opPoolCreate : POp := fun idx o _ s =>
  let lg := byteAt o 0
  let rg := byteAt o 1
  let n := leAt o 4 4
  let base := leAt o 8 8
  let mt := leAt o 0x10 8
  let used := usedRanges s idx
  let sz := n * 2 ^ lg
  let ms := metaSize n
  if 64 ≤ idx then illegal s 0
  else if lg < 8 || 26 < lg then illegal s 0
  else if 4 < rg then illegal s 1
  else if !zeroAt o 2 2 then illegal s 2
  else if n < 1 || 16777216 < n then illegal s 4
  else if base % 2 ^ lg != 0 || !inRegion rg base sz || hitsAny used base sz || overlaps base sz mt ms then
    illegal s 8
  else if mt % 64 != 0 || !inRegion rg mt ms || hitsAny used mt ms then illegal s 0x10
  else if !zeroAt o 0x18 8 then illegal s 0x18
  else if (pool s idx).isSome then refuse s 4 0
  else
    let p : KPool := { log2 := lg, region := rg, nblocks := n, base := base, metaAt := mt }
    done (ketFormat (setPool s idx p) p)

/-- POOL_DESTROY (R430, R439). -/
def opPoolDestroy : POp := fun idx _ _ s =>
  match pool s idx with
  | none => refuse s 5 0
  | some p =>
    if p.broken then
      done { s with ket := { s.ket with
        pools := tdel s.ket.pools idx,
        lost := [(p.base, p.nblocks * p.bsize), (p.metaAt, metaSize p.nblocks)] ++ s.ket.lost } }
    else if p.owners.isEmpty then done { s with ket := { s.ket with pools := tdel s.ket.pools idx } }
    else refuse s 0xC p.owners.length

/-- One quota entry of the operand (R438). -/
def quotaAt (o : List Byte) (i : Nat) : Quota :=
  { space := byteAt o (16 * i), cls := byteAt o (16 * i + 1), id := leAt o (16 * i + 2) 2,
    limit := leAt o (16 * i + 4) 4, reserve := leAt o (16 * i + 8) 4 }

/-- The first illegal byte of the quota operand. -/
def quotaBad (o : List Byte) : Option Nat :=
  ((List.range 8).flatMap (fun i =>
    (if 5 < byteAt o (16 * i) then [16 * i] else []) ++
      (if 3 < byteAt o (16 * i + 1) then [16 * i + 1] else []) ++
      (if zeroAt o (16 * i + 12) 4 then [] else [16 * i + 12]))).head?

/-- POOL_QUOTA (R438). -/
def opPoolQuota : POp := fun idx o _ s =>
  match pool s idx with
  | none => refuse s 5 0
  | some p =>
    if p.broken then refuse (ketFault s 6 5 0) 6 6
    else
      match quotaBad o with
      | some b => illegal s b
      | none =>
        let qs := (List.range 8).map (quotaAt o)
        if p.nblocks < ((qs.filter (fun q => q.space != 0)).map (·.reserve)).sum then illegal s 8
        else done (setPool s idx { p with quota := qs })

/-- Table 18-9. -/
def poolRecord (s : State) (p : KPool) : List Byte :=
  leBytes 1 p.region ++ leBytes 1 p.log2 ++ leBytes 1 (b2n p.broken) ++ zeros 1 ++ leBytes 4 p.nblocks ++
    leBytes 4 p.free ++ zeros 4 ++
    (List.range 8).flatMap (fun i =>
      match p.quota[i]? with
      | some q => leBytes 4 (if q.space = 0 then 0 else quotaHeld s p q)
      | none => zeros 4) ++ zeros 16

/-- POOL_READ (R442). -/
def opPoolRead : POp := fun idx _ _ s =>
  match pool s idx with
  | none => refuse s 5 0
  | some p => done (portStatus s .ket (poolRecord s p))

/-- The owner entry named in an operand at an offset (R434): SPACE and ID, or the offset when it is illegal. -/
def ownerAt (o : List Byte) (ofs : Nat) : Option (Nat × Nat) :=
  let w := leAt o ofs 4
  let sp := bitsN w 23 21
  let id := bitsN w 11 0
  if sp = 0 || 5 < sp || bitsN w 31 24 != 0 || w.testBit 12 || (sp == 2 && 1024 ≤ id) ||
      (sp == 4 && (id = 0 || 7 < id)) then none
  else some (sp, id)

/-- The result of a host operation on a block (Table 18-8). -/
def ketRes (r : State × KRes) : PRes :=
  match r.2 with
  | .ok _ => done r.1
  | .noBlock f => (r.1, 3, f)
  | .quota i => (r.1, 8, i)
  | .ptr => (r.1, 6, 6)
  | .owner => (r.1, 7, 7)

/-- ALLOC of the host (Table 18-7): class 2, with the address in KET_STATUS. -/
def opKetAlloc : POp := fun idx o _ s =>
  match ownerAt o 0 with
  | none => illegal s 0
  | some (sp, id) =>
    match ketAlloc s idx sp id 2 1 with
    | (s', .ok (a :: _)) => done (portStatus s' .ket (leBytes 8 a ++ zeros 56))
    | r => ketRes r

/-- The pointer of an operand lies in the pool that INDEX names. -/
def ptrInPool (s : State) (idx ptr : Nat) : Bool :=
  match pool s idx with
  | some p => decide (p.base ≤ ptr && ptr < p.base + p.nblocks * p.bsize)
  | none => false

/-- A host operation on a pointer. -/
def opKetPtr (f : State → Nat → Nat → Nat → State × KRes) : POp := fun idx o _ s =>
  match ownerAt o 8 with
  | none => illegal s 8
  | some (sp, id) =>
    if ptrInPool s idx (leAt o 0 8) then ketRes (f s (leAt o 0 8) sp id)
    else refuse (ketFault s 6 sp id) 6 6

/-- CLAIM of the host. -/
def opKetClaim : POp := opKetPtr ketClaim

/-- RELEASE of the host; a freed block goes to a waiting stream (R118). -/
def opKetRelease : POp := opKetPtr (fun s ptr sp id =>
  let r := ketRelease s ptr sp id
  (match r.2 with
    | .ok _ => relBlock s ptr sp id
    | _ => r.1, r.2))

/-- FREE of the host; the freed block goes to a waiting stream (R118). -/
def opKetFree : POp := opKetPtr (fun s ptr sp id =>
  let r := ketFree s ptr sp id
  (match r.2, ketPtr s ptr with
    | .ok _, some (pn, _, _) =>
      match firstStm (r.1.stms.filter (fun q => q.2.waits pn)) with
      | some (m, _) => stmTry1 r.1 m
      | none => r.1
    | _, _ => r.1, r.2))

/-- POOL_CREATE. -/
def execPoolCreate (m : Master) (tag idx : Nat) (s : State) : Host.Outcome State Fault Refusal :=
  .next (portCmd .ket m 1 tag idx opPoolCreate s)

/-- POOL_DESTROY. -/
def execPoolDestroy (m : Master) (tag idx : Nat) (s : State) : Host.Outcome State Fault Refusal :=
  .next (portCmd .ket m 2 tag idx opPoolDestroy s)

/-- POOL_QUOTA. -/
def execPoolQuota (m : Master) (tag idx : Nat) (s : State) : Host.Outcome State Fault Refusal :=
  .next (portCmd .ket m 3 tag idx opPoolQuota s)

/-- POOL_READ. -/
def execPoolRead (m : Master) (tag idx : Nat) (s : State) : Host.Outcome State Fault Refusal :=
  .next (portCmd .ket m 4 tag idx opPoolRead s)

/-- KET_ALLOC. -/
def execKetAlloc (m : Master) (tag idx : Nat) (s : State) : Host.Outcome State Fault Refusal :=
  .next (portCmd .ket m 5 tag idx opKetAlloc s)

/-- KET_CLAIM. -/
def execKetClaim (m : Master) (tag idx : Nat) (s : State) : Host.Outcome State Fault Refusal :=
  .next (portCmd .ket m 6 tag idx opKetClaim s)

/-- KET_RELEASE. -/
def execKetRelease (m : Master) (tag idx : Nat) (s : State) : Host.Outcome State Fault Refusal :=
  .next (portCmd .ket m 7 tag idx opKetRelease s)

/-- KET_FREE. -/
def execKetFree (m : Master) (tag idx : Nat) (s : State) : Host.Outcome State Fault Refusal :=
  .next (portCmd .ket m 8 tag idx opKetFree s)

/-- The sweep reads one owner table: a block whose entries are all empty or dead returns to the bitmap (R437). At
the end of the pass the epochs counted against it start again, and SWEEPING falls when nothing dead remains. -/
def sweepOne (s : State) : State :=
  match s.ket.sweep with
  | [] => s
  | (pn, b) :: rest =>
    let s := { s with ket := { s.ket with sweep := rest } }
    let s := match pool s pn with
      | none => s
      | some p =>
        match tget p.owners b with
        | none => s
        | some es =>
          if p.broken || es.any (ownLive s) then s
          else poolGrant (bump (setOwners s pn p b []) 0x160 5) pn 1
    if !rest.isEmpty then s
    else
      let s := { s with ket := { s.ket with passAdv := [] } }
      let dead := s.ket.pools.any (fun pq => pq.2.owners.any (fun be => be.2.any (fun e => !ownLive s e)))
      if dead then
        { s with ket := { s.ket with sweep := s.ket.pools.flatMap (fun pq => pq.2.owners.map (fun be =>
          (pq.1, be.1))) } }
      else setStatus s 0x160 8 false

/-- KETTLE_SWEEP. -/
def execKettleSweep (s : State) : Host.Outcome State Fault Refusal := .next (sweepOne s)

end Sys2Proof.Machine
end

