-- ==== Sys2Proof/Machine/Carillon.lean ====
section
/-!
DEFINITION. Machine/Carillon.lean: the scheduler (R311-R337): doorbells, grants, slices, pre-emption, images, teardown, and its
command port.
-/
namespace Sys2Proof.Machine

/-! ### Doorbells (R313, R453) -/

/-- A BAR4 write of one dword. -/
def bar4 (s : State) (be : Nat) (eff : State → State) : State :=
  if s.pcie.frozen || s.pcie.dstate != 0 || !s.pcie.memEn then unserved s true
  else if be != 0xF then bump s 0x180 2
  else eff s

/-- Reads the next record of a context's ring and queues it, with the result of its submission check (R223, R226). -/
def ringTake (s : State) (n arrival : Nat) : State :=
  let c := ctx s n
  let a := leAt c.recd 8 8 + 64 * (c.ringProd.toNat % 2 ^ byteAt c.recd 0x18)
  let r := unitRead s a 64
  let code := if !r.2.2 then readCode s a else if !invOk r.2.1 then 0x04 else listCheck r.1 (byteAt c.recd 0) (leAt r.2.1 0 8)
  let q := seqNext r.1 n
  let i : Inv := { recd := r.2.1, arrival := arrival, ring := true, seq := q.2, checked := code }
  ctxWake (updCtx q.1 n (fun c => { c with queue := c.queue ++ [i], ringProd := c.ringProd + 1 })) n

/-- A DB_TAIL write by what becomes of Carillon's commands (R67, R68). -/
def dbTail (s : State) (n : Nat) (v : Word) : State :=
  if n = 0 then raiseFault s .blk 0x0C 0x190 0 0 0 0
  else
    match tailDisp s with
    | .run =>
      if (ctx s n).heldTails.isEmpty then tailMove s n v (fun s => ringTake s n (now s))
      else updCtx s n (fun c => { c with heldTails := c.heldTails ++ [(v, now s)] })
    | .held => bump (updCtx s n (fun c => { c with heldTails := c.heldTails ++ [(v, now s)] })) 0x001 2
    | .notReady => bump (tailMove s n v (fun s => ringRefuse s n 0x17)) 0x001 3
    | .fenced => tailMove s n v (fun s => ringRefuse s n 0x16)

/-- DB_TAIL. -/
def execDbTail (n be : Nat) (v : Word) (s : State) : Host.Outcome State Fault Refusal :=
  .next (bar4 s be (fun s => if n < 4096 then dbTail s n v else s))

/-- DB_CPL_CONS: the host has consumed completions, or logit records; those held back follow (R314, R341). -/
def dbCplCons (s : State) (n : Nat) (v : Word) : State :=
  if n = 0 || (ctx s n).st = .closed then s
  else cplDrain (updCtx s n (fun c => { c with cplCons := v })) n ((ctx s n).cplWait.length + 1)

/-- DB_CPL_CONS. -/
def execDbCplCons (n be : Nat) (v : Word) (s : State) : Host.Outcome State Fault Refusal :=
  .next (bar4 s be (fun s => if n < 4096 then dbCplCons s n v else s))

/-! ### Selection and grant (R316, R318-R320, R324, R328) -/

/-- Carillon grants nothing during a low event or a stop, or while it is not in RUN (R474, R477). -/
def grantsNow (s : State) : Bool := ready s 0x190 && !lowEvent s && !stopping s && (blk s 0x1B0).st != .failed

/-- Cores that are to be freed for a context are reserved, and pauses or evictions requested (R319, R328). -/
def askCores (s : State) (n : Nat) (place : List Nat) : State :=
  let s := updCtx s n (fun c => { c with want := place })
  let s := place.foldl (fun s c =>
    let us := coreUsers s c
    let s := { s with car := { s.car with reserved := tset s.car.reserved c n } }
    us.foldl (fun s m => if clsOf s n = 0 then askPause s m else askEvict s m .displaced) s) s
  urgentLevel s

/-- INVOCATION_GRANT: the head invocation of a context is selected when no invocation before it can go first. It is dropped as
stale, refused, granted where `place` says, or cores are freed for it. -/
def invocationGrant (s : State) (n : Nat) (place : List Nat) : State :=
  match headInv s n with
  | none => s
  | some i =>
    let c := ctx s n
    if !grantsNow s then s
    else if !selectable s n then
      if i.full then s
      else updCtx (bumpR s 0x190 0x138 1) n (fun c => { c with queue := { i with full := true } :: c.queue.tail })
    else
      let before := selBefore s n
      if before.any (goesFirst s) then s
      else if c.st = .waiting && invStale s i then dropStale s n i
      else if c.st = .waiting && invCode s n i != 0 then refuseInv s n i (invCode s n i)
      else
        let sh := shapeOf s n i
        let free := fun (_ : Nat) (c : Nat) => coreFree s n c
        if placeOk s n sh place free && placeBest s n sh place then grantNow s n place
        else if placeOk s n sh place (fun k c => coreFree s n c || coreShared s n c sh k) then grantNow s n place
        else if before.isEmpty && c.want.isEmpty && !fits s n sh (coreFree s n) &&
            placeOk s n sh place (fun _ c => coreFree s n c || coreFreeable s n c) then askCores s n place
        else s

/-- INVOCATION_GRANT. -/
def execInvocationGrant (n : Nat) (place : List Nat) (s : State) : Host.Outcome State Fault Refusal :=
  .next (invocationGrant s n place)

/-- A context for which cores were freed is granted once every one of them is free (R319, R328). -/
def grantWanted (s : State) (u : Nat) : State :=
  let w := (ctx s u).want
  if w.isEmpty || !grantsNow s || !selectable s u || w.any (fun c => !coreFree s u c) then s else grantNow s u w

/-- Every context that waits for freed cores is looked at. -/
def grantWaiters (s : State) : State :=
  ((s.ctxs.filter (fun (q : Nat × Ctx) => !q.2.want.isEmpty)).map (·.1)).foldl grantWanted s

/-! ### Completion (R314, R208, R150) -/

/-- One scale update, applied to the entry as it stands in SCALE_TAB (R208, R209). -/
def scaleApply (tab : Nat) (s : State) (u : Nat × Nat × Nat × Nat) : State :=
  let a := tab + 128 * u.1
  let e := peek s a 128
  let nn := max 1 (byteAt e 2)
  let pos := byteAt e 4
  let e' := putAt (putAt e (0x20 + 4 * pos) (leBytes 4 u.2.1)) 3 (leBytes 1 (min (byteAt e 3 + 1) nn))
  let e' := putAt (putAt e' 4 (leBytes 1 ((pos + 1) % nn))) 5 (leBytes 1 u.2.2.2)
  (unitWrite s a (putAt e' 0x0C (leBytes 4 u.2.2.1 ++ leBytes 4 u.2.1))).1

/-- A context's cores are released: rows PENDING, slots scrubbed, sequencers gone (R286). -/
def coresRelease (s : State) (n : Nat) : State :=
  let s := (lcores s n).foldl (fun s l => rowsPending s n l) s
  let s := { s with seqs := s.seqs.filter (fun (q : Nat × Seq) => q.1 / 64 != n) }
  urgentLevel (updCtx s n (fun c => { c with cores := [], ended := [], acked := [], cur := none, pausedAt := none, np := false }))

/-- What an invocation that is done leaves behind: its gating record's claim, its frame's ages, its step or its release. -/
def invDone (s : State) (n : Nat) (i : Inv) : State :=
  if i.special = 1 then batchCommit s i.owner
  else if i.special = 2 then adaptCommit s i.owner
  else if i.special = 3 then trackLost s i.owner
  else
    let s := dispatchDone s (leAt i.recd 0x18 2) (leAt i.recd 0x20 8)
    if i.block = 0 then s else relBlock s i.block 1 n

/-- INVOCATION_COMPLETE: every stream has reached END. -/
def invocationComplete (s : State) (n : Nat) : State :=
  let c := ctx s n
  match c.cur with
  | none => s
  | some i =>
    if !(c.st = .running || (c.st = .evicting && s.car.parkedOn.all (fun (q : Nat × Nat) => q.2 != n))) || c.cores.isEmpty ||
        c.ended.length != c.cores.length then s
    else
      let s := c.scaleUpd.foldl (scaleApply (scaleTab s n)) s
      let s := bump (complete s n i 0 0 c.grantAt) 0x190 0
      let s := if clsOf s n = 0 then putR s 0x190 0x128 (maxW (getR s 0x190 0x128) (now s - i.arrival)) else s
      let s := match c.evict with
        | some (.save _ _ tag) => portResult s .car tag 0xC 0
        | _ => s
      let s := settle (updCtx (coresRelease s n) n (fun c => { c with evict := none })) n
      grantWaiters (invDone s n i)

/-- INVOCATION_COMPLETE. -/
def execInvocationComplete (n : Nat) (s : State) : Host.Outcome State Fault Refusal := .next (invocationComplete s n)

/-! ### Slices (R321) -/

/-- The first waiting invocation of a class that would fit if a context's cores were free. -/
def sliceWaiter (s : State) (n : Nat) : Option Nat :=
  (tkeys s.ctxs).find? (fun m =>
    m != n && selectable s m && clsOf s m == clsOf s n && (match headInv s m with
      | some i =>
        let sh := shapeOf s m i
        !fits s m sh (coreFree s m) && fits s m sh (fun c => coreFree s m c || ((ctx s n).cores.contains c && coreUsers s c == [n] &&
          coreUsable s c && (tget s.car.parkedOn c).isNone))
      | none => false))

/-- SLICE_EXPIRY: the window [grant, + slice − debt) has ended. -/
def sliceExpiry (s : State) (n : Nat) : State :=
  let c := ctx s n
  if c.st != .running || clsOf s n = 0 || now s < c.sliceEnd then s
  else
    match sliceWaiter s n with
    | some _ => askEvict s n .slice
    | none => updCtx s n (fun c => { c with sliceEnd := now s + sliceTicks s n, debt := 0 })

/-- SLICE_EXPIRY. -/
def execSliceExpiry (n : Nat) (s : State) : Host.Outcome State Fault Refusal := .next (sliceExpiry s n)

/-! ### Park and unpark (R328, R329) -/

/-- Cores of a context that a class 0 context waits for. -/
def parkCores (s : State) (n : Nat) : List Nat :=
  (ctx s n).cores.filter (fun c => match tget s.car.reserved c with
    | some u => u != n && clsOf s u == 0 && selectable s u && tget s.car.parkedOn c != some n
    | none => false)

/-- PARK_COMPLETE: the pause is reached, and the context's cores that the urgent one takes are saved. Their on-chip state
stays with the context; the park area is closed to every path. -/
def parkComplete (s : State) (n : Nat) (dma : List (Nat × Nat × Nat)) : State :=
  let c := ctx s n
  let l := parkCores s n
  if l.isEmpty || !(c.st = .running || c.st = .parked) || (c.st = .running && !pausedAll s n) then s
  else
    let s := if c.st = .parked then s else pauseCtx s n dma
    if (ctx s n).st = .teardown then s
    else
      let s := if c.st = .parked then s else overrun s n
      let s := { s with car := { s.car with parkedOn := l.foldl (fun t k => tset t k n) s.car.parkedOn } }
      let s := updCtx (bumpN s 0x190 2 l.length) n (fun x => { x with
        st := .parked, np := false, pausedAt := if c.st = .parked then x.pausedAt else some (now s) })
      grantWaiters s

/-- PARK_COMPLETE. -/
def execParkComplete (n : Nat) (dma : List (Nat × Nat × Nat)) (s : State) : Host.Outcome State Fault Refusal :=
  .next (parkComplete s n dma)

/-- The windows of a context's waits move by the time that it was paused: none ran while it was PARKED (R311). -/
def shiftWaits (s : State) (n d : Nat) : State :=
  (lcores s n).foldl (fun s l => updSeq s n l (fun q => { q with
    wait := q.wait.map (fun w => { w with since := w.since + d }), barrier := q.barrier.map (fun b => (b.1, b.2 + d)),
    issued := q.issued.map (fun i => { i with since := i.since + d }) })) s

/-- UNPARK_RESTORE: the urgent invocation on every parked core has completed; the context is restored and resumes. -/
def unparkRestore (s : State) (n : Nat) : State :=
  let c := ctx s n
  let l := (s.car.parkedOn.filter (fun (q : Nat × Nat) => q.2 == n)).map (·.1)
  if c.st != .parked || l.any (fun k => !(coreUsers s k).isEmpty || (coreSt s k).st != 0 || reservedOther s n k) then s
  else
    let d := now s - c.pausedAt.getD (now s)
    shiftWaits (updCtx (unparkAll s n) n (fun c => { c with st := .running, pausedAt := none, progress := now s })) n d

/-- UNPARK_RESTORE. -/
def execUnparkRestore (n : Nat) (s : State) : Host.Outcome State Fault Refusal := .next (unparkRestore s n)

/-! ### Eviction and restore (R330, R333) -/

/-- Where a context image goes: a block of IMAGE_POOL, or the staged address. -/
def imagePlace (s : State) (n : Nat) (why : EvictWhy) (len : Nat) : State × Option Nat :=
  match why with
  | .save a _ _ => (s, some a)
  | _ =>
    let pn := byteAt (ctx s n).recd 0x20
    match pool s pn with
    | some p =>
      if p.bsize < len || !poolUsable s pn then (s, none)
      else
        match ketAlloc s pn 1 n 2 1 with
        | (s', .ok (a :: _)) => (s', some a)
        | (s', _) => (s', none)
    | none => (s, none)

/-- Writes a long byte string in pieces of 4 KiB; true when all of it was written. -/
def writeLong : Nat → State → Nat → List Byte → State × Bool
  | 0, s, _, l => (s, l.isEmpty)
  | k + 1, s, a, l =>
    if l.isEmpty then (s, true)
    else
      let r := unitWrite s a (l.take 4096)
      let q := writeLong k r.1 (a + 4096) (l.drop 4096)
      (q.1, r.2 && q.2)

/-- The state after an evicted or saved context's image is written. -/
def evicted (s : State) (n : Nat) (why : EvictWhy) (a : Nat) : State :=
  let s := updCtx s n (fun c => { c with image := a, evict := none, pausedAt := none, np := false, progress := now s })
  match why with
  | .save _ _ tag => portResult (updCtx s n (fun c => { c with st := .held })) .car tag 1 0
  | _ => updCtx s n (fun c => { c with st := .suspended })

/-- An evicted context's cores are cleared and can be granted at once (R286, R330). Its sequencers are kept as what the image
does not hold (log 42). -/
def coresEvict (s : State) (n : Nat) : State :=
  let s := (lcores s n).foldl (fun s l => rowsPending s n l) (unparkAll s n)
  urgentLevel (updCtx s n (fun c => { c with cores := [] }))

/-- EVICTION_COMPLETE: at the pass boundary the image is written and the cores are cleared. A context without cores is saved as
it stands; a SUSPENDED one's image is copied. A pool that has no block of the size leaves the eviction waiting (log 43). -/
def evictionComplete (s : State) (n : Nat) (dma : List (Nat × Nat × Nat)) : State :=
  let c := ctx s n
  match c.evict with
  | none => s
  | some why =>
    if c.st != .evicting then s
    else if c.cores.isEmpty then
      let bytes := if c.image = 0 then imageBytes s n false else peek s c.image (leAt (peek s c.image 512) 0x10 4)
      match why with
      | .save a _ _ => evicted (writeLong (bytes.length / 4096 + 1) s a bytes).1 n why a
      | _ => s
    else
      let parked := s.car.parkedOn.any (fun (q : Nat × Nat) => q.2 == n)
      if !parked && !pausedAll s n then s
      else
        let s' := if parked then s else pauseCtx s n dma
        if (ctx s' n).st = .teardown then s'
        else
          let past := match c.pausedAt with
            | some t => if c.np then now s - t else 0
            | none => 0
          let s' := updCtx s' n (fun c => { c with debt := if why = .slice then past else c.debt })
          let len := imageLen s' n
          match why with
          | .save _ room tag =>
            if room < len then portResult (updCtx s' n (fun c => { c with st := if parked then .parked else .running, evict := none }))
              .car tag 0xC (len / 64)
            else evictTo (overrun s' n) n why len
          | _ => evictTo (overrun s' n) n why len
where
  /-- Writes the image and clears the cores. -/
  evictTo (s : State) (n : Nat) (why : EvictWhy) (len : Nat) : State :=
    match imagePlace s n why len with
    | (_, none) => s
    | (s, some a) =>
      let w := writeLong (len / 4096 + 1) s a (imageBytes s n true)
      grantWaiters (evicted (bump (coresEvict w.1 n) 0x190 3) n why a)

/-- EVICTION_COMPLETE. -/
def execEvictionComplete (n : Nat) (dma : List (Nat × Nat × Nat)) (s : State) : Host.Outcome State Fault Refusal :=
  .next (evictionComplete s n dma)

/-- RESTORE_COMPLETE: each section is restored to its logical core's new core, and the context resumes; an image that is not
in mid-invocation is swapped in afresh. An image in a block of the context's is released. -/
def restoreComplete (s : State) (n : Nat) : State :=
  let c := ctx s n
  match c.cur with
  | none => s
  | some i =>
    if c.st != .restoring || c.cores.any (fun k => !ready s (corePg k)) then s
    else
      let a := c.image
      let h := peek s a 512
      let free := fun (s : State) => updCtx (if ketHolds s a 1 n then relBlock s a 1 n else s) n (fun c => { c with image := 0 })
      if !imgMid s n then free (swapIn s n i c.cores)
      else
        let la := leAt i.recd 0 8
        let lh := peek s la 512
        let m := tgetD s.models (leAt lh 8 2) []
        let s := updCtx s n (fun c => { c with
          st := .running, hdr := lh, model := m, scale := peek s (a + 512) (16 * leAt m 2 2), pausedAt := none, np := false,
          grantAt := if c.grantAt = 0 then now s else c.grantAt, lastGrant := now s })
        let s := (List.range c.cores.length).foldl (fun s lc =>
          restoreCore s n lc (c.cores.getD lc 0) (la + hdrOfs lh lc) (la + hdrOfs lh lc + 64 * hdrCount lh lc)
            (a + 64 * leAt h (0x100 + 4 * lc) 4)) s
        urgentLevel (free (openWindow s n))

/-- RESTORE_COMPLETE. -/
def execRestoreComplete (n : Nat) (s : State) : Host.Outcome State Fault Refusal := .next (restoreComplete s n)

/-! ### Faults and teardown (R334, R335, R491, R497, R498) -/

/-- CONTEXT_FAULT: a fault of Table 21-1 on a context. -/
def execContextFault (n code page desc detail : Nat) (s : State) : Host.Outcome State Fault Refusal :=
  .next (if inR n 1 4095 && inR code 1 0x17 && code != 0x11 && !pageReserved page && page < 0x200 then
    raiseFault s (.ctx n) code page desc detail 0 0 else s)

/-- A core's kill scrub for a context in TEARDOWN: tags squashed, rows and slots zero, or the rows kept for inspection (R285,
R287, R308). -/
def killScrub (s : State) (c n : Nat) : State :=
  let x := ctx s n
  if x.st != .teardown || !x.cores.contains c || x.acked.contains c then s
  else
    let lc := (x.cores.takeWhile (· != c)).length
    let s := squashAll s n lc
    let k := coreSt s c
    let rows := (localRows s n lc).foldl (fun l r => rowsAdd l r.1 r.2) k.pend
    let dbg := getR s (corePg c) 0x408
    let parked := tget s.car.parkedOn c == some n
    let s := if bit dbg 31 && bits dbg 11 0 = n then
        setCore (putRV s (corePg c) 0x408 0) c { k with st := 3, who := n, rows := rows }
      else
        let s := rows.foldl (fun s r => { s with mem := memZero s.mem (scratchAddr c (64 * r.1)) (64 * (r.2 - r.1)) }) s
        bumpR (setCore s c { k with who := n, pend := [], rows := [] }) (corePg c) 0x40C 1
    let s := if parked then
        parkPending { s with car := { s.car with parkedOn := tdel s.car.parkedOn c } } c n
      else s
    updCtx { s with seqs := tdel s.seqs (64 * n + lc) } n (fun x => { x with acked := x.acked ++ [c] })

/-- KILL_SCRUB_COMPLETE: of a context's teardown, or of the release of retained rows. -/
def execKillScrubComplete (c n : Nat) (s : State) : Host.Outcome State Fault Refusal :=
  .next (if (coreSt s c).st = 1 then scrubDone s c else killScrub s c n)

/-- A context's Kettle epoch advances; an advance that has to wait for the sweep pass lets it end (R437). -/
def epochNext (s : State) (n : Nat) : State :=
  if epochWaits s n then
    let s := bump s 0x160 6
    epochAdvance (forN s.ket.sweep.length (fun _ s => sweepOne s) s) n
  else epochAdvance s n

/-- What an invocation that ends with STATUS 1 or 2 leaves behind. -/
def invFailed (s : State) (n : Nat) (i : Inv) (code : Nat) (resume : Bool) : State :=
  if i.special = 1 then batchDiscard s i.owner code resume
  else if i.special = 2 then adaptDiscard s i.owner code
  else invDropped s n i 6

/-- TEARDOWN_COMPLETE: every core is scrubbed; leases and claims return, parked state is gone, the completion is written
(Table 13-11), and the context goes on as Table 13-4 says. -/
def teardownComplete (s : State) (n : Nat) : State :=
  let c := ctx s n
  if c.st != .teardown || c.cores.any (fun k => !c.acked.contains k) then s
  else
    let resume := c.killed || c.flag 0
    let s := npAbandon (ringsOfCtx (leasesReturn s n) n) n (fun _ => true)
    let s := match c.evict with
      | some (.save _ _ tag) => portResult s .car tag 0xC 0
      | _ => s
    let s := { s with car := { s.car with parkedOn := s.car.parkedOn.filter (fun (q : Nat × Nat) => q.2 != n),
                                          reserved := s.car.reserved.filter (fun (q : Nat × Nat) => q.2 != n) },
                      seqs := s.seqs.filter (fun (q : Nat × Seq) => q.1 / 64 != n) }
    let s := match c.cur with
      | some i => complete (invFailed s n i c.code resume) n i (if c.killed then 2 else 1) (if c.killed then 0 else c.code) c.grantAt
      | none => s
    let s := clearFaults (epochNext s n) 0 n
    let s := updCtx (bump s 0x190 7) n (fun c => { c with
      cores := [], ended := [], acked := [], cur := none, evict := none, want := [], image := 0, pausedAt := none, np := false })
    let s := if resume then settle s n else updCtx s n (fun c => { c with st := .faulted })
    grantWaiters (urgentLevel (grantAll s))

/-- TEARDOWN_COMPLETE. -/
def execTeardownComplete (n : Nat) (s : State) : Host.Outcome State Fault Refusal := .next (teardownComplete s n)

/-- TEARDOWN_WATCHDOG: 50 µs after the stop, level 2 on each engine of `pages` that still holds the context's work, or level 3
on the partitions whose cores do (R497). `ok`: the units pass their self-tests. -/
def teardownWatchdog (s : State) (n : Nat) (pages : List Nat) (ok : Bool) : State :=
  let c := ctx s n
  let left := c.cores.filter (fun k => !c.acked.contains k)
  let mine := pages.filter (fun p => isEngine p && left.contains ((p - 0x040) / 4))
  if c.st != .teardown || now s < c.tearAt + 50 * Config.tUs || left.isEmpty then s
  else if mine.isEmpty then
    partDecide s ((List.range 4).foldl (fun m q => m + 2 ^ q * b2n (left.any (fun k => k / 12 == q))) 0) 1
  else mine.foldl (fun s p => unitReset s p 1 ok) s

/-- TEARDOWN_WATCHDOG. -/
def execTeardownWatchdog (n : Nat) (pages : List Nat) (ok : Bool) (s : State) : Host.Outcome State Fault Refusal :=
  .next (teardownWatchdog s n pages ok)

/-- CONTEXT_PROGRESS_WATCHDOG (R498). -/
def progressWatchdog (s : State) (n : Nat) : State :=
  let c := ctx s n
  if !(c.st = .running || c.st = .restoring) || now s < c.progress + wdogTicks s n then s
  else if !c.cores.isEmpty && c.cores.all (fun k => corePaused s n k) then updCtx s n (fun c => { c with progress := now s })
  else ctxFault s n 0x09 0x1A0 0

/-- CONTEXT_PROGRESS_WATCHDOG. -/
def execContextProgressWatchdog (n : Nat) (s : State) : Host.Outcome State Fault Refusal := .next (progressWatchdog s n)

/-! ### The port's operations (Tables 13-12 and 13-13) -/

/-- The first illegal field of a context record, in offset order (Table 13-1). -/
def ctxBad (o : List Byte) : Option Nat :=
  let f := byteAt o 1
  let tc := leAt o 0x1A 2
  let sl := leAt o 0x24 4
  (([(3 < byteAt o 0, 0), (7 < f, 1), (7 < byteAt o 2, 2), (!zeroAt o 3 1, 3), (255 < leAt o 4 2, 4), (2047 < leAt o 6 2, 6),
    (leAt o 8 8 % 64 != 0, 8), (leAt o 0x10 8 % 32 != 0, 0x10), (!inR (byteAt o 0x18) 4 12, 0x18),
    (!inR (byteAt o 0x19) 4 12, 0x19), ((255 < tc && tc != 0xFFFF) || (f.testBit 1 && tc == 0xFFFF), 0x1A),
    (!inR (leAt o 0x1C 4) 10 1000000, 0x1C), (63 < byteAt o 0x20, 0x20), (!zeroAt o 0x21 3, 0x21),
    (byteAt o 0 != 0 && sl != 0 && !inR sl 100 100000, 0x24), (!zeroAt o 0x30 16, 0x30)] :
      List (Bool × Nat)).find? (·.1)).map (·.2)

/-- Open contexts. -/
def ctxsOpen (s : State) : Nat := (s.ctxs.filter (fun (q : Nat × Ctx) => q.2.st != .closed)).length

/-- ADMIT_CTX. -/
def admitCtx (s : State) : Nat := profF s 0x10C 2 4095

/-- ADMIT_FULL follows the count. -/
def admitLevel (s : State) : State := setStatus s 0x190 9 (decide (admitCtx s ≤ ctxsOpen s))

/-- CTX_OPEN (R311). -/
def opCtxOpen : POp := fun n o _ s =>
  if n = 0 then refuse s 0xE 0x0C
  else
    match ctxBad o with
    | some f => illegal s f
    | none =>
      if (ctx s n).st != .closed then refuse s 4 0
      else if admitCtx s ≤ ctxsOpen s then refuse s 9 (admitCtx s)
      else done (admitLevel (setCtx s n { st := .idle, recd := o.take 64, epoch := (ctx s n).epoch }))

/-- CTX_CLOSE: queued invocations are completed with STATUS 2, and the context's claims die (Table 13-4, R437). -/
def opCtxClose : POp := fun n _ _ s =>
  let c := ctx s n
  if n = 0 then refuse s 0xE 0x0C
  else if c.st = .closed then refuse s 5 0
  else if !(c.st = .idle || c.st = .faulted || c.st = .held) then refuse s 0xC 0
  else
    let l := (match c.cur with
      | some i => [i]
      | none => []) ++ c.queue
    let s := l.foldl (fun s i => invFailed (complete s n i 2 0 0) n i 0 true) s
    let s := clearFaults (epochNext s n) 0 n
    let s := { s with seqs := s.seqs.filter (fun (q : Nat × Seq) => q.1 / 64 != n) }
    done (admitLevel (grantAll (setCtx s n { epoch := (ctx s n).epoch })))

/-- The context status record (Table 13-14). -/
def ctxStatus (s : State) (n : Nat) : List Byte :=
  let c := ctx s n
  leBytes 1 c.st.code ++ leBytes 1 (byteAt c.recd 0) ++ leBytes 1 (byteAt c.recd 2) ++ leBytes 1 c.cores.length ++
    leBytes 2 (leAt c.recd 4 2) ++
    leBytes 1 (c.queue.filter (fun i => !i.ring && i.special != 1 && i.special != 2)).length ++ zeros 1 ++
    leBytes 4 c.ringProd.toNat ++ leBytes 4 c.ringCons.toNat ++ leBytes 4 c.cplProd.toNat ++ leBytes 4 c.cplCons.toNat ++
    leBytes 4 c.debt ++ leBytes 1 c.lastStatus ++ leBytes 1 c.lastCode ++ zeros 2 ++
    leBytes 8 (c.cores.foldl (fun m k => m + 2 ^ k) 0) ++ leBytes 8 c.lastGrant ++ leBytes 4 c.nDone.toNat ++
    leBytes 4 c.nFault.toNat ++ leBytes 4 c.nStale.toNat ++ leBytes 4 c.nTrig.toNat

/-- CTX_READ. -/
def opCtxRead : POp := fun n _ _ s =>
  if n = 0 then refuse s 0xE 0x0C
  else if (ctx s n).st = .closed then refuse s 5 0
  else done (portStatus s .car (ctxStatus s n))

/-- CTX_KILL (R334). -/
def opCtxKill : POp := fun n _ _ s =>
  if n = 0 then refuse s 0xE 0x0C
  else if (ctx s n).st = .closed then refuse s 5 0
  else if (ctx s n).st.live then
    let e := (ctx s n).evict
    let s := startTeardown s n 0 true
    done (match e with
      | some (.save _ _ tag) => portResult s .car tag 0xC 0
      | _ => s)
  else refuse s 0xC 0

/-- CTX_RESUME; a batch FAULTED on the context plans again (Table 14-9). -/
def opCtxResume : POp := fun n _ _ s =>
  if n = 0 then refuse s 0xE 0x0C
  else if (ctx s n).st = .closed then refuse s 5 0
  else if (ctx s n).st != .faulted then refuse s 0xC 0
  else
    let s := settle s n
    done (match batchOf s n with
      | some b => if (batch s b).st = 6 then updBatch s b (fun x => { x with st := 1 }) else s
      | none => s)

/-- The first illegal field of a model entry (Table 13-6). -/
def modelBad (o : List Byte) : Option Nat :=
  (([(1 < byteAt o 0, 0), (!zeroAt o 1 1, 1), (!inR (leAt o 2 2) 1 1024, 2), (1024 < leAt o 4 2, 4), (!zeroAt o 6 2, 6),
    (leAt o 8 8 % 64 != 0 || 0x000E00000000 ≤ leAt o 8 8, 8), (!inR (leAt o 0x10 8) 64 (2 ^ 34), 0x10),
    (leAt o 0x18 8 % 128 != 0, 0x18), (!zeroAt o 0x28 24, 0x28)] : List (Bool × Nat)).find? (·.1)).map (·.2)

/-- MODEL_LOAD (R323). -/
def opModelLoad : POp := fun n o _ s =>
  if 256 ≤ n then illegal s 0
  else
    match modelBad o with
    | some f => illegal s f
    | none => done { s with models := if byteAt o 0 = 0 then tdel s.models n else tset s.models n (o.take 64) }

/-- MODEL_UNLOAD. -/
def opModelUnload : POp := fun n _ _ s =>
  if 256 ≤ n then illegal s 0
  else if (tget s.models n).isNone then refuse s 5 0
  else if s.ctxs.any (fun (q : Nat × Ctx) => q.2.st != .closed && q.2.st != .idle && q.2.st != .faulted && leAt q.2.recd 4 2 == n) then
    refuse s 0xC 0
  else done { s with models := tdel s.models n }

/-- CTX_SAVE: the image goes to the staged address; the result is written when it stands there. -/
def opCtxSave : POp := fun n o tag s =>
  let c := ctx s n
  let a := leAt o 0 8
  let room := leAt o 8 4
  let need := if c.st = .suspended then leAt (peek s c.image 512) 0x10 4 else imageLen s n
  if n = 0 then refuse s 0xE 0x0C
  else if a % 64 != 0 then illegal s 0
  else if c.st = .closed then refuse s 5 0
  else if !(c.st = .waiting || c.st = .running || c.st = .parked || c.st = .suspended) then refuse s 0xC 0
  else if room < need then refuse s 0xC (need / 64)
  else
    let s := if c.st = .waiting then
        updCtx s n (fun c => { c with cur := c.queue.head?, queue := c.queue.tail, image := 0 })
      else s
    let s := if c.st = .running then askPause s n else s
    (updCtx s n (fun c => { c with st := .evicting, evict := some (.save a room tag) }), 0xF, 0)

/-- The checks of R333 on an image: 0, or the fault code. -/
def imageCheck (s : State) (a : Nat) : Nat :=
  let r := unitRead s a 512
  let h := r.2.1
  let nc := byteAt h 6
  let sh := imgShape s a
  let model := tget s.models (leAt h 0xA 2)
  let list := leAt h 0x80 8
  let lh := peek s list 512
  let len := leAt h 0x10 4
  let secs := (List.range nc).map (fun k => 64 * leAt h (0x100 + 4 * k) 4)
  if !r.2.2 then readCode s a
  else if !(h.take 4 == [0x43, 0x58, 0x43, 0x49] && byteAt h 4 == 1 && byteAt h 5 < 4 && nc ≤ 48 && zeroAt h 0xF 1 && zeroAt h 0x2C 20 &&
      zeroAt h 0xF0 16 && zeroAt h 0x1C0 64 && zeroAt h (0x100 + 4 * nc) (4 * (48 - nc)) &&
      (List.range (48 - nc)).all (fun k => byteAt h (0xC0 + nc + k) == 0xFF) && secs.all (fun o => 512 ≤ o && o + 4096 ≤ len) &&
      distinct secs) then 0x04
  else if !(match model with
    | some m => leAt m 0x10 8 == leAt h 0x20 8
    | none => false) then 0x0B
  else if !sh.reloc && sh.map.any (fun c => !coreOffered s c) then 0x0B
  else if sh.reloc && ((List.range 48).filter (coreOffered s)).length < sh.nc then 0x0B
  else if (byteAt h 5).testBit 1 then npCheck s list lh
  else 0

/-- CTX_RESTORE (R333): into a CLOSED or HELD context. -/
def opCtxRestore : POp := fun n o _ s =>
  let c := ctx s n
  let a := leAt o 0 8
  let ra := leAt o 8 8
  let h := peek s a 512
  let rec' := if ra = 0 then (h.drop 0x40).take 64 else peek s ra 64
  if n = 0 then refuse s 0xE 0x0C
  else if a % 64 != 0 then illegal s 0
  else if !(c.st = .closed || c.st = .held) then refuse s 0xC 0
  else if imageCheck s a != 0 then refuse s 0xD (imageCheck s a)
  else if (ctxBad rec').isSome then refuse s 0xD 0x04
  else if c.st = .closed && admitCtx s ≤ ctxsOpen s then refuse s 9 (admitCtx s)
  else
    let cu : Inv := c.cur.getD { recd := [], arrival := 0, ring := false }
    let i : Inv := { cu with recd := (h.drop 0x80).take 64, arrival := now s, seq := leAt h 0x28 4 }
    let s := if c.st = .held && c.image = a then s else { s with seqs := s.seqs.filter (fun (q : Nat × Seq) => q.1 / 64 != n) }
    let base : Ctx := if c.st = .held then c else { epoch := c.epoch }
    let s := setCtx s n { base with
      st := .suspended, recd := rec', image := a, cur := some i, debt := leAt h 0x14 4, seqNo := max base.seqNo (leAt h 0x28 4 + 1) }
    done (admitLevel s)

/-- CTX_OPEN. -/
def execCtxOpen (m : Master) (tag idx : Nat) (s : State) : Host.Outcome State Fault Refusal :=
  .next (portCmd .car m 1 tag idx opCtxOpen s)

/-- CTX_CLOSE. -/
def execCtxClose (m : Master) (tag idx : Nat) (s : State) : Host.Outcome State Fault Refusal :=
  .next (portCmd .car m 2 tag idx opCtxClose s)

/-- CTX_READ. -/
def execCtxRead (m : Master) (tag idx : Nat) (s : State) : Host.Outcome State Fault Refusal :=
  .next (portCmd .car m 3 tag idx opCtxRead s)

/-- CTX_KILL. -/
def execCtxKill (m : Master) (tag idx : Nat) (s : State) : Host.Outcome State Fault Refusal :=
  .next (portCmd .car m 4 tag idx opCtxKill s)

/-- CTX_RESUME. -/
def execCtxResume (m : Master) (tag idx : Nat) (s : State) : Host.Outcome State Fault Refusal :=
  .next (portCmd .car m 5 tag idx opCtxResume s)

/-- MODEL_LOAD. -/
def execModelLoad (m : Master) (tag idx : Nat) (s : State) : Host.Outcome State Fault Refusal :=
  .next (portCmd .car m 6 tag idx opModelLoad s)

/-- MODEL_UNLOAD. -/
def execModelUnload (m : Master) (tag idx : Nat) (s : State) : Host.Outcome State Fault Refusal :=
  .next (portCmd .car m 7 tag idx opModelUnload s)

/-- CTX_SAVE. -/
def execCtxSave (m : Master) (tag idx : Nat) (s : State) : Host.Outcome State Fault Refusal :=
  .next (portCmd .car m 8 tag idx opCtxSave s)

/-- CTX_RESTORE. -/
def execCtxRestore (m : Master) (tag idx : Nat) (s : State) : Host.Outcome State Fault Refusal :=
  .next (portCmd .car m 9 tag idx opCtxRestore s)

end Sys2Proof.Machine
end

