-- ==== Sys2Proof/Machine/Pcie.lean ====
section
/-!
DEFINITION. Machine/Pcie.lean: the PCI Express endpoint (R443-R469): BAR2, windows, completions, errors and the
containment freeze, MSI-X, D-states, wake and the slot's button.
-/
namespace Sys2Proof.Machine

/-! ### Errors and the freeze (R461, R462) -/

/-- Every request outstanding is abandoned (R457, R462): a context that waits for one faults, and each keeps its tag. -/
def npDrop (s : State) : State :=
  let live := s.pcie.np.filter (fun (q : Nat × NpReq) => npLive s q.2)
  let s := bumpN s 0x180 3 live.length
  let s := live.foldl (fun s (q : Nat × NpReq) =>
    match q.2.ctx with
    | some n => if npLive s q.2 then dmaReadFailed s n q.2 else s
    | none => s) s
  { s with pcie := { s.pcie with np := s.pcie.np.map (fun (q : Nat × NpReq) => (q.1, { q.2 with abandoned := true })) } }

/-- The endpoint enters FROZEN (R462). -/
def freeze (s : State) (cause : Nat) : State := if s.pcie.frozen then s else npDrop (freezeSet s cause)

/-- An uncorrectable error is reported, and freezes the endpoint if it is fatal. -/
def aerUnc (s : State) (k : Nat) (hdr : List Byte) : State :=
  let was := s.pcie.frozen
  let s := aerSet s k hdr
  if s.pcie.frozen && !was then npDrop s else s

/-- An Unsupported Request, with the abandonment a freeze brings. -/
def urError (s : State) (posted : Bool) (hdr : List Byte) : State :=
  let was := s.pcie.frozen
  let s := urSet s posted hdr
  if s.pcie.frozen && !was then npDrop s else s

/-- PCIE_TLP_ERROR (R461). -/
def execPcieTlpError (e : TlpErr) (hdr : List Byte) (s : State) : Host.Outcome State Fault Refusal :=
  .next (if s.pcie.link != 2 && s.pcie.link != 3 then s else
    match e with
    | .correctable k => if [0, 6, 7, 8, 12, 14].contains k then aerCorr s k else s
    | .unsupported posted => urError s posted hdr
    | .poisonedRequest => aerUnc s 12 hdr
    | .ecrc => aerUnc s 19 hdr
    | .unexpectedCompletion => aerUnc s 16 hdr
    | .fatal k => if [4, 13, 17, 18, 22].contains k then aerUnc s k hdr else s)

/-- PCIE_LINK_LOSS: the link leaves L0, L1 or L2 for Detect; after an L2 entry by PME_Turn_Off that is no loss
(R462). -/
def execPcieLinkLoss (s : State) : Host.Outcome State Fault Refusal :=
  .next (if s.pcie.link < 2 then s
    else
      let off := s.pcie.turnOff
      let s := { s with pcie := { s.pcie with link := 0, width := 0, speed := 0 } }
      if off then s else freeze s 0xFE)

/-- PCIE_LINK_RETRAINED: after a link loss the link is in L0 again. -/
def execPcieLinkRetrained (width speed : Nat) (s : State) : Host.Outcome State Fault Refusal :=
  .next (if s.pcie.link = 0 && ready s 0x180 && !s.pcie.turnOff && [1, 2, 4, 8, 16].contains width && inR speed 1 5 then
    { s with pcie := { s.pcie with link := 2, width := width, speed := speed } } else s)

/-! ### MSI-X (R459, R460) -/

/-- Sends the pending message of a vector when nothing holds it back any longer. -/
def msixPend (s : State) (v : Nat) : State :=
  if v < 2048 && s.pcie.msixEn && pbaGet s v && !msixHeld s v then msixSend (pbaSet s v false) v else s

/-- Every pending message that nothing holds back. -/
def msixFlush (s : State) : State := (List.range 2048).foldl msixPend s

/-- MSIX_PENDING_SEND. -/
def execMsixPendingSend (v : Nat) (s : State) : Host.Outcome State Fault Refusal := .next (msixPend s v)

/-- MSIX_HOLDOFF_EXPIRY: the window [t, t + HOLDOFF) has ended. -/
def execMsixHoldoffExpiry (v : Nat) (s : State) : Host.Outcome State Fault Refusal :=
  .next (if holdEnd s v ≤ now s then
    msixPend { s with pcie := { s.pcie with hold := tdel s.pcie.hold v } } v else s)

/-- FREEZE_RELEASE: a write of FREEZE_CTL.RELEASE = 1 by the host driver or the tray controller (R463). -/
def freezeRelease (s : State) : State :=
  if !s.pcie.frozen || s.pcie.link != 2 || s.pcie.aerUnc &&& s.pcie.aerSev != 0 then s
  else msixFlush (setStatus { s with pcie := { s.pcie with frozen := false } } 0x180 8 false)

/-- FREEZE_RELEASE. -/
def execFreezeRelease (m : Master) (s : State) : Host.Outcome State Fault Refusal :=
  .next (if masterPriv m && fnReady s 2 then freezeRelease s else s)

/-! ### Configuration space (R63, R443) -/

/-- The value that a configuration read returns, for the fields the spec states. -/
def cfgRead (s : State) (q : CfgReq) : Nat :=
  match q with
  | .classCode => 0x120000
  | .vsecHeader => 0x0C96 ||| 1 <<< 16 ||| 0x010 <<< 20
  | .freezeCtl => b2n s.pcie.frozen <<< 31 ||| (if s.pcie.frozen then s.pcie.cause else 0) <<< 8
  | .aerUnc => s.pcie.aerUnc
  | .aerCor => s.pcie.aerCor
  | .aerSev => s.pcie.aerSev
  | .aerFirst => s.pcie.firstErr ||| b2n s.pcie.hdrOvf <<< 5
  | .headerLog => leNat s.pcie.hdrLog
  | .ctoRanges => 15
  | _ => 0

/-- What a configuration write does to the function. -/
def cfgWrite (p : Pcie) (q : CfgReq) : Pcie :=
  match q with
  | .memEn on => { p with memEn := on }
  | .msixEn on => { p with msixEn := on }
  | .fnMask on => { p with fnMask := on }
  | .tag10 on => { p with tag10 := on }
  | .extTag on => { p with extTag := on }
  | .mps n => if [128, 256, 512].contains n then { p with mps := n } else p
  | .mrrs n => if [128, 256, 512, 1024, 2048, 4096].contains n then { p with mrrs := n } else p
  | .ctoVal v => { p with ctoVal := v % 16 }
  | .ptmEn on => { p with ptmEn := on }
  | .pmeEn on => { p with pmeEn := on }
  | .pmeClear => { p with pmeStatus := false }
  | .errEn k => { p with errEn := k % 8 }
  | .aerUncClear k =>
    let left := p.aerUnc - (p.aerUnc &&& k)
    if left.testBit p.firstErr then { p with aerUnc := left }
    else { p with aerUnc := left, firstErr := 0, hdrLog := [], hdrOvf := false }
  | .aerCorClear k => { p with aerCor := p.aerCor - (p.aerCor &&& k) }
  | .aerSevSet k => { p with aerSev := k % 2 ^ 32 }
  | _ => p

/-- A configuration request that reads. -/
def cfgIsRead (q : CfgReq) : Bool :=
  match q with
  | .classCode | .vsecHeader | .freezeCtl | .aerUnc | .aerCor | .aerSev | .aerFirst | .headerLog | .ctoRanges => true
  | _ => false

/-- PCIE_CONFIG_REQUEST: Request Retry Status until READY_MAP bit 2 sets, then carried out (R63, R447). -/
def execPcieConfigRequest (q : CfgReq) (s : State) : Host.Outcome State Fault Refusal :=
  .next (if !fnReady s 2 then { s with out := .pcie 5 0 :: s.out }
    else if cfgIsRead q then { s with out := .pcie 9 (cfgRead s q) :: s.out }
    else { s with pcie := cfgWrite s.pcie q, out := .pcie 9 0 :: s.out })

/-! ### Completions of host reads (R456, R457) -/

/-- Completion timeout in ticks (Table 19-5). -/
def ctoTicks (v : Nat) : Nat :=
  match v with
  | 1 => 80 * Config.tUs
  | 2 => 8 * Config.tMs
  | 5 => 32 * Config.tMs
  | 6 => 128 * Config.tMs
  | 9 => 512 * Config.tMs
  | 10 => 2 * Config.tSec
  | 13 => 8 * Config.tSec
  | 14 => 32 * Config.tSec
  | _ => 16 * Config.tMs

/-- Frees a tag. -/
def npFree (s : State) (tag : Nat) : State := { s with pcie := { s.pcie with np := tdel s.pcie.np tag } }

/-- A read request fails (R457): PCIE_CPL_LAST, its count, and the fault on the requesting context. -/
def npFail (s : State) (tag : Nat) (r : NpReq) (kind : Nat) : State :=
  let s := putR (npFree s tag) 0x180 0x108 (word (kind <<< 29 ||| r.ctx.getD 0))
  let s := bump s 0x180 3
  match r.ctx with
  | some n => dmaReadFailed s n r
  | none => s

/-- The DMA that a request belongs to goes on with its next requests. -/
def npNext (s : State) (r : NpReq) : State :=
  match r.ctx with
  | none => s
  | some n =>
    match (lcores s n).find? (fun l => (seq s n l).core == r.core / 2) with
    | some lc => dmaPump s n lc
    | none => s

/-- PCIE_COMPLETION_RECEIVE: data, a failure, a completion of an abandoned request, or an unexpected one. -/
def completion (s : State) (tag : Nat) (c : CplSt) : State :=
  match tget s.pcie.np tag with
  | none => aerUnc s 16 []
  | some r =>
    if !npLive s r then bump (npFree s tag) 0x180 4
    else
      match c with
      | .ok d =>
        npNext (npFree { s with pcieMem := memWrL s.pcieMem r.addr (fitBytes r.bytes d) } tag) r
      | .ur => npFail s tag r 2
      | .ca => npFail s tag r 3
      | .poisoned => aerUnc (npFail s tag r 4) 12 []

/-- PCIE_COMPLETION_RECEIVE. -/
def execPcieCompletionReceive (tag : Nat) (c : CplSt) (s : State) : Host.Outcome State Fault Refusal :=
  .next (completion s tag c)

/-- PCIE_COMPLETION_TIMEOUT: the request's time, counted from its transmission, is over. -/
def execPcieCompletionTimeout (tag : Nat) (s : State) : Host.Outcome State Fault Refusal :=
  .next (match tget s.pcie.np tag with
    | none => s
    | some r =>
      if now s < r.issued + ctoTicks s.pcie.ctoVal then s
      else if !npLive s r then npFree s tag
      else aerUnc (npFail s tag r 1) 14 [])

/-! ### Reset of the function (R448) -/

/-- Registers of the function's pages; PCIE_PME_CFG lies in the management domain (R465). -/
def pcieKeeps (key : Nat) : Bool :=
  let p := key / 0x10000
  !(p = 0x180 || p = 0x181 || (0x200 ≤ p && p ≤ 0x203)) || key == rkey 0x180 0x110

/-- The function at reset: what lies in the management domain stays (log 45). -/
def pcieReset (p : Pcie) : Pcie :=
  { d3cold := p.d3cold, wake := p.wake, pmeEn := p.pmeEn && p.d3cold, pmeStatus := p.pmeStatus && p.d3cold }

/-- Resets the PCIe function: its pages and configuration space; READY_MAP bit 2 clears. -/
def pcieFnReset (s : State) (st : BlkSt) : State :=
  let s := npDrop s
  let s := pageReset (pageReset s 0x180 st) 0x181 st
  { s with regs := s.regs.filter (fun q => pcieKeeps q.1), rvs := s.rvs.filter (fun q => pcieKeeps q.1),
           blks := s.blks.map (fun q => if q.1 = 0x180 || q.1 = 0x181 then (q.1, { st := q.2.st, codeRev := q.2.codeRev }) else q),
           pcie := pcieReset s.pcie }

/-- PCIE_HOT_RESET: a Hot Reset or Link Disable; the endpoint repeats its bring-up from Detect. -/
def execPcieHotReset (s : State) : Host.Outcome State Fault Refusal :=
  .next (if s.life.phase != .up || s.pcie.link = 0 && !ready s 0x180 then s
    else
      let s := pcieFnReset s .init
      { s with pcie := { s.pcie with link := 1 } })

/-- The PCIe function's domain ramps and the function starts link training (R61). -/
def pcieStart (s : State) : State :=
  if s.life.refclk && s.life.phase = .up && (blk s 0x180).st = .reset then
    if pdOn s 60 then
      let s := setSt (setSt s 0x180 .init) 0x181 .init
      { s with pcie := { s.pcie with link := 1 } }
    else if pdState s 60 = 0 then setPd s 60 1 0
    else s
  else s

/-- PE_REFCLK_PRESENT. -/
def execPeRefclkPresent (s : State) : Host.Outcome State Fault Refusal :=
  .next (pcieStart { s with life := { s.life with refclk := true } })

/-! ### D-states, wake, LTR (R445, R464, R465) -/

/-- Writes that waited are made (R464). -/
def waitFlush (s : State) : State :=
  let l := s.pcie.waitWr
  l.foldl (fun s (w : Nat × List Byte) => hostPut s w.1 w.2) { s with pcie := { s.pcie with waitWr := [] } }

/-- D_STATE_CHANGE between D0 and D3hot. -/
def execDStateChange (d3 : Bool) (s : State) : Host.Outcome State Fault Refusal :=
  .next (if !fnReady s 2 then s
    else if d3 then setStatus { s with pcie := { s.pcie with dstate := 3 } } 0x180 9 true
    else msixFlush (waitFlush (setStatus { s with pcie := { s.pcie with dstate := 0 } } 0x180 9 false)))

/-- PME_TURN_OFF: PME_TO_Ack and L2/L3 Ready. -/
def execPmeTurnOff (s : State) : Host.Outcome State Fault Refusal :=
  .next (if s.pcie.link = 2 || s.pcie.link = 3 then
    { s with pcie := { s.pcie with turnOff := true, link := 4 }, out := .pcie 6 0 :: s.out } else s)

/-- LTR_UPDATE: the tolerance is 10 µs while the host range has had traffic within the last 1 ms, else 1 ms (R445). -/
def execLtrUpdate (s : State) : Host.Outcome State Fault Refusal :=
  .next (
    let v := if s.pcie.hostSeen && decide (now s < s.pcie.hostTraffic + Config.tMs) then 10 else 1000
    if s.pcie.ltr = v || s.pcie.link < 2 || s.pcie.link = 4 || s.pcie.frozen || s.pcie.dstate != 0 then s
    else { s with pcie := { s.pcie with ltr := v }, out := .pcie 7 v :: s.out })

/-- A wake event in D3cold (R465): WAKE_N is asserted and stays so until PERST_N deasserts. -/
def wakeUp (s : State) : State :=
  if s.pcie.d3cold && s.pcie.pmeEn then { s with pcie := { s.pcie with pmeStatus := true, wake := true } } else s

/-- MCTP_WAKE. -/
def execMctpWake (s : State) : Host.Outcome State Fault Refusal := .next (wakeUp s)

/-- ATTN_BUTTON_PRESS, debounced: counted, and a PME where PCIE_PME_CFG.ATTN asks for it (R465, R466). -/
def execAttnButtonPress (s : State) : Host.Outcome State Fault Refusal :=
  .next (
    let st := getR s 0x1B2 0x100
    if s.life.phase = .off || bit st 0 then s
    else
      let s := bump (putR s 0x1B2 0x100 (setBits st 0 0 1)) 0x1B2 0
      if !bit (getR s 0x180 0x110) 1 then s
      else if s.pcie.d3cold then wakeUp s
      else if s.pcie.dstate = 3 && s.pcie.pmeEn then
        { s with pcie := { s.pcie with pmeStatus := true }, out := .pme :: s.out }
      else s)

/-- ATTN_BUTTON_RELEASE. -/
def execAttnButtonRelease (s : State) : Host.Outcome State Fault Refusal :=
  .next (if s.life.phase = .off then s else putR s 0x1B2 0x100 (setBits (getR s 0x1B2 0x100) 0 0 0))

/-! ### Windows (R451, R454) -/

/-- A range lies wholly inside the GDDR6 space or one core's scratchpad (R451). -/
def xltOk (base len : Nat) : Bool :=
  decide (base + len ≤ 0x000E00000000) ||
    (decide (0x004000000000 ≤ base) && decide (base + len ≤ 0x00400C000000) &&
      (base - 0x004000000000) / 0x400000 == (base + len - 1 - 0x004000000000) / 0x400000)

/-- A slot's base and its mapped bytes. -/
def xltBase (s : State) (i : Nat) : Nat := getR64 s 0x181 (0x1000 + 16 * i)

/-- A write of XLT_CFG (R451). -/
def xltCfgWrite (s : State) (i : Nat) (v : Word) : State :=
  let size := bits v 12 0
  if bit v 31 && (size = 0 || 4096 < size || xltBase s i % 0x10000 != 0 || !xltOk (xltBase s i) (size * 0x10000)) then
    bump s 0x181 0
  else putRV s 0x181 (0x1008 + 16 * i) (v &&& 0xC0001FFF#32)

/-- XLT_CFG_WRITE. -/
def execXltCfgWrite (m : Master) (i : Nat) (v : Word) (s : State) : Host.Outcome State Fault Refusal :=
  .next (if 256 ≤ i then s else guarded m 0x181 (0x1008 + 16 * i) s (fun s => xltCfgWrite s i v))

/-- A write of OUTW_CFG (R454). -/
def outwCfgWrite (s : State) (w : Nat) (v : Word) : State :=
  let base := getR64 s 0x181 (0x3000 + 16 * w)
  if bit v 31 && (base % 4096 != 0 || 0xFFFFFFFF00000000 < base) then bump s 0x181 1
  else putRV s 0x181 (0x3008 + 16 * w) (v &&& 0xC0000000#32)

/-- OUTW_CFG_WRITE. -/
def execOutwCfgWrite (m : Master) (w : Nat) (v : Word) (s : State) : Host.Outcome State Fault Refusal :=
  .next (if 64 ≤ w then s else guarded m 0x181 (0x3008 + 16 * w) s (fun s => outwCfgWrite s w v))

/-! ### BAR2 (R452) -/

/-- Where a BAR2 offset leads. -/
inductive Bar2 where
  | miss
  | gddr (a : Nat) (ro : Bool)
  | notReady (a : Nat) (ro : Bool)
  | coreOff (ro : Bool)
  | park (ro : Bool)
  | scrub (c o : Nat) (ro : Bool)
  | scr (c o : Nat) (ro : Bool)
  deriving DecidableEq, Repr

/-- Table 19-4's target of a BAR2 offset. -/
def bar2At (s : State) (ofs : Nat) : Bar2 :=
  let i := ofs / 0x10000000
  let o := ofs % 0x10000000
  let cfg := getR s 0x181 (0x1008 + 16 * i)
  let size := bits cfg 12 0 * 0x10000
  let ro := bit cfg 30
  if 256 ≤ i || !bit cfg 31 || size ≤ o || !xltOk (xltBase s i) size then .miss
  else
    let a := xltBase s i + o
    match locate a with
    | .gddr => if quadReady s a then .gddr a ro else .notReady a ro
    | .scratch c k =>
      if !pageOn s (corePg c) then .coreOff ro
      else if parkArea s c k then .park ro
      else if (coreSt s c).st = 1 then .scrub c k ro
      else .scr c k ro
    | _ => .miss

/-- A scratchpad as the kill scrub and the writes waiting behind it will leave it (R285). -/
def scrubView (s : State) (c o n : Nat) : List Byte :=
  let x := coreSt s c
  let m := x.rows.foldl (fun m (r : Nat × Nat) => memZero m (scratchAddr c (64 * r.1)) (64 * (r.2 - r.1))) s.mem
  memRdL (x.late.foldl (fun m (w : Nat × List Byte) => memWrL m (scratchAddr c w.1) w.2) m) (scratchAddr c o) n

/-- One dword of a BAR2 read: its value, and whether its completion is poisoned. -/
def bar2Dword (s : State) (ofs : Nat) : State × List Byte × Bool :=
  let ones : List Byte := List.replicate 4 0xFF
  match bar2At s ofs with
  | .miss => (bump s 0x180 0, ones, false)
  | .gddr a _ =>
    let r := rdGddr s 0 a 4
    if r.2.2 then (r.1, ones, true) else (r.1, r.2.1, false)
  | .notReady _ _ => (bump s 0x000 2, ones, false)
  | .coreOff _ => (s, ones, false)
  | .park _ => (bump s 0x180 0, zeros 4, false)
  | .scrub c o _ => (s, scrubView s c o 4, false)
  | .scr c o _ =>
    let r := scrRead s c o 4
    (r.1, r.2, false)

/-- The dwords of a BAR2 read, in ascending order. -/
def bar2Dwords (ofs : Nat) : Nat → State → State × List Byte × Bool
  | 0, s => (s, [], false)
  | n + 1, s =>
    let r := bar2Dwords ofs n s
    let q := bar2Dword r.1 (ofs + 4 * n)
    (q.1, r.2.1 ++ q.2.1, r.2.2 || q.2.2)

/-- A memory request that the endpoint does not serve (R63, R462): a read is answered with UR; a write is dropped. -/
def memUnserved (s : State) (posted : Bool) : State :=
  let was := s.pcie.frozen
  let s := unserved s posted
  if s.pcie.frozen && !was then npDrop s else s

/-- Memory requests of the host are served (R63). -/
def memServed (s : State) : Bool := s.pcie.memEn && !s.pcie.frozen && s.pcie.dstate = 0

/-- BAR2_READ of n dwords. -/
def execBar2Read (ofs n : Nat) (s : State) : Host.Outcome State Fault Refusal :=
  .next (if !memServed s then memUnserved s false
    else
      let r := bar2Dwords (ofs / 4 * 4) n s
      let s := if r.2.2 then bump r.1 0x180 1 else r.1
      { s with out := .pcie (if r.2.2 then 10 else 9) 0 :: .data r.2.1 :: s.out })

/-- The enabled bytes of a write as runs: offset and bytes. -/
def runsOf : Nat → List (Option Byte) → List (Nat × List Byte)
  | _, [] => []
  | o, none :: t => runsOf (o + 1) t
  | o, some b :: t =>
    match runsOf (o + 1) t with
    | (o', l) :: r => if o' = o + 1 then (o, b :: l) :: r else (o, [b]) :: (o', l) :: r
    | [] => [(o, [b])]

/-- One piece of a BAR2 write, within one sector. -/
def bar2Put (s : State) (ofs : Nat) (l : List Byte) : State :=
  match bar2At s ofs with
  | .miss => bump s 0x180 0
  | .gddr a ro => if ro then bump s 0x180 0 else (wrGddr s a l).1
  | .notReady _ ro => if ro then bump s 0x180 0 else bump s 0x000 2
  | .coreOff ro => if ro then bump s 0x180 0 else s
  | .park _ => bump s 0x180 0
  | .scrub c o ro =>
    if ro then bump s 0x180 0 else setCore s c { coreSt s c with late := (coreSt s c).late ++ [(o, l)] }
  | .scr c o ro => if ro then bump s 0x180 0 else scrWrite s c o l

/-- The dwords of a piece that is not a whole sector, each on its own. -/
def bar2Pieces (o : Nat) (l : List Byte) : Nat → List (Nat × List Byte)
  | 0 => []
  | k + 1 =>
    if l.isEmpty then []
    else
      let n := if o % 64 = 0 && 64 ≤ l.length then 64 else 4 - o % 4
      (o, l.take n) :: bar2Pieces (o + n) (l.drop n) k

/-- BAR2_WRITE: whole sectors as one write (R418), other dwords each on its own. -/
def execBar2Write (ofs : Nat) (data : List (Option Byte)) (s : State) : Host.Outcome State Fault Refusal :=
  .next (if !memServed s then memUnserved s true
    else (runsOf ofs data).foldl (fun s (r : Nat × List Byte) =>
      (bar2Pieces r.1 r.2 (r.2.length + 1)).foldl (fun s (p : Nat × List Byte) => bar2Put s p.1 p.2) s) s)

end Sys2Proof.Machine
end

