-- ==== Sys2Proof/Machine/Gong.lean ====
section
/-!
DEFINITION. Machine/Gong.lean: supply events, the orderly stop, the power cap, shedding, heat and the power-domain
controllers (R470-R489), with SLOT_CTRL.POWER_OFF (R467).
-/
namespace Sys2Proof.Machine

/-- S of R472: the sag threshold in VIN codes. -/
def sagS (s : State) : Nat := profF s 0x11E 2 40000 / 25

/-- GONG_SHED_W. -/
def shedW (s : State) : Nat := profF s 0x122 2 90

/-- Sets GONG_STATE.STATE. -/
def gongSt (s : State) (v : Nat) : State := putR s 0x1B0 0x108 (setBits (getR s 0x1B0 0x108) 31 28 v)

/-- k, the ripple step. -/
def ripK (s : State) : Nat := bits (getR s 0x1B0 0x108) 27 24

/-- j, the thermal step. -/
def thermJ (s : State) : Nat := bits (getR s 0x1B0 0x108) 23 20

/-- D, the engine duty in 64ths. -/
def duty (s : State) : Nat := bits (getR s 0x1B0 0x108) 13 7

/-- A core runs a class 0 invocation. -/
def runsUrgent (s : State) (c : Nat) : Bool :=
  s.ctxs.any (fun (q : Nat × Ctx) => byteAt q.2.recd 0 == 0 && q.2.st != .closed && q.2.cores.contains c)

/-- Sets the engine duty; an engine below full duty shows THROTTLED. In a low event no engine keeps full duty (R474,
R481). -/
def setDuty (s : State) (d : Nat) : State :=
  let s := putR s 0x1B0 0x108 (setBits (getR s 0x1B0 0x108) 13 7 d)
  forN 192 (fun k s =>
    if !corePresent s (k / 4) || !pdOn s (k / 4) then s
    else
      let v := decide (d < 64) && (lowEvent s || !runsUrgent s (k / 4))
      if statusBit s (0x040 + k) 3 = v then s else setStatus s (0x040 + k) 3 v) s

/-- The effective cap in 1/20 W: the least of POWER_CAP_W, the ripple cap and the thermal cap (R480, R481, R483). -/
def cap20 (s : State) : Nat := powerCap s * min (20 - 2 * ripK s) (20 - thermJ s)

/-- GONG_PWR.CAP_W and CAPPED follow the cap. -/
def capShow (s : State) : State :=
  let s := putR s 0x1B0 0x104 (setBits (getR s 0x1B0 0x104) 31 16 (cap20 s / 20))
  setStatus s 0x1B0 9 (decide (cap20 s < 20 * powerCap s))

/-- One log entry (Table 20-6). -/
def gongLog (s : State) (kind flags v dur start num pow : Nat) : State :=
  let i := (getR s 0x1B0 0x120).toNat
  let e := leBytes 1 kind ++ leBytes 1 flags ++ leBytes 2 v ++ leBytes 4 dur ++ leBytes 8 start ++ leBytes 2 num ++
    leBytes 2 pow ++ zeros 12
  putR { s with gong := { s.gong with log := tset s.gong.log (i % 256) e } } 0x1B0 0x120 (word (i + 1))

/-- Input power of the last window, W. -/
def lastW (s : State) : Nat := bits (getR s 0x1B0 0x104) 15 0 / 10

/-! ### Sampling (R471) -/

/-- Watts of a product of codes: 25 mV × 5 mA. -/
def codeW (p : Nat) : Nat := p * 125 / 1000000

/-- A run of samples after one more. -/
def runNext (r : SRun) (hit : Bool) (t v : Nat) (pick : Nat → Nat → Nat) (p : Nat) : SRun :=
  if !hit then {}
  else if r.n = 0 then { n := 1, t0 := t, ext := v, pow := codeW p }
  else { r with n := min (r.n + 1) 16, ext := pick r.ext v }

/-- PWR_FAIL_N counts as asserted. -/
def pfOn (s : State) : Bool := bit (getR s 0x1B0 0x110) 0 && decide (2 ≤ s.gong.pf.n)

/-- Late sheds: a low event's input power over 10 µs has not come down to GONG_SHED_W within 50 µs of t0. -/
def shedWatch (s : State) : State :=
  match s.gong.low with
  | none => s
  | some e =>
    if e.shedOk || e.late then s
    else if s.gong.recent.length = 10 && s.gong.recent.sum * 125 ≤ shedW s * 10 * 1000000 then
      { s with gong := { s.gong with low := some { e with shedOk := true } } }
    else if now s ≤ e.t0 + 50 * Config.tUs then s
    else bump { s with gong := { s.gong with low := some { e with late := true } } } 0x1B0 7

/-- One sample of a working module. -/
def gongSample (s : State) (vin iin : Nat) (pfLow : Bool) : State :=
  let g := s.gong
  let sg := sagS s
  let p := vin * iin
  let pf := runNext g.pf pfLow (now s) vin min p
  let asserted := bit (getR s 0x1B0 0x110) 0 && decide (2 ≤ pf.n)
  let g := { g with
    lo := runNext g.lo (decide (vin < sg)) (now s) vin min p, pf := pf,
    fin := runNext g.fin (decide (sg + 20 ≤ vin) && !asserted) (now s) vin max p,
    hi := runNext g.hi (decide (2400 < vin)) (now s) vin max p,
    swFin := runNext g.swFin (decide (vin ≤ 2380)) (now s) vin min p,
    recent := (p :: g.recent).take 10, sumP := g.sumP + p, nP := g.nP + 1,
    ripMin := some (match g.ripMin with
      | some x => min x vin
      | none => vin), ripMax := max g.ripMax vin,
    low := g.low.map (fun (e : LowEv) => { e with
      extreme := min e.extreme vin, below := e.below || decide (vin < sg), deep := e.deep || decide (vin < 800) }),
    swell := g.swell.map (fun (e : LowEv) => { e with extreme := max e.extreme vin }) }
  shedWatch (putR { s with gong := g } 0x1B0 0x100 (word (iin <<< 16 ||| vin)))

/-- GONG_SAMPLE; after a stop the always-on domain watches for good input (R478). -/
def execGongSample (vin iin : Nat) (pfLow : Bool) (s : State) : Host.Outcome State Fault Refusal :=
  .next (
    let v := vin % 4096
    if s.life.phase = .stopped then
      { s with gong := { s.gong with okFrom := if sagS s + 20 ≤ v then some (s.gong.okFrom.getD (now s)) else none } }
    else if !ready s 0x1B0 then s
    else gongSample s v (iin % 4096) pfLow)

/-! ### Low events (R472-R476) -/

/-- Decoders that a low event's floor leaves no power for: those beyond N in ascending order among the present ones
without DISPATCH_HOLD (R475). -/
def shedDecs (s : State) : Nat :=
  let n := min 32 ((shedW s - 55) * 100 / 55)
  (((List.range 32).filter (fun d => decPresent s d && !dispatchHold s (0x100 + d))).drop n).foldl (fun m d => m ||| 2 ^ d) 0

/-- The low event that the runs of samples show, if they show one. -/
def lowFound (s : State) : Option SRun :=
  if pfOn s && 4 ≤ s.gong.lo.n then some (if s.gong.pf.t0 < s.gong.lo.t0 then s.gong.pf else s.gong.lo)
  else if pfOn s then some s.gong.pf
  else if 4 ≤ s.gong.lo.n then some s.gong.lo
  else none

/-- The cut of Table 20-2. -/
def lowStart (s : State) (r : SRun) : State :=
  let ext := if 1 ≤ s.gong.lo.n then min r.ext s.gong.lo.ext else r.ext
  let s := { s with gong := { s.gong with
    low := some { t0 := r.t0, extreme := ext, below := decide (ext < sagS s), deep := decide (ext < 800), power := r.pow },
    fin := {} } }
  let s := setStatus (gongSt s 1) 0x1B0 8 true
  let s := setDuty s 1
  { s with gong := { s.gong with railShed := shedDecs s } }

/-- LOW_EVENT_START. -/
def execLowEventStart (s : State) : Host.Outcome State Fault Refusal :=
  .next (if !ready s 0x1B0 || s.gong.low.isSome || gongState s != 0 then s
    else
      match lowFound s with
      | some r => lowStart s r
      | none => s)

/-- Log entry and counts of a low event that ends or is followed by a stop. -/
def lowLog (s : State) (e : LowEv) (flags until_ : Nat) : State :=
  let kind := if e.deep then 2 else if e.below then 1 else 4
  let s := gongLog s kind (flags ||| 8 * b2n e.late) (e.extreme * 25) (until_ - e.t0) e.t0 0 e.power
  if kind = 1 then bump s 0x1B0 0 else if kind = 2 then bump s 0x1B0 1 else s

/-! ### Power domains (R62, R486-R488) -/

/-- A domain's switch-on is requested: it ramps, or Gong holds it, because STATE is not 0 or the cap does not allow
its inrush (R62, R479). -/
def pdReq (s : State) (n src : Nat) (room : Bool) : State :=
  if pdState s n != 0 || s.gong.pdQueue.any (fun (q : Nat × Nat) => q.1 == n) then s
  else if gongState s = 0 && room then setPd s n 1 src
  else bump { s with gong := { s.gong with pdQueue := s.gong.pdQueue ++ [(n, src)] } } 0x1B1 3

/-- Gong grants switch-ons that it held. -/
def pdGrant (s : State) (ns : List Nat) : State :=
  let go := s.gong.pdQueue.filter (fun (q : Nat × Nat) => ns.contains q.1)
  let s := { s with gong := { s.gong with pdQueue := s.gong.pdQueue.filter (fun (q : Nat × Nat) => !ns.contains q.1) } }
  go.foldl (fun s (q : Nat × Nat) => setPd s q.1 1 q.2) s

/-- A domain that PD_CTRLn switches, with a present unit in it (R488). -/
def pdMaster (s : State) (n : Nat) : Bool :=
  (n ≤ 57 || (65 ≤ n && n ≤ 68)) && !(domPages s n).isEmpty

/-- PD_CTRLn.ON (R487, R488). -/
def pdOnWrite (s : State) (n : Nat) (room : Bool) : State :=
  if !pdMaster s n || s.toc.oos || pdState s n != 0 || !ready s 0x1B0 then bump s 0x1B1 2 else pdReq s n 3 room

/-- PD_ON. -/
def execPdOn (m : Master) (n : Nat) (room : Bool) (s : State) : Host.Outcome State Fault Refusal :=
  .next (if 72 ≤ n then s else guarded m 0x1B1 (0x200 + 4 * n) s (fun s => pdOnWrite s n room))

/-- Every block of a domain that has a page of its own state is QUIESCED or FENCED; an engine follows its core. -/
def pdIdle (s : State) (n : Nat) : Bool :=
  ((domPages s n).filter (fun p => !isEngine p)).all (fun p => (blk s p).st == .quiesced || (blk s p).st == .fenced)

/-- PD_CTRLn.OFF (R488). -/
def pdOffWrite (s : State) (n : Nat) : State :=
  if !pdMaster s n || !pdOn s n || !pdIdle s n then bump s 0x1B1 2 else bump (domainOff s n 3) 0x1B1 1

/-- PD_OFF. -/
def execPdOff (m : Master) (n : Nat) (s : State) : Host.Outcome State Fault Refusal :=
  .next (if 72 ≤ n then s else guarded m 0x1B1 (0x200 + 4 * n) s (fun s => pdOffWrite s n))

/-- PD_SWITCH_ON_COMPLETE: the rail is good, the clock runs and isolation is released; the domain's blocks enter INIT
(R487). -/
def execPdSwitchOnComplete (n : Nat) (s : State) : Host.Outcome State Fault Refusal :=
  .next (if 72 ≤ n || pdState s n != 1 then s
    else
      let s := bump (setPd s n 2 (bits (getR s 0x1B1 (0x100 + 4 * n)) 27 24)) 0x1B1 0
      let s := (domPages s n).foldl (fun s p => if (blk s p).st = .reset && needsMet s p then setSt s p .init else s) s
      if n = 60 then { s with pcie := { s.pcie with link := 1 } } else s)

/-! ### The end of a low event (R476, R479) -/

/-- Requests for a reset that waited; a warm chip reset contains those after it. -/
def waitedRun : List (Nat × Nat × Nat) → State → State
  | [], s => s
  | (l, a, c) :: t, s => if l = 4 then warmDecide s a c else waitedRun t (partDecide s a c)

/-- LOW_EVENT_END, confirmed before t0 + 8 ms: the module is restored. -/
def lowEnd (s : State) (e : LowEv) : State :=
  let s := lowLog s e 1 s.gong.fin.t0
  let w := s.toc.waitRst
  let s := { s with gong := { s.gong with low := none, railShed := 0, lo := {}, lowWin := 0, highWin := 0 },
                    toc := { s.toc with waitRst := [] } }
  let s := setStatus (gongSt s 0) 0x1B0 8 false
  let s := setDuty s 64
  let s := pdGrant s (s.gong.pdQueue.map (fun (q : Nat × Nat) => q.1))
  waitedRun w s

/-! ### The orderly stop (R467, R477) -/

/-- Every context is torn down without a scrub: power is going. -/
def stopCtx (s : State) (n : Nat) : State :=
  let s := if (ctx s n).st.live then startTeardown s n 0x16 false else s
  teardownComplete (updCtx s n (fun c => { c with acked := c.cores })) n

/-- A commit in progress is abandoned: a firmware image half written is invalid (R530, R531). -/
def commitAbandon (s : State) : State :=
  if s.sec.st != .committing then s
  else
    let s := match s.sec.cur with
      | some tag => portResult s .upd tag 9 0
      | none => s
    bump { s with sec := { s.sec with st := .idle, copy := [], staged := none, cur := none, active := 0,
                                      image := imageLeft s.sec, imageInvalid := (imageLeft s.sec).isNone } } 0x002 7

/-- The orderly stop begins: the fence step of Table 20-3. -/
def stopBegin (s : State) (cause : Nat) : State :=
  if 3 ≤ gongState s then s
  else
    let s := goodbyes s (if cause = 3 then 2 else 3)
    let s := match s.gong.low with
      | some e => lowLog s e 2 (now s)
      | none => s
    let s := match s.gong.swell with
      | some e => bump (gongLog s 3 2 (e.extreme * 25) (now s - e.t0) e.t0 0 e.power) 0x1B0 2
      | none => s
    let s := { s with gong := { s.gong with low := none, swell := none, stopCause := cause, stopAt := now s, pdQueue := [] },
                      toc := { s.toc with waitRst := [] } }
    let s := setStatus (setStatus (gongSt s 3) 0x1B0 8 false) 0x1B0 12 true
    let s := setDuty s 1
    let s := putR s 0x1B2 0x100 (setBits (setBits (getR s 0x1B2 0x100) 2 2 1) 1 1 0)
    let s := commitAbandon (bump s 0x1B0 3)
    let s := forN 32 (fun d s => decRequeue s d false) s
    let s := tailsFence (tailsWaiting s) s
    let s := (s.ctxs.map (fun (q : Nat × Ctx) => q.1)).foldl stopCtx s
    portsRefuse s

/-- RIDE_THROUGH_EXPIRY. -/
def execRideThroughExpiry (s : State) : Host.Outcome State Fault Refusal :=
  .next (match s.gong.low with
    | some e => if e.t0 + 8 * Config.tMs ≤ now s then stopBegin s 1 else s
    | none => s)

/-- SWELL_START. -/
def execSwellStart (s : State) : Host.Outcome State Fault Refusal :=
  .next (if !ready s 0x1B0 || s.gong.swell.isSome || 3 ≤ gongState s || s.gong.hi.n < 4 then s
    else
      let e : LowEv := ⟨s.gong.hi.t0, s.gong.hi.ext, false, false, s.gong.hi.pow, false, false⟩
      { s with gong := { s.gong with swFin := {}, swell := some e } })

/-- SWELL_END. -/
def execSwellEnd (s : State) : Host.Outcome State Fault Refusal :=
  .next (match s.gong.swell with
    | some e =>
      if 16 ≤ s.gong.swFin.n && now s < e.t0 + 100 * Config.tMs then
        bump (gongLog { s with gong := { s.gong with swell := none } } 3 0 (e.extreme * 25) (s.gong.swFin.t0 - e.t0) e.t0 0
          e.power) 0x1B0 2
      else s
    | none => s)

/-- SWELL_TIMEOUT. -/
def execSwellTimeout (s : State) : Host.Outcome State Fault Refusal :=
  .next (match s.gong.swell with
    | some e => if e.t0 + 100 * Config.tMs ≤ now s then stopBegin s 2 else s
    | none => s)

/-- SLOT_CTRL.POWER_OFF written 1: accepted once; a second write of 1 has no effect (R467). -/
def slotPowerOff (s : State) : State :=
  if bit (getR s 0x1B2 0x104) 8 || s.life.phase = .stopped then s
  else stopBegin (bump (putRV s 0x1B2 0x104 (setBits (getR s 0x1B2 0x104) 8 8 1)) 0x1B2 1) 3

/-- SLOT_POWER_OFF. -/
def execSlotPowerOff (m : Master) (s : State) : Host.Outcome State Fault Refusal :=
  .next (guarded m 0x1B2 0x104 s slotPowerOff)

/-- The save of R477 in the layout of R489: header, set headers, live slots, counters of every page. -/
def saveBytes (s : State) : State × List Byte :=
  let on := s.sets.filter (fun (q : Nat × TrkSet) => q.2.on)
  let r := on.foldl (fun (a : State × List Byte) (q : Nat × TrkSet) =>
    let u := unitRead a.1 (tSetBlk q.2.recd) 64
    (u.1, a.2 ++ fitBytes 64 u.2.1)) (s, [])
  let live := on.flatMap (fun (q : Nat × TrkSet) =>
    ((List.range (tSlots q.2.recd)).filterMap (fun i => trkRead s q.2.recd i)).flatMap trkBytes)
  let cnts := allPages.flatMap (fun p => (List.range 8).flatMap (fun k => leBytes 4 (tgetD (blk s p).cnt k 0).toNat))
  (r.1, [0x43, 0x58, 0x53, 0x56] ++ leBytes 8 s.gong.stopAt ++ zeros 52 ++ r.2 ++ live ++ cnts)

/-- The outlets are emptied: staged records move, open datagrams leave, rings are signalled. -/
def stopFlush (s : State) : State :=
  let s := s.staging.foldl (fun s (q : Nat × List Byte) => outRecord s q.1 q.2) { s with staging := [], stageAt := none }
  (s.outlets.map (fun (q : Nat × Outlet) => q.1)).foldl (fun s n =>
    if (outlet s n).kind = 1 then outSignal s n
    else if (outlet s n).kind = 2 && !(outlet s n).dgram.isEmpty then dgramSend s n else s) s

/-- The rest of Table 20-3 after the fence: flush, save, log, off. -/
def orderlyStop (s : State) : State :=
  let s := stopFlush s
  let b := saveBytes s
  let can := bit (getR s 0x1B0 0x110) 1 && s.pcie.link == 2
  let w := if can then writeLong (b.2.length / 4096 + 1) b.1 (getR64 s 0x1B0 0x114) b.2 else (s, false)
  let s := w.1
  let last := (List.range 16).filterMap (fun k =>
    let i := (getR s 0x1B0 0x120).toNat
    if i < 16 - k then none else tget s.gong.log ((i - (16 - k)) % 256))
  let s := gongLog s 8 (4 * b2n (!w.2)) 0 (now s - s.gong.stopAt) s.gong.stopAt s.gong.stopCause (lastW s)
  let stop := (tget s.gong.log (((getR s 0x1B0 0x120).toNat - 1) % 256)).toList
  let s := { s with gong := { s.gong with flashLog := s.gong.flashLog ++ stop ++ last, okFrom := none } }
  let s := { s with pcie := { s.pcie with link := if s.gong.stopCause = 3 && 2 ≤ s.pcie.link then 4 else 0 } }
  let s := forN 69 (fun n s => if pdState s n = 0 then s else bump (domainOff s n 2) 0x1B1 1) s
  let s := setStatus (gongSt s 4) 0x1B0 12 false
  let s := putR s 0x1B2 0x100 (setBits (setBits (getR s 0x1B2 0x100) 2 2 0) 3 3 1)
  report { s with life := { s.life with phase := .stopped } } 5 s.gong.stopCause

/-- ORDERLY_STOP: the stop that has begun runs to its end. -/
def execOrderlyStop (s : State) : Host.Outcome State Fault Refusal :=
  .next (if gongState s = 3 then orderlyStop s else s)

/-! ### Cap, ripple, shedding (R480-R482) -/

/-- POWER_WINDOW: P is sumP × 125 µW / nP and the cap is cap20 / 20 W; the end of a 1 ms window; `grants` are held switch-ons that the cap now allows. -/
def powerWindow (s : State) (grants : List Nat) : State :=
  let g := s.gong
  let p := g.sumP * 125 / (g.nP * 100000)
  let past := decide (cap20 s * (g.nP * 1000000) < g.sumP * 125 * 20)
  let under := decide (g.sumP * 125 * 20 * 100 < 95 * (cap20 s * g.nP * 1000000))
  let low9 := decide (g.sumP * 125 * 20 * 10 < 9 * (cap20 s * g.nP * 1000000))
  let d := duty s
  let s := putR s 0x1B0 0x104 (word ((cap20 s / 20) <<< 16 ||| min p 0xFFFF))
  let s := { s with gong := { g with
    sumP := 0, nP := 0, past := past, lowWin := if d ≤ 8 then g.lowWin + 1 else 0,
    highWin := if d = 64 && low9 then g.highWin + 1 else 0 } }
  let s := setDuty s (if past then max 1 (d - 8) else if under then min 64 (d + 1) else d)
  pdGrant s grants

/-- POWER_WINDOW. A low event keeps its own duty (R479). -/
def execPowerWindow (grants : List Nat) (s : State) : Host.Outcome State Fault Refusal :=
  .next (if !ready s 0x1B0 || s.gong.nP = 0 then s
    else if gongState s != 0 then
      putR { s with gong := { s.gong with sumP := 0, nP := 0, lowWin := 0, highWin := 0 } } 0x1B0 0x104
        (word ((cap20 s / 20) <<< 16 ||| min (s.gong.sumP * 125 / (s.gong.nP * 100000)) 0xFFFF))
    else powerWindow s grants)

/-- The ripple step becomes k: logged and counted. -/
def ripSet (s : State) (k : Nat) : State :=
  let s := putR s 0x1B0 0x108 (setBits (getR s 0x1B0 0x108) 27 24 k)
  let s := bump (gongLog s 5 0 k 0 (now s) 0 (lastW s)) 0x1B0 4
  capShow (setStatus s 0x1B0 10 (decide (0 < k)))

/-- RIPPLE_WINDOW. -/
def ripWindow (s : State) (lo : Nat) : State :=
  let pp := (s.gong.ripMax - lo) * 25
  let lim := profF s 0x120 2 1500
  let hi := if lim < pp then s.gong.ripHigh + 1 else 0
  let lw := if pp * 100 < 80 * lim then s.gong.ripLow + 1 else 0
  let s := { s with gong := { s.gong with ripMin := none, ripMax := 0, ripHigh := hi % 3, ripLow := lw % 10 } }
  if hi = 3 && ripK s < 4 then ripSet s (ripK s + 1)
  else if lw = 10 && 0 < ripK s then ripSet s (ripK s - 1)
  else s

/-- RIPPLE_WINDOW: the end of a 100 ms window. -/
def execRippleWindow (s : State) : Host.Outcome State Fault Refusal :=
  .next (if !ready s 0x1B0 then s
    else
      match s.gong.ripMin with
      | some lo => ripWindow s lo
      | none => s)

/-- A class 0 context that is open. -/
def urgentOpen (s : State) (c : Nat) : Bool := (ctx s c).st != .closed && byteAt (ctx s c).recd 0 == 0

/-- A stream is never shed while an open class 0 context is among its consumers. -/
def shedExempt (s : State) (n : Nat) : Bool :=
  ((gate s n).gated && urgentOpen s (leAt (gate s n).recd 0xE 2)) ||
    ((trkSet s n).on && urgentOpen s (leAt (trkSet s n).recd 2 2))

/-- a goes before b in the order of shedding: higher priority number, then RATE_KPIX, then stm. -/
def shedFirst (a b : Nat × Stm) : Bool :=
  if a.2.prio != b.2.prio then decide (b.2.prio < a.2.prio)
  else if leAt a.2.recd 0x10 4 != leAt b.2.recd 0x10 4 then decide (leAt b.2.recd 0x10 4 < leAt a.2.recd 0x10 4)
  else decide (b.1 < a.1)

/-- The stream that is shed next, of those at a level. -/
def shedNext (s : State) (level : Nat) : Option Nat :=
  let l := s.stms.filter (fun (q : Nat × Stm) => q.2.st != 0 && shedLevel s q.1 == level && !shedExempt s q.1)
  (l.find? (fun (a : Nat × Stm) => l.all (fun (b : Nat × Stm) => b.1 == a.1 || shedFirst a b))).map
    (fun (q : Nat × Stm) => q.1)

/-- A stream moves to a shed level: STM_SHED and a log entry. -/
def shedTo (s : State) (n level : Nat) : State :=
  let s := { s with gong := { s.gong with
    shed := if level = 0 then tdel s.gong.shed n else tset s.gong.shed n level, shedAt := now s } }
  gongLog (stmEvent s n 0x0B level (stm s n).frameNo) 7 0 0 0 (now s) n (lastW s)

/-- STREAM_SHED: one stream, 10 ms after the last (R482). -/
def execStreamShed (s : State) : Host.Outcome State Fault Refusal :=
  .next (if gongState s != 0 || s.gong.lowWin < 100 || !s.gong.past || now s < s.gong.shedAt + 10 * Config.tMs then s
    else
      match (shedNext s 0).orElse (fun _ => shedNext s 1) with
      | some n =>
        let s := { s with gong := { s.gong with order := n :: s.gong.order } }
        shedTo s n (shedLevel s n + 1)
      | none => s)

/-- STREAM_RESTORE: one stream, in the reverse order; out of level 2 it waits for a random access point. -/
def execStreamRestore (s : State) : Host.Outcome State Fault Refusal :=
  .next (if gongState s != 0 || s.gong.highWin < 100 || now s < s.gong.shedAt + 100 * Config.tMs then s
    else
      match s.gong.order with
      | [] => s
      | n :: t =>
        let l := shedLevel s n
        let s := { s with gong := { s.gong with order := t } }
        let s := if l = 2 then updStm s n (fun x => { x with st := 1 }) else s
        shedTo s n (l - 1))

/-! ### Heat (R483, R484) -/

/-- The largest of a list, and its first place. -/
def hottest : List Nat → Nat → Nat × Nat → Nat × Nat
  | [], _, b => b
  | x :: t, i, b => hottest t (i + 1) (if b.1 < x then (x, i) else b)

/-- The thermal step becomes j. -/
def thermSet (s : State) (j : Nat) : State :=
  let s := putR s 0x1B0 0x108 (setBits (getR s 0x1B0 0x108) 23 20 j)
  let s := bump (gongLog s 6 0 j 0 (now s) 0 (lastW s)) 0x1B0 5
  capShow (setStatus s 0x1B0 11 (decide (0 < j)))

/-- THERMAL_SAMPLE: the sensors of 1 ms. -/
def thermalSample (s : State) (dies : List Nat) (conv : Nat) : State :=
  let h := hottest (dies.take 12) 0 (0, 0)
  let mem := (s.chans.map (fun (q : Nat × Chan) => q.2.temp)).foldl max 0
  let s := putR s 0x1B0 0x11C (word (min h.1 255 <<< 24 ||| h.2 <<< 16 ||| min mem 255 <<< 8 ||| min conv 255))
  let hot := decide (95 ≤ h.1 ∨ 95 ≤ mem)
  let cool := decide (h.1 < 90 ∧ mem < 90)
  let hm := if hot then s.gong.hotMs + 1 else 0
  let cm := if cool then s.gong.coolMs + 1 else 0
  let lm := if 105 ≤ h.1 then s.gong.limitMs + 1 else 0
  let s := { s with gong := { s.gong with hotMs := hm % 10, coolMs := cm % 100, limitMs := lm } }
  let s := if hm = 10 && thermJ s < 12 then thermSet s (thermJ s + 1)
    else if cm = 100 && 0 < thermJ s then thermSet s (thermJ s - 1) else s
  if 1000 ≤ lm then stopBegin s 4 else s

/-- THERMAL_SAMPLE. -/
def execThermalSample (dies : List Nat) (conv : Nat) (s : State) : Host.Outcome State Fault Refusal :=
  .next (if ready s 0x1B0 then thermalSample s dies conv else s)

end Sys2Proof.Machine
end

