-- ==== Sys2Proof/Machine/Boot.lean ====
section
/-!
DEFINITION. Machine/Boot.lean: what verifies a firmware image, a bundle and a profile record (R71, R516, R522-R526), and
the resets from power and PERST_N (R57-R60, R478, R484, R505, R553).
-/
namespace Sys2Proof.Machine

/-! ### Bundles (R522) -/

/-- A component entry of a bundle's bytes. -/
def compAt (l : List Byte) (i : Nat) : Comp :=
  let o := 0x80 + 96 * i
  { ty := leAt l o 2, index := leAt l (o + 2) 2, version := leAt l (o + 4) 4 % 2 ^ 24, digest := leAt l (o + 16) 64,
    payload := (l.drop (leAt l (o + 8) 4)).take (leAt l (o + 12) 4) }

/-- The ranges of a component entry: its TYPE and INDEX for the KIND, 64 B alignment, its zero bytes. -/
def compOk (l : List Byte) (i : Nat) : Bool :=
  let o := 0x80 + 96 * i
  let t := leAt l o 2
  (if byteAt l 6 = 0 then decide (1 ≤ t ∧ t ≤ 5) else t == 7 || t == 6 && decide (leAt l (o + 2) 2 < 4)) &&
    leAt l (o + 8) 4 % 64 == 0 && zeroAt l (o + 80) 16

/-- MAGIC, FORMAT, the field ranges and the zero bytes of a bundle header (Table 22-4). -/
def bundleFields (l : List Byte) : Bool :=
  let n := byteAt l 7
  l.take 4 == [0x43, 0x58, 0x4C, 0x5A] && leAt l 4 2 == 1 && decide (byteAt l 6 ≤ 1) && decide (1 ≤ n ∧ n ≤ 32) &&
    (byteAt l 6 == 0 || leAt l 8 4 == 0) && decide (leAt l 0xC 4 ≤ (if byteAt l 6 = 0 then 0x200000 else 0x10000)) &&
    [0x0960, 0x0932, 0xFFFF].contains (leAt l 0x10 2) && zeroAt l 0x12 46 && (List.range n).all (compOk l) &&
    zeroAt l (0x80 + 96 * n) (96 * (32 - n)) && zeroAt l 0x28B3 77

/-- Every component lies within BUNDLE_BYTES. -/
def compsInside (l : List Byte) : Bool :=
  (List.range (byteAt l 7)).all (fun i => decide (leAt l (0x80 + 96 * i + 8) 4 + leAt l (0x80 + 96 * i + 12) 4 ≤ leAt l 0xC 4))

/-- A bundle's bytes with the verdicts on its signature and digests. -/
def parseBundle (l : List Byte) (f : SigFact) : Bundle :=
  { kind := byteAt l 6, svn := leAt l 8 4, targetPart := leAt l 0x10 2, bytes := leAt l 0xC 4,
    comps := (List.range (byteAt l 7)).map (compAt l), signer := f.signer,
    fieldsOk := bundleFields l, sigOk := f.sigOk,
    digestsOk := f.digestsOk && compsInside l && decide (leAt l 0xC 4 ≤ l.length),
    digest := f.digest, header := l.take 128, profSigs := f.profs }

/-- TARGET_PART covers PART_ID.PART. -/
def partFits (s : State) (b : Bundle) : Bool := b.targetPart == 0xFFFF || b.targetPart == s.part.code

/-- A replay-protected counter (R524). -/
def secCtr (s : State) (k : Nat) : Nat := if s.sec.ctrRefused then 0xFFFFFFFF else tgetD s.sec.ctrs k 0

/-- No two components share TYPE and INDEX. -/
def compsDistinct : List Comp → Bool
  | [] => true
  | c :: t => t.all (fun d => d.ty != c.ty || d.index != c.index) && compsDistinct t

/-- A KIND 0 bundle carries exactly one component of each TYPE 1 to 5 (R523). -/
def wholeImage (b : Bundle) : Bool := [1, 2, 3, 4, 5].all (fun t => (b.comps.filter (fun c => c.ty == t)).length == 1)

/-- Steps 2 to 4 of R522 for an expected signer. -/
def bundleSigned (b : Bundle) (signer : Nat) : Bool :=
  b.signer == signer && b.signer == leAt b.header 0x40 64 && b.sigOk && b.digestsOk

/-- The boot ROM's checks of the flash image (R516). -/
def imageGood (s : State) (b : Bundle) : Bool :=
  b.kind == 0 && b.fieldsOk && bundleSigned b Config.olinanKey.toNat && compsDistinct b.comps && wholeImage b &&
    decide (secCtr s 0 ≤ b.svn) && partFits s b

/-! ### Profile records (R71) -/

/-- Every field of a profile record is within its range and every reserved byte is 0 (Table 03-8). -/
def profFields (r : List Byte) (slot : Nat) : Bool :=
  r.take 4 == [0x43, 0x58, 0x50, 0x46] && leAt r 4 2 == 1 && byteAt r 6 == slot && byteAt r 7 == 0 &&
    leAt r 0xC 4 == 1024 && zeroAt r 0x50 176 && inR (leAt r 0x100 2) 60 330 && [12, 16, 24].contains (byteAt r 0x102) &&
    inR (byteAt r 0x103) 1 15 && inR (leAt r 0x104 2) 1 1024 && inR (leAt r 0x106 2) 1 4096 && inR (leAt r 0x108 4) 1 16000 &&
    inR (leAt r 0x10C 2) 1 4095 && inR (byteAt r 0x10E) 5 64 && inR (byteAt r 0x10F) 1 16 &&
    inR (leAt r 0x110 2) 0 65534 && inR (leAt r 0x112 2) 0 254 && inR (byteAt r 0x114) 0 1 && inR (byteAt r 0x115) 1 15 &&
    zeroAt r 0x116 2 && inR (leAt r 0x118 2) 0 1439 && inR (leAt r 0x11A 2) 0 1440 &&
    decide (-840 ≤ sext 16 (leAt r 0x11C 2) ∧ sext 16 (leAt r 0x11C 2) ≤ 840) && inR (leAt r 0x11E 2) 40000 44000 &&
    inR (leAt r 0x120 2) 100 4000 && inR (leAt r 0x122 2) 60 120 && inR (leAt r 0x124 4) 60 86400 && zeroAt r 0x128 88 &&
    (List.range 8).all (fun k => decide (leAt r (0x180 + 32 * k + 6) 2 ≤ 4094)) && zeroAt r 0x280 640

/-- The record of a profile slot when it is valid under the enrolled owner key. -/
def profOf (s : State) (slot : Nat) : Option (List Byte) :=
  match s.sec.owner, tget s.sec.profs slot with
  | some o, some p =>
    if profFields p.bytes slot && p.sigOk && p.signer == o.keyHash && leAt p.bytes 0x10 64 == o.keyHash &&
        secCtr s (1 + slot) ≤ leAt p.bytes 8 4 then some p.bytes else none
  | _, _ => none

/-- Verifies a slot, and keeps the verdict in VALID_MASK. -/
def profVerify (s : State) (slot : Nat) : State × Option (List Byte) :=
  let r := profOf s slot
  let m := s.life.validMask
  let m := if r.isSome then m ||| 2 ^ slot else m - (m &&& 2 ^ slot)
  ({ s with life := { s.life with validMask := m } }, r)

/-! ### Boot (R60, R516-R518) -/

/-- Pages of the blocks that run a component (R517; log 46). -/
def compPages (t : Nat) : List Nat :=
  if t = 1 then [0x190, 0x1D0]
  else if t = 2 then (List.range 32).map (0x100 + ·)
  else if t = 3 then [0x120, 0x121]
  else if t = 4 then (List.range 32).map (0x140 + ·)
  else if t = 5 then [0x1C0]
  else []

/-- CODE_REV of every block follows the component it runs. -/
def codeRevs (s : State) : State :=
  s.sec.running.foldl (fun s (q : Nat × Comp) => (compPages q.1).foldl (fun s p =>
    if pagePresent s p then setBlk s p { blk s p with codeRev := q.2.version } else s) s) s

/-- The components of an image, by TYPE. -/
def imageComps (b : Bundle) : Tbl Comp := b.comps.foldl (fun t c => tset t c.ty c) []

/-- Image verification: READY_MAP bit 0, or FAILED and the recovery responder (R60, R533). -/
def bootSec (s : State) (pufOk : Bool) : State :=
  let good := match s.sec.image with
    | some b => pufOk && !s.sec.ctrRefused && imageGood s b
    | none => false
  let sec : Sec := { image := s.sec.image, owner := s.sec.owner, profs := s.sec.profs, ctrs := s.sec.ctrs,
                     ctrRefused := s.sec.ctrRefused, wpLow := s.sec.wpLow }
  let was := s.life.secReady
  if good then
    let s := { s with sec := { sec with booted := s.sec.image, running := (s.sec.image.map imageComps).getD [] },
                      life := { s.life with secReady := true, recovery := false } }
    readyEdge (setSt s 0x1C0 .run) was true
  else
    let s := { s with sec := { sec with imageInvalid := true },
                      life := { s.life with secReady := false, recovery := true } }
    report (readyEdge (setSt s 0x1C0 .failed) was false) 6 0

/-! ### Power (R58, R478, R484, R553) -/

/-- What outlasts a loss of every rail: the flash, and the world outside. -/
def coldOff (s : State) (ph : Phase) : State :=
  { pending := s.pending, part := s.part, pcieMem := s.pcieMem, out := s.out, free := s.free,
    life := { phase := ph, refclk := s.life.refclk },
    sec := { image := imageLeft s.sec, owner := s.sec.owner, profs := s.sec.profs, ctrs := s.sec.ctrs },
    toc := { oos := s.toc.oos }, gong := { flashLog := s.gong.flashLog, trip := s.gong.trip } }

/-- The always-on, security and management domains are on, and their blocks run. -/
def baseOn (s : State) : State :=
  let s := setPd (setPd (setPd s 69 2 0) 70 2 0) 71 2 0
  [0x000, 0x001, 0x002, 0x003, 0x004, 0x1B2].foldl (fun s p => setSt s p .run) s

/-- A power-on reset through phase A, with its RESET_CAUSE. -/
def powerOn (s : State) (cause : Nat) (f : BootFact) : State :=
  let s := baseOn (coldOff s .waitPerst)
  let s := { s with sec := { s.sec with ctrRefused := f.ctrRefused, wpLow := f.wpLow },
                    gong := { s.gong with trip := false } }
  let s := putR s 0x004 0x100 (word cause)
  bootSec s f.pufOk

/-- POWER_ON_RESET: only while the always-on domain is unpowered. -/
def execPowerOnReset (f : BootFact) (s : State) : Host.Outcome State Fault Refusal :=
  .next (if s.life.phase = .off then powerOn s (if s.gong.trip then 6 else 1) f else s)

/-- SUPPLY_RESTART: after a stop caused by supply, 100 ms of good input (R478). -/
def execSupplyRestart (f : BootFact) (s : State) : Host.Outcome State Fault Refusal :=
  .next (match s.gong.okFrom with
    | some t =>
      if s.life.phase = .stopped && s.gong.stopCause ≤ 2 && t + 100 * Config.tMs ≤ now s then powerOn s 7 f else s
    | none => s)

/-- HOLD_UP_COLLAPSE: the always-on domain loses power (R470). -/
def execHoldUpCollapse (s : State) : Host.Outcome State Fault Refusal :=
  .next (if s.life.phase = .off then s else coldOff s .off)

/-- THERMAL_TRIP: a die sensor at 115 °C or more; power goes from every domain but always-on (R484). -/
def execThermalTrip (die : Nat) (s : State) : Host.Outcome State Fault Refusal :=
  .next (if die < 115 || s.life.phase = .off || s.life.phase = .railOff || s.life.phase = .tripped then s
    else
      let s := coldOff s .tripped
      report { s with gong := { s.gong with trip := true } } 4 0)

/-- RAIL_FAULT: every rail but VDD_AON and VIO goes (R553). -/
def execRailFault (s : State) : Host.Outcome State Fault Refusal :=
  .next (if s.life.phase = .off || s.life.phase = .railOff || s.life.phase = .tripped then s
    else
      let s := coldOff s .railOff
      report { s with gong := { s.gong with rail := true } } 3 0)

/-! ### PERST_N (R57, R59, R505) -/

/-- Registers that PERST_N keeps: the always-on, security and management domains, TOC_LOG_PROD and PCIE_PME_CFG. -/
def perstKeeps (key : Nat) : Bool :=
  let p := key / 0x10000
  p ≤ 0x00F || p = 0x1B2 || p = 0x1C0 || key == rkey 0x1A0 0x100 || key == rkey 0x180 0x110

/-- PERST_N resets everything but the always-on, security and management domains. -/
def perstDo (s : State) : State :=
  let cold := s.pcie.turnOff && s.pcie.link == 4
  let keep := { s.sec with image := imageLeft s.sec }
  let t : State :=
    { pending := s.pending, part := s.part,
      regs := s.regs.filter (fun q => perstKeeps q.1), rvs := s.rvs.filter (fun q => perstKeeps q.1),
      blks := (s.blks.filter (fun q => perstKeeps (rkey q.1 0))).map (fun q => (q.1, { q.2 with cnt := [] })),
      life := { s.life with phase := .waitPerst, trained := [], profile := none, source := 0, index := 0,
                            switchTo := none, groups := 0, leap := 0 },
      pcieMem := s.pcieMem, toc := { log := s.toc.log, oos := s.toc.oos },
      gong := { flashLog := s.gong.flashLog }, sec := keep, out := s.out, free := s.free,
      pcie := { d3cold := cold, wake := s.pcie.wake, pmeEn := cold && s.pcie.pmeEn, pmeStatus := cold && s.pcie.pmeStatus } }
  let t := putR (switchStop (baseOn t)) 0x004 0x100 2
  let t := putR t 0x1B2 0x100 (setBits (getR t 0x1B2 0x100) 3 1 1)
  let t := putRV t 0x1B2 0x104 (setBits (getR t 0x1B2 0x104) 8 8 0)
  let t := updBlk t 0x001 (fun b => { b with status := 0 })
  bootSec t true

/-- PERST_N_ASSERT: held low for at least 1 µs. -/
def execPerstNAssert (s : State) : Host.Outcome State Fault Refusal :=
  .next (if s.life.phase = .up || s.life.phase = .waitB || s.life.phase = .stopped then perstDo s else s)

end Sys2Proof.Machine
end

