-- ==== Sys2Proof/Machine/Peal.lean ====
section
/-!
DEFINITION. Machine/Peal.lean: peers, stream migration and track handoff (R538-R545), and the access unit that ingest has
written (R98, R542). The spec names the fields of each message body and not their places: log 48.
-/
namespace Sys2Proof.Machine

/-! ### Messages -/

/-- HELLO: serial number, PART_ID, digest of the running TYPE 2 component. -/
def helloBody (s : State) : List Byte :=
  leBytes 8 Config.serial.toNat ++ leBytes 4 (partId s) ++
    (match tget s.sec.running 2 with
     | some c => (leBytes 64 c.digest).take 32
     | none => zeros 32)

/-- Live tracks of a set. -/
def liveTracks (s : State) (n : Nat) : List Trk :=
  let r := (trkSet s n).recd
  if (trkSet s n).on then (List.range (tSlots r)).filterMap (trkRead s r) else []

/-- Bytes of a migration package: decoder state, set header, live slots, embeddings. -/
def pkgBytes (s : State) (n : Nat) : Nat :=
  let k := (liveTracks s n).length
  0x10000 + 64 + 128 * k + 2 * k * tEmb (trkSet s n).recd

/-- OFFER. -/
def offerBody (s : State) (g : MigOut) : List Byte :=
  let x := stm s g.stm
  leBytes 2 g.stm ++ leBytes 2 g.dst ++ leBytes 1 (byteAt x.recd 0) ++ leBytes 1 x.depth ++ leBytes 2 x.maxW ++
    leBytes 2 x.maxH ++ leBytes 1 x.maxDpb ++ zeros 1 ++ leBytes 2 (liveTracks s g.stm).length ++
    leBytes 2 (tEmb (trkSet s g.stm).recd) ++ leBytes 4 (pkgBytes s g.stm)

/-- The next waiting MIGRATE is taken: OFFER (R541). -/
def migNext (s : State) : State :=
  match s.peal.migOut, s.peal.migQ with
  | none, (n, m, d, tag) :: t =>
    let s := { s with peal := { s.peal with migQ := t } }
    if (stm s n).st = 0 then portResult s .peal tag 5 0
    else if (peer s m).st != 1 then bump (portResult s .peal tag 0xC 8) 0x1E0 3
    else
      let g : MigOut := { stm := n, peer := m, dst := d, tag := tag }
      peerSend { s with peal := { s.peal with migOut := some g } } m 3 (offerBody s g)
  | _, _ => s

/-- A stream whose destination is lost goes on from the next random access point, with its tracks (R543). -/
def streamResume (s : State) (n : Nat) : State :=
  let x := stm s n
  let s := setStm s n { x with st := 1, dpb := [], migHold := false, started := false }
  x.dpb.foldl (fun s p => relBlock (if p.map = 0 then s else relBlock s p.map 2 n) p.blk 2 n) s

/-- This side's outbound migration ends ABORTED because of the other side. -/
def migOutLost (s : State) (reason : Nat) : State :=
  match s.peal.migOut with
  | none => s
  | some g =>
    let s := { s with peal := { s.peal with migOut := none } }
    let s := bump (portResult s .peal g.tag 0xC reason) 0x1E0 3
    migNext (if g.phase < 4 then updStm s g.stm (fun x => { x with migHold := false }) else streamResume s g.stm)

/-- This side's inbound migration ends because of the other side: before adoption its landing blocks are released;
after it the stream goes on and waits for its own flow. -/
def migInLost (s : State) : State :=
  match s.peal.migIn with
  | none => s
  | some g =>
    let s := { s with peal := { s.peal with migIn := none } }
    let s := relBlock s g.pkg 2 g.stm
    bump (if g.phase = 0 then g.refs.foldl (fun s b => relBlock s b 2 g.stm) s else s) 0x1E0 3

/-- A peer has left UP (R543, reason 8). -/
def peerLost (s : State) (m : Nat) : State :=
  let s := match s.peal.handoff with
    | some (p, tag) => if p = m then portResult { s with peal := { s.peal with handoff := none } } .peal tag 0xC 8 else s
    | none => s
  let s := if s.peal.migOut.any (fun g => g.peer == m) then migOutLost s 8 else s
  if s.peal.migIn.any (fun g => g.peer == m) then migInLost s else s

/-- A peer enters a state. -/
def peerSt (s : State) (m st : Nat) : State :=
  let was := (peer s m).st
  let s := updPeer s m (fun x => { x with st := st, sent := x.sent && st == 1, got := x.got && st == 1 })
  if was = 1 && st != 1 then peerLost s m else s

/-! ### Peers (R538, R540) -/

/-- A BAR2 slot is enabled and maps a range. -/
def slotCovers (s : State) (i a n : Nat) : Bool :=
  let cfg := getR s 0x181 (0x1008 + 16 * i)
  let b := xltBase s i
  bit cfg 31 && decide (b ≤ a ∧ a + n ≤ b + bits cfg 12 0 * 0x10000)

/-- The inbox and the landing slot are set (R538). -/
def pealReady (s : State) (v : Word) : Bool :=
  bit (getR s 0x181 (0x1008 + 16 * 254)) 31 && bit (getR s 0x181 (0x1008 + 16 * 255)) 31 &&
    (match pool s (bits v 5 0) with
     | some p => slotCovers s 255 p.base (p.nblocks * p.bsize)
     | none => true)

/-- A write of PEAL_CFG: EN = 1 without both slots is dropped; EN going to 0 says GOODBYE. -/
def pealCfgWrite (s : State) (v : Word) : State :=
  if bit v 31 && !pealReady s v then s
  else
    let s := if pealEn s && !bit v 31 then goodbyes s 4 else s
    putRV s 0x1E0 0x100 (v &&& 0x8000003F#32)

/-- PEAL_CFG_WRITE. -/
def execPealCfgWrite (m : Master) (v : Word) (s : State) : Host.Outcome State Fault Refusal :=
  .next (guarded m 0x1E0 0x100 s (fun s => pealCfgWrite s v))

/-- A write of PEER_CFG: one for the own MOD_ID is dropped; EN = 0 makes the peer DOWN. -/
def peerCfgWrite (s : State) (m : Nat) (v : Word) : State :=
  if m = s.life.modId then s
  else
    let s := putRV s 0x1E0 (0x208 + 16 * m) (v &&& 0x80000000#32)
    if bit v 31 then s else peerSt s m 0

/-- PEAL_HEARTBEAT: the timebase goes to every peer in use, waiting messages go, and a waiting MIGRATE is taken. -/
def execPealHeartbeat (s : State) : Host.Outcome State Fault Refusal :=
  .next (if !ready s 0x1E0 || !pealEn s then s
    else migNext (forN 16 (fun m s =>
      if peerEn s m then
        peerFlush (peerPut s m (inboxWin + 0x10800 + 64 * s.life.modId) (leBytes 8 (now s))) m ((peer s m).waitQ.length)
      else s) s))

/-- Both HELLOs are exchanged: the peer is UP. -/
def helloBoth (s : State) (m : Nat) : State :=
  if (peer s m).st = 0 && (peer s m).sent && (peer s m).got then updPeer s m (fun x => { x with st := 1, hbAt := now s })
  else s

/-- PEER_HB_CHANGE: the peer's heartbeat word in the inbox has changed. -/
def execPeerHbChange (p : Nat) (s : State) : Host.Outcome State Fault Refusal :=
  .next (
    let hb := rdLe s (inbox s + 0x10800 + 64 * p) 8
    if !peerEn s p || hb = (peer s p).hb then s
    else
      let s := updPeer s p (fun x => { x with hb := hb, hbAt := now s })
      let st := (peer s p).st
      if st = 0 then
        if (peer s p).sent then s else helloBoth (updPeer (peerSend s p 1 (helloBody s)) p (fun x => { x with sent := true })) p
      else if st = 2 || st = 3 then peerSt s p 0
      else s)

/-- PEER_SILENT_TIMEOUT. -/
def execPeerSilentTimeout (p : Nat) (s : State) : Host.Outcome State Fault Refusal :=
  .next (if ready s 0x1E0 && (peer s p).st = 1 && (peer s p).hbAt + 10 * Config.tMs ≤ now s then peerSt s p 2 else s)

/-! ### The destination of a migration (R541, R542) -/

/-- Slots of a set that are free. -/
def freeSlots (s : State) (n : Nat) : List Nat :=
  let r := (trkSet s n).recd
  (List.range (tSlots r)).filter (fun i => (trkRead s r i).isNone)

/-- Why an OFFER is refused, 0 when it is not (Table 23-5). -/
def offerBad (s : State) (m : Nat) (b : List Byte) : Nat :=
  let src := leAt b 0 2
  let d := leAt b 2 2
  let x := stm s d
  if s.peal.migIn.isSome then 6
  else if tget s.peal.expect d != some (m, src) then 1
  else if x.st = 0 || byteAt x.recd 0 != byteAt b 4 || x.depth < byteAt b 5 || x.maxW < leAt b 6 2 || x.maxH < leAt b 8 2 ||
      x.maxDpb < byteAt b 10 || !s.flows.any (fun (q : Nat × Flow) => q.2.st != 0 && q.2.stmNo == d) then 2
  else if !(trkSet s d).on && leAt b 12 2 != 0 || (trkSet s d).on && (tEmb (trkSet s d).recd != leAt b 14 2 ||
      (freeSlots s d).length < leAt b 12 2) then 3
  else if (peer s m).digest != (helloBody s).drop 12 then 4
  else 0

/-- OFFER: ACCEPT with the landing blocks, or REFUSE. -/
def onOffer (s : State) (m : Nat) (b : List Byte) : State :=
  let pair := leBytes 2 (leAt b 0 2) ++ leBytes 2 (leAt b 2 2)
  let d := leAt b 2 2
  let c := offerBad s m b
  if c != 0 then peerSend s m 5 (pair ++ leBytes 1 c)
  else
    let r := ketAlloc s (bits (getR s 0x1E0 0x100) 5 0) 2 d 2 (1 + byteAt b 10)
    match r.2 with
    | .ok (pkg :: refs) =>
      let s := { r.1 with peal := { r.1.peal with migIn := some { stm := d, peer := m, src := leAt b 0 2, pkg := pkg, refs := refs } } }
      peerSend s m 4 (pair ++ leBytes 2 (landOfs s pkg) ++ leBytes 1 refs.length ++ zeros 1 ++
        refs.flatMap (fun a => leBytes 2 (landOfs s a)))
    | _ => peerSend r.1 m 5 (pair ++ leBytes 1 5)

/-- One picture of the decoder state area (log 48). -/
def picArea (p : Pic) : List Byte :=
  leBytes 4 p.frameNo ++ leBytes 1 (b2n p.isRef + 2 * b2n p.dmg + 4 * b2n p.taint + 8 * b2n p.staleRef + 16 * b2n p.isAlias) ++
    leBytes 1 p.src ++ zeros 2 ++ leBytes 8 p.stamp ++ leBytes 2 p.w ++ leBytes 2 p.h ++ leBytes 2 p.cw ++ leBytes 2 p.ch

/-- The decoder state area: 64 KiB. -/
def stateArea (x : Stm) : List Byte :=
  fitBytes 0x10000 (leBytes 1 x.dpb.length ++ leBytes 1 (b2n x.started) ++ leBytes 2 x.curW ++ leBytes 2 x.curH ++ zeros 2 ++
    leBytes 4 x.frameNo ++ zeros 4 ++ x.dpb.flatMap picArea)

/-- A picture read back from a decoder state area, landed in a block. -/
def picOf (a : List Byte) (k blk : Nat) : Pic :=
  let e := (a.drop (16 + 24 * k)).take 24
  let f := byteAt e 4
  { frameNo := leAt e 0 4, blk := blk, map := 0, isRef := f.testBit 0, dmg := f.testBit 1, taint := f.testBit 2,
    staleRef := f.testBit 3, isAlias := f.testBit 4, src := byteAt e 5, stamp := leAt e 8 8, w := leAt e 16 2, h := leAt e 18 2,
    cw := leAt e 20 2, ch := leAt e 22 2 }

/-- Tracks of a package take the lowest free slots with their TRACK_IDs. -/
def adoptTracks (s : State) (d : Nat) (pk : Nat) (n : Nat) : State :=
  let r := (trkSet s d).recd
  let e := 2 * tEmb r
  (((freeSlots s d).zip (List.range n))).foldl (fun s (q : Nat × Nat) =>
    let b := rdMem s (pk + 0x10040 + 128 * q.2) 128
    let s := (unitWrite s (slotAt s r q.1) b).1
    if e = 0 then s else (unitWrite s (embAt r q.1) (rdMem s (pk + 0x10040 + 128 * n + e * q.2) e)).1) s

/-- STATE_DONE: the stream takes the state, and what landing blocks it does not need is named to the source for
forwarded access units. -/
def onStateDone (s : State) (m : Nat) (b : List Byte) : State :=
  match s.peal.migIn with
  | none => s
  | some g =>
    if g.peer != m || g.phase != 0 then s
    else
      let a := rdMem s g.pkg 0x400
      let n := byteAt a 0
      let old := (stm s g.stm).dpb
      let s := old.foldl (fun s p => relBlock (if p.map = 0 then s else relBlock s p.map 2 g.stm) p.blk 2 g.stm) s
      let pics := ((List.range n).zip g.refs).map (fun (q : Nat × Nat) => picOf a q.1 q.2)
      let s := updStm s g.stm (fun x => { x with
        st := 2, dpb := pics, started := bit (word (byteAt a 1)) 0, curW := leAt a 2 2, curH := leAt a 4 2, frameNo := leAt a 8 4 })
      let s := if (trkSet s g.stm).on then
          updSet (adoptTracks s g.stm g.pkg (leAt b 18 2)) g.stm (fun t => { t with nextId := max t.nextId (leAt b 12 4) })
        else s
      let spare := g.pkg :: g.refs.drop n
      let s := { s with peal := { s.peal with
        migIn := some { g with phase := 1, refs := g.refs.take n, lastStamp := leAt b 4 8 },
        expect := tdel s.peal.expect g.stm } }
      peerSend s m 7 (leBytes 2 g.src ++ leBytes 2 g.stm ++ leBytes 1 spare.length ++ zeros 1 ++
        spare.flatMap (fun p => leBytes 2 (landOfs s p)))

/-- AU: the access unit enters the stream's decode queue (R114). -/
def onAu (s : State) (m : Nat) (b : List Byte) : State :=
  match s.peal.migIn with
  | none => s
  | some g =>
    if g.peer != m || g.phase = 0 then s
    else
      let a := landing s + 0x10000 * leAt b 0 4
      let st := leAt b 8 8
      let s := { s with peal := { s.peal with migIn := some { g with lastStamp := st } } }
      auQueue s g.stm { addr := a, len := leAt b 4 4, stamp := st, entry := now s, block := a, landed := true }

/-- CUTOVER: the migration is complete here. -/
def onCutover (s : State) (m : Nat) : State :=
  match s.peal.migIn with
  | none => s
  | some g =>
    if g.peer != m || g.phase = 0 then s
    else
      let s := { s with peal := { s.peal with migIn := none } }
      if ((stm s g.stm).queue.any (fun a => a.landed && a.block == g.pkg)) then s else relBlock s g.pkg 2 g.stm

/-! ### The source of a migration -/

/-- ACCEPT: the stream freezes. -/
def onAccept (s : State) (m : Nat) (b : List Byte) : State :=
  match s.peal.migOut with
  | none => s
  | some g =>
    if g.peer != m || g.phase != 0 || g.stm != leAt b 0 2 then s
    else
      let refs := (List.range (byteAt b 6)).map (fun k => leAt b (8 + 2 * k) 2)
      updStm { s with peal := { s.peal with migOut := some { g with phase := 1, pkg := leAt b 4 2, refs := refs } } } g.stm
        (fun x => { x with migHold := true })

/-- REFUSE. -/
def onRefuse (s : State) (m : Nat) (b : List Byte) : State :=
  match s.peal.migOut with
  | none => s
  | some g => if g.peer = m && g.phase = 0 then migOutLost s (byteAt b 4) else s

/-- Forwards waiting access units of the stream while landing blocks are free (R542). -/
def fwdPump (s : State) : Nat → State
  | 0 => s
  | k + 1 =>
    match s.peal.migOut with
    | none => s
    | some g =>
      match g.lands, (stm s g.stm).queue with
      | l :: ls, a :: rest =>
        if g.phase != 4 then s
        else
          let r := rdGddr s 0 a.addr a.len
          let s := peerPut r.1 g.peer (landWin + 0x10000 * l) r.2.1
          let s := { s with peal := { s.peal with migOut := some { g with lands := ls } } }
          let s := peerSend s g.peer 8 (leBytes 4 l ++ leBytes 4 a.len ++ leBytes 8 a.stamp)
          let s := auRelease (updStm s g.stm (fun x => { x with queue := rest, consumed := satInc x.consumed })) g.stm a
          fwdPump s k
      | _, _ => s

/-- ADOPTED: forwarding begins. -/
def onAdopted (s : State) (m : Nat) (b : List Byte) : State :=
  match s.peal.migOut with
  | none => s
  | some g =>
    if g.peer != m || g.phase != 3 then s
    else
      let ls := (List.range (byteAt b 4)).map (fun k => leAt b (6 + 2 * k) 2)
      fwdPump { s with peal := { s.peal with migOut := some { g with phase := 4, lands := ls } } } 16

/-- FREE: a landing block can take another access unit. -/
def onFree (s : State) (m : Nat) (b : List Byte) : State :=
  match s.peal.migOut with
  | none => s
  | some g =>
    if g.peer != m then s
    else fwdPump { s with peal := { s.peal with migOut := some { g with lands := g.lands ++ [leAt b 0 4] } } } 16

/-- Every live track frees its slot with a MIGRATED record (Table 15-5). -/
def tracksMigrated (s : State) (n : Nat) : State :=
  let x := trkSet s n
  (liveTracks s n).foldl (fun s t =>
    trkWrite (setRecord s n x.recd 2 (trackRec n x.lastFrame x.lastStamp 0 { t with ev := 5 })) x.recd { t with st := 0 }) s

/-- SOURCE_LIVE: forwarding stops, CUTOVER, and the source stream closes. -/
def onSourceLive (s : State) (m : Nat) : State :=
  match s.peal.migOut with
  | none => s
  | some g =>
    if g.peer != m || g.phase != 4 then s
    else
      let s := peerSend { s with peal := { s.peal with migOut := none } } m 10 (leBytes 2 g.stm ++ leBytes 2 g.dst)
      let s := clearFaults (stmClear (tracksMigrated s g.stm) g.stm true) 1 g.stm
      migNext (bump (portResult s .peal g.tag 1 0) 0x1E0 2)

/-- A registered frame of the set has still to get its track update: it needs no later frame for that (R360, R541). -/
def trkDue (s : State) (n : Nat) : Bool :=
  let t := trkSet s n
  t.on && t.ents.any (fun e => decide (e.seq + 1 + t.reorder ≤ t.passed) || (stm s n).queue.isEmpty)

/-- MIGRATION_PUSH_COMPLETE: the frozen stream's package and pictures are written, and STATE_DONE follows. A low event
holds the push. -/
def execMigrationPushComplete (s : State) : Host.Outcome State Fault Refusal :=
  .next (match s.peal.migOut with
    | none => s
    | some g =>
      let x := stm s g.stm
      let t := trkSet s g.stm
      if g.phase != 1 || x.dec.isSome || t.busy.isSome || trkDue s g.stm || gongState s != 0 || !ready s 0x1E0 then s
      else
        let ts := liveTracks s g.stm
        let hd := if t.on then rdMem s (tSetBlk t.recd) 64 else zeros 64
        let pk := stateArea x ++ hd ++ ts.flatMap trkBytes ++ ts.flatMap (fun k => k.emb.flatMap (leBytes 2))
        let s := peerPut s g.peer (landWin + 0x10000 * g.pkg) pk
        let s := (x.dpb.zip g.refs).foldl (fun s (q : Pic × Nat) =>
          let r := rdGddr s 0 q.1.blk (picSize x.maxW x.maxH x.depth)
          peerPut r.1 g.peer (landWin + 0x10000 * q.2) r.2.1) s
        let s := { s with peal := { s.peal with migOut := some { g with phase := 3 } } }
        peerSend s g.peer 6 (leBytes 4 (x.frameNo - 1) ++ leBytes 8 x.lastStamp ++ leBytes 4 t.nextId ++
          leBytes 2 x.dpb.length ++ leBytes 2 ts.length))

/-! ### Handoff (R544) -/

/-- The track that a HANDOFF inserts: lost, at the entry box or the whole displayed picture. -/
def handoffTrack (s : State) (m d : Nat) (b : List Byte) (i id : Nat) : Trk :=
  let x := trkSet s d
  let r := x.recd
  let box := (b.drop 4).take 8
  let box := if zeroAt box 0 8 then leBytes 2 0 ++ leBytes 2 0 ++ leBytes 2 x.size.1 ++ leBytes 2 x.size.2 else box
  let z := measure ⟨0, box, 0, 0, false, 0, 0, none⟩
  let p00 := fMul (tF r 0x2C) (.ofNat 1024)
  { i := i, id := id, st := 3, cls := byteAt b 2, hits := 0, misses := 0, frames := 0, flags := 0,
    x := (List.range 8).map (fun k => if k % 2 = 0 then at0 z (k / 2) else .ofNat 0),
    p := (List.range 12).map (fun k => if k % 3 = 0 then p00 else if k % 3 = 1 then .ofNat 0 else tF r 0x28),
    birth := now s, last := now s, box := box, score := 0,
    emb := (List.range (tEmb r)).map (fun k => rdLe s (inbox s + 0x11000 + 512 * m + 2 * k) 2) }

/-- HANDOFF: the track is inserted in the lowest free slot, or refused with REASON 3. -/
def onHandoff (s : State) (m : Nat) (b : List Byte) : State :=
  let d := leAt b 0 2
  let x := trkSet s d
  match freeSlots s d with
  | i :: _ =>
    if !x.on || tEmb x.recd != leAt b 16 2 then peerSend s m 13 (leBytes 4 0 ++ leBytes 1 3)
    else
      let s := trkWrite s x.recd (handoffTrack s m d b i x.nextId)
      peerSend (updSet s d (fun t => { t with nextId := idNext t.nextId })) m 13 (leBytes 4 x.nextId ++ leBytes 1 0)
  | [] => peerSend s m 13 (leBytes 4 0 ++ leBytes 1 3)

/-- HANDOFF_ACK. -/
def onHandoffAck (s : State) (m : Nat) (b : List Byte) : State :=
  match s.peal.handoff with
  | some (p, tag) =>
    if p != m then s
    else
      let s := putR { s with peal := { s.peal with handoff := none } } 0x1E0 0x300 (word (leAt b 0 4))
      if leAt b 0 4 = 0 then portResult s .peal tag 0xC (byteAt b 4) else portResult s .peal tag 1 0
  | none => s

/-! ### Received messages (R539) -/

/-- HELLO. -/
def onHello (s : State) (m frm : Nat) (b : List Byte) : State :=
  let part := leAt b 8 4 / 65536
  if frm = s.life.modId || (part != 0x0960 && part != 0x0932) then peerSt s m 4
  else if (peer s m).st = 4 then s
  else helloBoth (updPeer s m (fun x => { x with got := true, digest := (b.drop 12).take 32 })) m

/-- One message of a peer. -/
def onMessage (s : State) (m : Nat) (g : List Byte) : State :=
  let b := g.drop 8
  let ty := byteAt g 0
  let s := bump s 0x1E0 1
  if ty = 1 then onHello s m (byteAt g 1) b
  else if ty = 2 then
    let s := updPeer s m (fun x => { x with cause := byteAt b 0 % 16 })
    if (peer s m).st = 1 then peerSt s m 3 else s
  else if ty = 3 then onOffer s m b
  else if ty = 4 then onAccept s m b
  else if ty = 5 then onRefuse s m b
  else if ty = 6 then onStateDone s m b
  else if ty = 7 then onAdopted s m b
  else if ty = 8 then onAu s m b
  else if ty = 9 then onSourceLive s m
  else if ty = 10 then onCutover s m
  else if ty = 11 then
    if s.peal.migOut.any (fun x => x.peer == m && x.stm == leAt b 0 2) then migOutLost s (byteAt b 4)
    else if s.peal.migIn.any (fun x => x.peer == m && x.stm == leAt b 2 2) then migInLost s
    else s
  else if ty = 12 then onHandoff s m b
  else if ty = 13 then onHandoffAck s m b
  else if ty = 14 then onFree s m b
  else bump s 0x1E0 6

/-- The new messages of a ring, in order. -/
def messagesRun (m : Nat) : Nat → State → State
  | 0, s => s
  | k + 1, s =>
    let t := (peer s m).taken
    let g := rdMem s (inbox s + 0x1000 * m + 64 * (t % 64)) 64
    messagesRun m k (onMessage (updPeer s m (fun x => { x with taken := (t + 1) % 2 ^ 32 })) m g)

/-- PEER_MESSAGE_RECEIVE: a PROD write of sender p. -/
def execPeerMessageReceive (p : Nat) (s : State) : Host.Outcome State Fault Refusal :=
  .next (if !peerEn s p then s
    else
      let n := (rdLe s (inbox s + 0x10000 + 64 * p) 4 + 2 ^ 32 - (peer s p).taken) % 2 ^ 32
      if n = 0 || 64 < n then peerFlush s p (peer s p).waitQ.length
      else
        let s := messagesRun p n s
        let s := peerPut s p (inboxWin + 0x10400 + 64 * s.life.modId) (leBytes 4 (peer s p).taken)
        peerFlush s p (peer s p).waitQ.length)

/-! ### The command port (R545) -/

/-- EXPECT. -/
def opExpect : POp := fun n o _ s =>
  if 1024 ≤ n || 16 ≤ byteAt o 0 || byteAt o 0 = s.life.modId then illegal s 0
  else if (stm s n).st = 0 then refuse s 5 0
  else done { s with peal := { s.peal with expect := tset s.peal.expect n (byteAt o 0, leAt o 2 2) } }

/-- MIGRATE: its result is written at CUTOVER, or at its refusal or abort. -/
def opMigrate : POp := fun n o tag s =>
  if 1024 ≤ n || 16 ≤ byteAt o 0 || byteAt o 0 = s.life.modId then illegal s 0
  else if 1024 ≤ leAt o 2 2 then illegal s 2
  else if (stm s n).st = 0 then refuse s 5 0
  else
    let s := migNext { portResult s .peal tag 0xF 0 with
      peal := { s.peal with migQ := s.peal.migQ ++ [(n, byteAt o 0, leAt o 2 2, tag)] } }
    let w := getR s 0x1E0 (0x800 + 4 * (tag % 256))
    (s, bits w 31 28, bits w 15 0)

/-- TRACK_SEND: the embedding, then HANDOFF; the result follows HANDOFF_ACK. -/
def opTrackSend : POp := fun n o tag s =>
  let m := byteAt o 0
  if 1024 ≤ n || 16 ≤ m || m = s.life.modId then illegal s 0
  else if !(trkSet s n).on then refuse s 5 0
  else
    match (liveTracks s n).find? (fun t => t.id == leAt o 4 4) with
    | none => illegal s 4
    | some t =>
      if (peer s m).st != 1 then refuse s 0xC 8
      else if s.peal.handoff.isSome then refuse s 0xC 6
      else
        let s := peerPut s m (inboxWin + 0x11000 + 512 * s.life.modId) (fitBytes 512 (t.emb.flatMap (leBytes 2)))
        let s := bump { s with peal := { s.peal with handoff := some (m, tag) } } 0x1E0 4
        (peerSend s m 12 (leBytes 2 (leAt o 2 2) ++ leBytes 1 t.cls ++ zeros 1 ++ (o.drop 8).take 8 ++ leBytes 4 t.id ++
          leBytes 2 (tEmb (trkSet s n).recd)), 0xF, 0)

/-- CANCEL: this stream's migration is aborted with REASON 7; a waiting MIGRATE of it is dropped. -/
def opCancel : POp := fun n _ _ s =>
  let mine := s.peal.migQ.filter (fun q => q.1 == n)
  let here := s.peal.migOut.any (fun g => g.stm == n) || s.peal.migIn.any (fun g => g.stm == n)
  if 1024 ≤ n then illegal s 0
  else if !here && mine.isEmpty then refuse s 5 0
  else
    let s := { s with peal := { s.peal with migQ := s.peal.migQ.filter (fun q => q.1 != n) } }
    let s := mine.foldl (fun s q => bump (portResult s .peal q.2.2.2 0xC 7) 0x1E0 3) s
    let far := s.peal.migOut.any (fun g => g.stm == n && g.phase == 4)
    let s := migEnds s n 7
    done (migNext (if far then streamResume s n else s))

/-- EXPECT. -/
def execExpect (m : Master) (tag idx : Nat) (s : State) : Host.Outcome State Fault Refusal :=
  .next (portCmd .peal m 1 tag idx opExpect s)

/-- MIGRATE. -/
def execMigrate (m : Master) (tag idx : Nat) (s : State) : Host.Outcome State Fault Refusal :=
  .next (portCmd .peal m 2 tag idx opMigrate s)

/-- TRACK_SEND. -/
def execTrackSend (m : Master) (tag idx : Nat) (s : State) : Host.Outcome State Fault Refusal :=
  .next (portCmd .peal m 3 tag idx opTrackSend s)

/-- CANCEL. -/
def execCancel (m : Master) (tag idx : Nat) (s : State) : Host.Outcome State Fault Refusal :=
  .next (portCmd .peal m 4 tag idx opCancel s)

/-! ### Access units from ingest (R98, R542) -/

/-- A written access unit goes to its stream, or to what a migration of the stream makes of it. -/
def auArrive (s : State) (n : Nat) (r : Rel) (len : Nat) (damaged : Bool) : State :=
  match s.peal.migIn with
  | some g =>
    if g.stm != r.stm || g.phase != 1 then auHand s n r len damaged false
    else if g.lastStamp < r.stamp then
      let s := { s with peal := { s.peal with migIn := some { g with phase := 2 } } }
      auHand (peerSend s g.peer 9 (leBytes 8 r.stamp)) n r len damaged false
    else bump (auHand s n r len damaged true) 0x1E0 7
  | none => fwdPump (auHand s n r len damaged false) 16

/-- ACCESS_UNIT_WRITTEN: the flow's oldest released frame is depacketised; a CLOSE that waited for it completes. -/
def execAccessUnitWritten (n : Nat) (std : List Byte) (s : State) : Host.Outcome State Fault Refusal :=
  .next (match auWrite s n std with
    | none => s
    | some (s, r, len, dmg) =>
      let s := auArrive s n r len dmg
      match (flow s n).writing, (flow s n).closing with
      | [], some tag => portResult (flowEnd s n) .flow tag 1 0
      | _, _ => s)

end Sys2Proof.Machine
end

