-- ==== Sys2Proof/Machine/Memory.lean ====
section
/-!
DEFINITION. Machine/Memory.lean: patrol scrub, re-centring, retraining, pages and refresh of the memory channels
(R420-R429).
-/
namespace Sys2Proof.Machine

/-- Page of a channel. -/
def chanPage (c : Nat) : Nat := 0x140 + c

/-- The quad of a channel is READY. -/
def chanReady (s : State) (c : Nat) : Bool := decide (c < 32) && ready s (0x130 + c / 8)

/-- Granules of a channel: 1,792 MiB (R412). -/
def chanGranules : Nat := 7340032

/-- The device address of granule g of a channel: the inverse of R414. -/
def granAddr (c g : Nat) : Nat :=
  if g < 6291456 then
    let low := c ^^^ bitsN g 4 0 ^^^ bitsN g 9 5 ^^^ bitsN g 14 10 ^^^ bitsN g 19 15 ^^^ bitsN g 24 20
    (g * 32 + low) * 256
  else
    let h := g - 6291456
    let low := (c % 8) ^^^ bitsN h 2 0 ^^^ bitsN h 5 3 ^^^ bitsN h 8 6
    (0x0C000000 + (c / 8) * 2 ^ 23 + h * 8 + low) * 256

/-- Patrol scrub reads the next granule of a channel of a READY quad unless MQ_SCRUB.HOURS is 0; a completed pass
counts in CNT7 (R421). -/
def patrolRead (s : State) (c : Nat) : State :=
  if !chanReady s c || bits (getR s (0x130 + c / 8) 0x104) 7 0 = 0 then s
  else
    let x := chan s c
    let s := (rdGddr s 1 (granAddr c x.patrol) 256).1
    let x := chan s c
    if chanGranules ≤ x.patrol + 1 then bump (setChan s c { x with patrol := 0 }) (chanPage c) 7
    else setChan s c { x with patrol := x.patrol + 1 }

/-- PATROL_SCRUB_READ. -/
def execPatrolScrubRead (c : Nat) (s : State) : Host.Outcome State Fault Refusal := .next (patrolRead s c)

/-- URGENT_ACTIVE of Carillon: no slice and no re-centring begins while it is 1 (R426). -/
def urgentActive (s : State) : Bool := statusBit s 0x190 8

/-- One step of a delay value: 1 up, 2 down, otherwise none. -/
def stepDelay (v mv : Nat) : Nat := if mv = 1 then min (v + 1) 255 else if mv = 2 then v - 1 else v

/-- One lane of MC_EYE with its read and write delays moved at most one step (R425). -/
def eyeMove (w : Word) (rd wr : Nat) : Word :=
  setBits (setBits w 23 16 (stepDelay (bits w 23 16) rd)) 7 0 (stepDelay (bits w 7 0) wr)

/-- A re-centring moves each lane's delays by what the lane's passing window asks for, at most one step (R425). The
channel must be running normally and no urgent invocation active. -/
def recentre (s : State) (c : Nat) (mv : List (Nat × Nat)) : State :=
  if !chanReady s c || urgentActive s || (chan s c).retrain.isSome then s
  else
    let s := forN 20 (fun l s =>
      match mv[l]? with
      | some (rd, wr) => putR s (chanPage c) (0x200 + 4 * l) (eyeMove (getR s (chanPage c) (0x200 + 4 * l)) rd wr)
      | none => s) s
    bump s (chanPage c) 4

/-- RECENTRE. -/
def execRecentre (c : Nat) (mv : List (Nat × Nat)) (s : State) : Host.Outcome State Fault Refusal :=
  .next (recentre s c mv)

/-- EDC retries of a read or write burst (R420): counted per channel; 16 within 1 ms re-centre the channel at once. -/
def edcRetry (s : State) (e : EdcFact) : State :=
  let p := chanPage e.ch
  let s := bumpN s p (if e.wr then 3 else 2) (min e.retries 3)
  let x := chan s e.ch
  let x := if now s < x.edcWindow + Config.tMs && 0 < x.edcRetries then x
    else { x with edcWindow := now s, edcRetries := 0 }
  let x := { x with edcRetries := x.edcRetries + min e.retries 3 }
  if 16 ≤ x.edcRetries then recentre (setChan s e.ch { x with edcRetries := 0 }) e.ch e.mv
  else setChan s e.ch x

/-- MC_CMD.RETRAIN: the channel enters RETRAINING; dropped while it is RETRAINING (R426). -/
def retrainStart (s : State) (c : Nat) : State :=
  if (blk s (chanPage c)).st = .retraining then s
  else
    let x := chan s c
    let eye := (List.range 20).map (fun l => getR s (chanPage c) (0x200 + 4 * l))
    setSt (setChan s c { x with retrain := some 0, prevEye := eye }) (chanPage c) .retraining

/-- MC_RETRAIN. -/
def execMcRetrain (m : Master) (c : Nat) (s : State) : Host.Outcome State Fault Refusal :=
  .next (if c < 32 then guarded m (chanPage c) 0x104 s (fun s => retrainStart s c) else s)

/-- Sets the MC_EYE values of a channel. -/
def putEye (s : State) (c : Nat) (l : List Word) : State := putRegsL s (chanPage c) 0x200 (l.take 20)

/-- One slice: while it is not the last, training goes on; the last one takes the new values, or returns to the
previous ones and counts in the quad's CNT2 (R426). A lane narrower than 16 steps fails the training (R423). -/
def retrainSlice (s : State) (c : Nat) (last : Option (List Word)) : State :=
  let x := chan s c
  match x.retrain with
  | none => s
  | some k =>
    if urgentActive s then s
    else
      match last with
      | none => setChan s c { x with retrain := some (k + 1) }
      | some eye =>
        let ok := eye.length == 20 && eye.all (fun w => decide (16 ≤ bits w 31 24 ∧ 16 ≤ bits w 15 8))
        let s := setSt (setChan s c { x with retrain := none, prevEye := [] }) (chanPage c) .run
        if ok then putEye s c eye else bump (putEye s c x.prevEye) (0x130 + c / 8) 2

/-- RETRAIN_SLICE. -/
def execRetrainSlice (c : Nat) (last : Option (List Word)) (s : State) : Host.Outcome State Fault Refusal :=
  .next (retrainSlice s c last)

/-- BANK_IDLE_CLOSE: a bank idle for PAGE_IDLE cycles closes its row (R427). -/
def execBankIdleClose (c bank : Nat) (s : State) : Host.Outcome State Fault Refusal :=
  .next (if chanReady s c then setChan s c { chan s c with openRow := tdel (chan s c).openRow bank } else s)

/-- REFRESH: a per-bank refresh closes the bank's row; the interval follows the highest temperature the channel's
devices report, which MC_STATE.TEMP shows (R429). -/
def execRefresh (c bank temp : Nat) (s : State) : Host.Outcome State Fault Refusal :=
  .next (if chanReady s c && (chan s c).st != 2 then
    setChan s c { chan s c with openRow := tdel (chan s c).openRow bank, temp := temp % 256 } else s)

/-- SELF_REFRESH_ENTRY: REFab closes every row and the channel enters self-refresh, unless SR_IDLE is 0 (R429). -/
def execSelfRefreshEntry (c : Nat) (s : State) : Host.Outcome State Fault Refusal :=
  .next (if chanReady s c && (chan s c).st != 2 && bits (getR s (0x130 + c / 8) 0x100) 23 8 != 0 then
    bump (setChan s c { chan s c with st := 2, openRow := [] }) (0x130 + c / 8) 3 else s)

end Sys2Proof.Machine
end

