-- ==== Sys2Proof/Machine/Sec.lean ====
section
/-!
DEFINITION. Machine/Sec.lean: the update engine, attestation, PLDM and recovery (R518-R534).
-/
namespace Sys2Proof.Machine

/-! ### The update engine (R527) -/

/-- The present owner's key hash. -/
def ownerKey (s : State) : Option Nat := s.sec.owner.map (fun o => o.keyHash)

/-- Answers the port command in progress, if it came by the port. -/
def updAnswer (s : State) (code detail : Nat) : State :=
  match s.sec.cur with
  | some tag => portResult { s with sec := { s.sec with cur := none } } .upd tag code detail
  | none => s

/-- Page 0x002 shows UPDATING while the engine is not IDLE (R527; log 46). -/
def updShow (s : State) : State :=
  if s.sec.st != .idle && (blk s 0x002).st = .run then setSt s 0x002 .updating
  else if s.sec.st = .idle && (blk s 0x002).st = .updating then setSt s 0x002 .run
  else s

/-- The engine goes IDLE with nothing staged. -/
def updIdle (s : State) : State :=
  updShow { s with sec := { s.sec with st := .idle, copy := [], staged := none, todo := [], reload := false,
                                       thenCommit := false } }

/-- A component of a TYPE in a list. -/
def compOfTy (l : List Comp) (t : Nat) : Option Comp := l.find? (fun c => c.ty == t)

/-- STAGE: the bundle is copied (R527). -/
def opUpdStage : POp := fun _ o tag s =>
  let a := leAt o 0 8
  let len := leAt o 8 4
  if s.sec.st != .idle then refuse s 0xC 0
  else if a % 64 != 0 then illegal s 0
  else if len = 0 || 0x800000 < len then illegal s 8
  else
    let r := unitRead s a len
    if !r.2.2 then illegal r.1 0
    else (updShow { r.1 with sec := { r.1.sec with st := .verifying, copy := r.2.1, cur := some tag } }, 0xF, 0)

/-- An owner bundle under the rules of ownership (R532): 0, or the refusal. -/
def ownerCode (s : State) (b : Bundle) : Nat :=
  let own := compOfTy b.comps 7
  match ownerKey s with
  | none => if own.isNone then 7 else if bundleSigned b b.signer then 0 else 3
  | some k =>
    match own with
    | some c =>
      if b.signer != k || leAt c.payload 64 8 ≤ secCtr s 5 then 7 else if bundleSigned b k then 0 else 3
    | none => if bundleSigned b k then 0 else 3

/-- Verification of the staged bundle (R522, R523, R525, R532, TARGET_PART): CODE and DETAIL, CODE 0 when valid. -/
def stageCode (s : State) (b : Bundle) : Nat × Nat :=
  if !b.fieldsOk then (2, 0)
  else
    let c := if b.kind = 0 then (if bundleSigned b Config.olinanKey.toNat then 0 else 3) else ownerCode s b
    if c != 0 then (c, 0)
    else if !compsDistinct b.comps || (b.kind = 0 && !wholeImage b) then (2, 0x80)
    else if !partFits s b then (4, 0)
    else if b.kind = 0 && b.svn < secCtr s 0 then (6, 0)
    else if b.comps.any (fun c => c.ty == 6 && leAt c.payload 8 4 < secCtr s (1 + c.index)) then (6, 0)
    else (0, 0)

/-- BUNDLE_VERIFY_DONE. -/
def execBundleVerifyDone (f : SigFact) (s : State) : Host.Outcome State Fault Refusal :=
  .next (if s.sec.st != .verifying then s
    else
      let b := parseBundle s.sec.copy f
      let c := stageCode s b
      if c.1 = 0 then
        updAnswer (bump { s with sec := { s.sec with st := .staged, staged := some b } } 0x002 3) 1 0
      else
        let s := updAnswer (updIdle s) c.1 c.2
        if c.1 = 2 then s else bump s 0x002 4)

/-- TYPEs 1 to 4 of a mask whose staged component differs from the running one, in ascending order. TYPE 5 is taken by
the next PERST_N or power-on only (Table 22-5). -/
def toActivate (s : State) (b : Bundle) (mask : Nat) : List Nat :=
  [1, 2, 3, 4].filter (fun t => mask.testBit t && (match compOfTy b.comps t, tget s.sec.running t with
    | some c, some r => c.digest != r.digest
    | some _, none => true
    | none, _ => false))

/-- The blocks of a component enter or leave UPDATING (Table 03-5). -/
def compBlocks (s : State) (t : Nat) (on : Bool) : State :=
  (compPages t).foldl (fun s p =>
    if on && (blk s p).st = .run then setSt s p .updating
    else if !on && (blk s p).st = .updating then setSt s p .run
    else s) s

/-- The engine starts to activate. -/
def activateStart (s : State) (b : Bundle) (mask : Nat) : State :=
  let l := toActivate s b mask
  let s := { s with sec := { s.sec with st := .activating, todo := l, reload := false } }
  l.foldl (fun s t => compBlocks s t true) s

/-- COMMITTING begins (R530). -/
def commitStart (s : State) : State := { s with sec := { s.sec with st := .committing, pct := 0, thenCommit := false } }

/-- Every selected component is active. -/
def activateEnd (s : State) : State :=
  let s := { s with sec := { s.sec with st := .pending } }
  if s.sec.thenCommit then commitStart s else updAnswer s 1 0

/-- ACTIVATE (R528). -/
def opUpdActivate : POp := fun _ o tag s =>
  match s.sec.st, s.sec.staged with
  | .staged, some b =>
    if b.kind != 0 then refuse s 0xC 0
    else
      let s := activateStart { s with sec := { s.sec with cur := some tag } } b (leAt o 0 4)
      if s.sec.todo.isEmpty then done (activateEnd s) else (s, 0xF, 0)
  | _, _ => refuse s 0xC 0

/-- A TYPE runs another component. -/
def compRun (s : State) (t : Nat) (c : Option Comp) (active : Bool) : State :=
  let s := { s with sec := { s.sec with
    running := match c with
      | some c => tset s.sec.running t c
      | none => s.sec.running,
    active := if active then s.sec.active ||| 2 ^ t else s.sec.active - (s.sec.active &&& 2 ^ t) } }
  codeRevs (compBlocks s t false)

/-- COMPONENT_ACTIVATE: the next component, held while a low event lasts and not begun while a class 0 context is
urgent (R528); `ok` is its start-up check (R529). -/
def componentActivate (s : State) (ok : Bool) : State :=
  match s.sec.todo with
  | [] => s
  | t :: rest =>
    if s.sec.st != .activating || gongState s != 0 || (!s.sec.reload && s.sec.active = 0 && urgentActive s) then s
    else if s.sec.reload then
      let s := compRun s t ((s.sec.image.map (fun b => compOfTy b.comps t)).getD none) false
      let s := { s with sec := { s.sec with todo := rest } }
      if rest.isEmpty then updAnswer (updIdle s) 1 0 else s
    else if ok then
      let s := bump (compRun s t ((s.sec.staged.map (fun b => compOfTy b.comps t)).getD none) true) 0x002 5
      let s := { s with sec := { s.sec with todo := rest } }
      if rest.isEmpty then activateEnd s else s
    else
      let s := s.sec.todo.foldl (fun s t => compBlocks s t false) s
      updAnswer { s with sec := { s.sec with st := .staged, todo := [], thenCommit := false } } 5 t

/-- COMPONENT_ACTIVATE. -/
def execComponentActivate (ok : Bool) (s : State) : Host.Outcome State Fault Refusal := .next (componentActivate s ok)

/-- COMMIT (R515, R530). -/
def opUpdCommit : POp := fun _ _ tag s =>
  if s.sec.st != .staged && s.sec.st != .pending then refuse s 0xC 0
  else if s.sec.wpLow then refuse s 8 0
  else (commitStart { s with sec := { s.sec with cur := some tag } }, 0xF, 0)

/-- A counter only rises. -/
def ctrRaise (s : State) (k v : Nat) : State :=
  { s with sec := { s.sec with ctrs := tset s.sec.ctrs k (max (tgetD s.sec.ctrs k 0) v) } }

/-- Writes the records of an owner bundle (R526, R532). -/
def ownerWrite : List Comp → List (Nat × Bool) → Bundle → State → State
  | [], _, _, s => s
  | c :: t, sigs, b, s =>
    if c.ty = 6 then
      let g := sigs.headD (0, false)
      let s := { s with sec := { s.sec with
        profs := tset s.sec.profs c.index { bytes := c.payload.take 0x500, signer := g.1, sigOk := g.2 } } }
      ownerWrite t sigs.tail b (ctrRaise s (1 + c.index) (leAt c.payload 8 4))
    else
      let key := if s.sec.owner.isNone then b.signer else leAt c.payload 0 64
      let seq := leAt c.payload 64 8
      ownerWrite t sigs b (ctrRaise { s with sec := { s.sec with owner := some ⟨key, seq⟩ } } 5 seq)

/-- The flash write of a bundle succeeded and was read back. -/
def bundleWritten (s : State) (b : Bundle) : State :=
  if b.kind = 0 then ctrRaise { s with sec := { s.sec with image := some b, imageInvalid := false } } 0 b.svn
  else ownerWrite b.comps b.profSigs b s

/-- The flash write failed: a firmware image, or the profile slots it was writing, are invalid (R531). -/
def bundleBroken (s : State) (b : Bundle) : State :=
  if b.kind = 0 then { s with sec := { s.sec with image := none, imageInvalid := true } }
  else { s with sec := { s.sec with profs := s.sec.profs.filter (fun (q : Nat × FlashProf) =>
    !b.comps.any (fun c => c.ty == 6 && c.index == q.1)) } }

/-- UPD_COMMIT_DONE; a commit waits while GONG_STATE.STATE is not 0. -/
def execUpdCommitDone (ok : Bool) (s : State) : Host.Outcome State Fault Refusal :=
  .next (match s.sec.st, s.sec.staged with
    | .committing, some b =>
      if gongState s != 0 then s
      else if ok then
        let s := bundleWritten s b
        bump (updAnswer (updIdle { s with sec := { s.sec with pct := 100, active := 0 } }) 1 0) 0x002 6
      else bump (updAnswer (updIdle { bundleBroken s b with sec := { (bundleBroken s b).sec with active := 0 } }) 9 0) 0x002 7
    | _, _ => s)

/-- ABANDON: uncommitted activations are reloaded from the committed image. -/
def opUpdAbandon : POp := fun _ _ tag s =>
  if s.sec.st != .staged && s.sec.st != .pending then refuse s 0xC 0
  else
    let l := [1, 2, 3, 4].filter (fun t => s.sec.active.testBit t)
    if l.isEmpty then done (updIdle s)
    else
      let s := { s with sec := { s.sec with st := .activating, reload := true, todo := l, cur := some tag } }
      (l.foldl (fun s t => compBlocks s t true) s, 0xF, 0)

/-- UPD_READ: the staged header and the digests of the running components (R534; log 46). -/
def opUpdRead : POp := fun _ _ _ s =>
  let h := match s.sec.staged with
    | some b => fitBytes 128 b.header
    | none => zeros 128
  done (portStatus s .upd (h ++ [1, 2, 3, 4, 5].flatMap (fun t => match tget s.sec.running t with
    | some c => leBytes 64 c.digest
    | none => zeros 64)))

/-- UPD_STAGE. -/
def execUpdStage (m : Master) (tag idx : Nat) (s : State) : Host.Outcome State Fault Refusal :=
  .next (portCmd .upd m 1 tag idx opUpdStage s)

/-- UPD_ACTIVATE. -/
def execUpdActivate (m : Master) (tag idx : Nat) (s : State) : Host.Outcome State Fault Refusal :=
  .next (portCmd .upd m 2 tag idx opUpdActivate s)

/-- UPD_COMMIT. -/
def execUpdCommit (m : Master) (tag idx : Nat) (s : State) : Host.Outcome State Fault Refusal :=
  .next (portCmd .upd m 3 tag idx opUpdCommit s)

/-- UPD_ABANDON. -/
def execUpdAbandon (m : Master) (tag idx : Nat) (s : State) : Host.Outcome State Fault Refusal :=
  .next (portCmd .upd m 4 tag idx opUpdAbandon s)

/-- UPD_READ. -/
def execUpdRead (m : Master) (tag idx : Nat) (s : State) : Host.Outcome State Fault Refusal :=
  .next (portCmd .upd m 5 tag idx opUpdRead s)

/-! ### Attestation (R518-R520) -/

/-- ALIAS_CERT_SIGNED: after step A7 (R518). -/
def execAliasCertSigned (s : State) : Host.Outcome State Fault Refusal :=
  .next (if s.life.secReady && s.life.mgtReady then { s with sec := { s.sec with aliasOk := true } } else s)

/-- A path on which the responder answers: 0 the DOE mailbox, 1 MCTP. -/
def spdmOpen (s : State) (path : Nat) : Bool :=
  s.life.secReady && (if path = 0 then fnReady s 2 else path == 1 && s.life.mgtReady)

/-- An SPDM response. -/
def spdmOut (s : State) (path code : Nat) (body : List Byte) : State := { s with out := .spdm path code body :: s.out }

/-- An SPDM ERROR response with its code: 0x01 InvalidRequest, 0x04 UnexpectedRequest, 0x42 ResponseNotReady. -/
def spdmErr (s : State) (path code : Nat) : State := spdmOut s path 0x7F (leBytes 1 code)

/-- A request at its place in the sequence; `needs` is the step it presupposes, `cert` whether it needs the alias
certificate. -/
def spdmServe (s : State) (path : Nat) (busy : Bool) (needs : Nat) (cert : Bool) (ans : State → State) : State :=
  if !spdmOpen s path then s
  else if busy || (cert && !s.sec.aliasOk) then spdmErr s path 0x42
  else if tgetD s.sec.spdmNeg path 0 < needs then spdmErr s path 4
  else ans s

/-- A step of the negotiation is reached. -/
def spdmStep (s : State) (path n : Nat) : State := { s with sec := { s.sec with spdmNeg := tset s.sec.spdmNeg path n } }

/-- SPDM_GET_VERSION: version 1.2. -/
def execSpdmGetVersion (path : Nat) (busy : Bool) (s : State) : Host.Outcome State Fault Refusal :=
  .next (spdmServe s path busy 0 false (fun s => spdmOut (spdmStep s path 1) path 0x04 [0x12]))

/-- SPDM_GET_CAPABILITIES. -/
def execSpdmGetCapabilities (path : Nat) (busy : Bool) (s : State) : Host.Outcome State Fault Refusal :=
  .next (spdmServe s path busy 1 false (fun s => spdmOut (spdmStep s path (max 2 (tgetD s.sec.spdmNeg path 0))) path 0x61 []))

/-- SPDM_NEGOTIATE_ALGORITHMS: SHA3-512 and ML-DSA-87, when the request offers them. -/
def execSpdmNegotiateAlgorithms (path : Nat) (busy ok : Bool) (s : State) : Host.Outcome State Fault Refusal :=
  .next (spdmServe s path busy 2 false (fun s =>
    if ok then spdmOut (spdmStep s path 3) path 0x63 [] else spdmErr s path 1))

/-- SPDM_GET_DIGESTS: of slot 0. -/
def execSpdmGetDigests (path : Nat) (busy : Bool) (s : State) : Host.Outcome State Fault Refusal :=
  .next (spdmServe s path busy 3 true (fun s => spdmOut s path 0x01 [1]))

/-- SPDM_GET_CERTIFICATE: a portion of the slot 0 chain. -/
def execSpdmGetCertificate (path : Nat) (busy : Bool) (slot ofs len : Nat) (chain : List Byte) (s : State) :
    Host.Outcome State Fault Refusal :=
  .next (spdmServe s path busy 3 true (fun s =>
    if slot != 0 || chain.length ≤ ofs then spdmErr s path 1 else spdmOut s path 0x02 ((chain.drop ofs).take len)))

/-- SPDM_CHALLENGE: CHALLENGE_AUTH with the nonce's signature by the alias key. -/
def execSpdmChallenge (path : Nat) (busy : Bool) (slot : Nat) (nonce sig : List Byte) (s : State) :
    Host.Outcome State Fault Refusal :=
  .next (spdmServe s path busy 3 true (fun s =>
    if slot != 0 then spdmErr s path 1 else spdmOut s path 0x03 (nonce ++ sig)))

/-- The value of a measurement and whether it is raw (Table 22-3). -/
def measurement (s : State) (i : Nat) : List Byte × Bool :=
  if i = 1 then ((s.sec.booted.map (fun b => leBytes 64 b.digest)).getD (zeros 64), false)
  else if i ≤ 6 then ((tget s.sec.running (i - 1)).map (fun c => leBytes 64 c.digest) |>.getD (zeros 64), false)
  else if i = 7 then ((s.life.profile.map Config.sha3).getD (zeros 64), false)
  else if i = 8 then ((ownerKey s).map (leBytes 64) |>.getD (zeros 64), false)
  else if i = 9 then ([0, 1, 2, 3, 4].flatMap (fun k => leBytes 4 (secCtr s k)), true)
  else (leBytes 4 (partId s) ++ leBytes 4 (unitPresent0 s.part) ++ leBytes 4 (unitPresent1 s.part) ++
    leBytes 4 (unitPresent2 s.part), true)

/-- A DMTF measurement block. -/
def measBlock (s : State) (i : Nat) : List Byte :=
  let m := measurement s i
  leBytes 1 i ++ [1] ++ leBytes 2 (m.1.length + 3) ++ leBytes 1 (i + 128 * b2n m.2) ++ leBytes 2 m.1.length ++ m.1

/-- SPDM_GET_MEASUREMENTS: index 0 asks for their number, 255 for all of them. -/
def execSpdmGetMeasurements (path : Nat) (busy : Bool) (index : Nat) (sign : Bool) (sig : List Byte) (s : State) :
    Host.Outcome State Fault Refusal :=
  .next (spdmServe s path busy 3 sign (fun s =>
    let tail := if sign then sig else []
    if index = 0 then spdmOut s path 0x60 (10 :: tail)
    else if index = 255 then spdmOut s path 0x60 (((List.range 10).flatMap (fun i => measBlock s (i + 1))) ++ tail)
    else if index ≤ 10 then spdmOut s path 0x60 (measBlock s index ++ tail)
    else spdmErr s path 1))

/-! ### PLDM and recovery (R521, R533) -/

/-- A PLDM response on MCTP: the TYPE, a code and a body. -/
def pldmOut (s : State) (ty code : Nat) (body : List Byte) : State :=
  { s with out := .spdm (0x100 + ty) code body :: s.out }

/-- The value of a PLDM sensor: VIN, IIN, input power, hottest die, GDDR6, converter, GONG_STATE.STATE, out of service. -/
def sensorVal (s : State) (k : Nat) : Nat :=
  let g := getR s 0x1B0 0x100
  let t := getR s 0x1B0 0x11C
  if k = 0 then bits g 11 0
  else if k = 1 then bits g 27 16
  else if k = 2 then bits (getR s 0x1B0 0x104) 15 0
  else if k = 3 then bits t 31 24
  else if k = 4 then bits t 15 8
  else if k = 5 then bits t 7 0
  else if k = 6 then gongState s
  else b2n s.toc.oos

/-- PLDM_SENSOR_READ. -/
def execPldmSensorRead (sensor : Nat) (s : State) : Host.Outcome State Fault Refusal :=
  .next (if !s.life.mgtReady then s
    else if 8 ≤ sensor then pldmOut s 2 1 []
    else pldmOut s 2 0 (leBytes 4 (sensorVal s sensor)))

/-- PLDM_FIRMWARE_TRANSFER: the bundle is staged as by STAGE. -/
def execPldmFirmwareTransfer (data : List Byte) (s : State) : Host.Outcome State Fault Refusal :=
  .next (if !s.life.mgtReady || !s.life.secReady || stopping s then s
    else if s.sec.st != .idle then pldmOut s 5 0xC []
    else updShow { s with sec := { s.sec with st := .verifying, copy := data, cur := none } })

/-- PLDM_ACTIVATE_FIRMWARE: ACTIVATE with every component, then COMMIT; an owner bundle is committed. -/
def execPldmActivateFirmware (s : State) : Host.Outcome State Fault Refusal :=
  .next (if !s.life.mgtReady || stopping s then s
    else
      match s.sec.st, s.sec.staged with
      | .staged, some b =>
        if s.sec.wpLow then pldmOut s 5 8 []
        else if b.kind != 0 then commitStart s
        else
          let s := activateStart { s with sec := { s.sec with thenCommit := true, cur := none } } b 0x3E
          if s.sec.todo.isEmpty then activateEnd s else s
      | _, _ => pldmOut s 5 0xC [])

/-- RECOVERY_BUNDLE: the recovery responder verifies a KIND 0 bundle, writes it and performs a power-on reset; `ok` is
the flash write with its readback. -/
def execRecoveryBundle (data : List Byte) (f : SigFact) (ok : Bool) (b : BootFact) (s : State) :
    Host.Outcome State Fault Refusal :=
  .next (if !s.life.recovery || !s.life.mgtReady then s
    else
      let x := parseBundle data f
      if x.kind != 0 then pldmOut s 5 2 []
      else
        let c := stageCode s x
        if c.1 != 0 then pldmOut s 5 c.1 []
        else if s.sec.wpLow then pldmOut s 5 8 []
        else if !ok then pldmOut s 5 9 []
        else powerOn (ctrRaise { s with sec := { s.sec with image := some x, imageInvalid := false } } 0 x.svn) 1 b)

end Sys2Proof.Machine
end

