-- ==== Sys2Proof/Machine/Release.lean ====
section
/-!
DEFINITION. Machine/Release.lean: what becomes of held commands when a target changes state or a low event ends (R67,
R68, R76, R474).
-/
namespace Sys2Proof.Machine

/-! ### Command ports -/

/-- What an operation of a port does; an operation not in the port's table answers ILLEGAL_FIELD at 0 (Table 04-6). -/
def portOp (p : Port) (op : Nat) : POp :=
  let none' : POp := fun _ _ _ s => illegal s 0
  match p with
  | .flow =>
    ([opFlowOpen, opFlowClose, opFlowRead, opSetSr, opKeyLoad, opKeyErase, opRelearn, opSetKeys] : List POp).getD (op - 1)
      none'
  | .stm =>
    if op = 0x104 then opSetParams true
    else
      ([opStmOpen, opStmClose, opStmRead, opSetParams false, opSubmit, opStmFlush, opSetPriority, opResync] : List POp).getD
        (op - 1) none'
  | .scl => ([opGateSet, opScaleSet, opGateRead, opGateReset, opRingReset] : List POp).getD (op - 1) none'
  | .car =>
    ([opCtxOpen, opCtxClose, opCtxRead, opCtxKill, opCtxResume, opModelLoad, opModelUnload, opCtxSave, opCtxRestore,
      opBatchOpen, opBatchClose, opSeqRead, opSeqEnd, opTrackSet, opOutletSet] : List POp).getD (op - 1) none'
  | .enc => ([opEvidSet, opClip, opSnap, opEvidRead] : List POp).getD (op - 1) none'
  | .adapt => ([opAdaptOpen, opAdaptStop, opAdaptRead, opAdaptClose] : List POp).getD (op - 1) none'
  | .ket =>
    ([opPoolCreate, opPoolDestroy, opPoolQuota, opPoolRead, opKetAlloc, opKetClaim, opKetRelease, opKetFree] : List POp).getD
      (op - 1) none'
  | .upd => ([opUpdStage, opUpdActivate, opUpdCommit, opUpdAbandon, opUpdRead] : List POp).getD (op - 1) none'
  | .peal => ([opExpect, opMigrate, opTrackSend, opCancel] : List POp).getD (op - 1) none'

/-- The operation of an OP field: OP 0 is in no port's table. -/
def portOpOf (p : Port) (op : Nat) : POp := if op = 0 then fun _ _ _ s => illegal s 0 else portOp p op

/-- Disposal of the command at the head of a port's queue. -/
def headDisp (s : State) (p : Port) : Option (PCmd × Disp) :=
  match portQ s p with
  | [] => none
  | c :: _ => some (c, portDisp s p c.op c.idx c.operand)

/-- The port whose runnable head arrived first. -/
def nextPort (s : State) : Option (Port × PCmd) :=
  allPorts.foldl (fun (b : Option (Port × PCmd)) p =>
    match headDisp s p with
    | some (c, .run) =>
      match b with
      | none => some (p, c)
      | some (_, d) => if c.arrival < d.arrival then some (p, c) else b
    | _ => b) none

/-- Carries out the head of a port's queue. -/
def portStep (s : State) (p : Port) (c : PCmd) : State :=
  portRun p (portOpOf p c.op) c.idx c.operand c.tag (setPortQ s p (portQ s p).tail)

/-- Commands waiting in the ports. -/
def portsWaiting (s : State) : Nat := (allPorts.map (fun p => (portQ s p).length)).sum

/-- Carries out waiting commands, in the order of their arrival, as far as their targets take them. -/
def portsRun : Nat → State → State
  | 0, s => s
  | fuel + 1, s =>
    match nextPort s with
    | none => s
    | some (p, c) => portsRun fuel (portStep s p c)

/-! ### Doorbells (R313) -/

/-- Takes up a context's oldest held doorbell: carried out, or refused with a code. -/
def tailOne (s : State) (n : Nat) (v : Word) (t code : Nat) : State :=
  let s := updCtx s n (fun c => { c with heldTails := c.heldTails.tail })
  let s := tailMove s n v (fun s => if code = 0 then ringTake s n t else ringRefuse s n code)
  if code = 0x17 then bump s 0x001 3 else s

/-- Doorbells held for Carillon follow its state. -/
def tailsRun : Nat → State → State
  | 0, s => s
  | fuel + 1, s =>
    match nextTail s with
    | none => s
    | some (n, v, t) =>
      match tailDisp s with
      | .held => s
      | .run => tailsRun fuel (tailOne s n v t 0)
      | .notReady => tailsRun fuel (tailOne s n v t 0x17)
      | .fenced => tailsRun fuel (tailOne s n v t 0x16)

/-- Every held command follows its target's state: refused, carried out, or still held (R68). -/
def heldSettle (s : State) : State :=
  let s := portsRefuse s
  let s := portsRun (portsWaiting s) s
  tailsRun (tailsWaiting s) s

/-- LOW_EVENT_END: commands held for the event are carried out after the restoration (R474, R476). -/
def execLowEventEnd (s : State) : Host.Outcome State Fault Refusal :=
  .next (match s.gong.low with
    | some e =>
      if gongState s = 1 && 16 ≤ s.gong.fin.n && now s < e.t0 + 8 * Config.tMs then heldSettle (lowEnd s e) else s
    | none => s)

end Sys2Proof.Machine
end

