-- ==== Sys2Proof/Machine/Tocsin.lean ====
section
/-!
DEFINITION. Machine/Tocsin.lean: NoC and firmware faults, the rungs of the reset ladder, out of service (R55, R58,
R492-R493, R500-R508), and the timebase with its timers and pins (R102, R103, R445, R510, R556, R557).
-/
namespace Sys2Proof.Machine

/-! ### Faults that start resets -/

/-- Starts the reset of the lowest level that contains a page's block. -/
def blockReset (s : State) (page cause : Nat) (ok : Bool) : State :=
  if isEngine page || (0x100 ≤ page && page ≤ 0x121) || (0x128 ≤ page && page ≤ 0x12B) then unitReset s page cause ok
  else
    match pagePart page with
    | some q => partDecide s (2 ^ q) cause
    | none => warmDecide s 4 cause

/-- NOC_TIMEOUT: a request of a context's logical core to a page went unanswered for 20 µs; the second against the
same block inside 1 ms resets it (R492). `ok` is a unit reset's self-test. -/
def execNocTimeout (n lc page : Nat) (ok : Bool) (s : State) : Host.Outcome State Fault Refusal :=
  .next (if !(ctx s n).st.live then s
    else
      let last := tget s.toc.nocLast page
      let s := ctxFault s n 0x14 (lcPg s n lc) 0
      let s := { s with toc := { s.toc with nocLast := tset s.toc.nocLast page (now s) } }
      match last with
      | some t => if now s < t + Config.tMs then blockReset s page 4 ok else s
      | none => s)

/-- FW_ASSERT: the fault is raised on the subject, whose state in the component is discarded; without a subject it is
logged with SPACE 3 and the chip resets (R493). -/
def execFwAssert (sub : FwSubj) (page : Nat) (s : State) : Host.Outcome State Fault Refusal :=
  .next (match sub with
    | .batch b =>
      if (batch s b).st = 0 then s
      else updBatch (ctxFault s (batch s b).ctx 0x15 page 0) b (fun x => { x with st := 5 })
    | .job j =>
      let x := ajob s j
      if x.st = 0 then s
      else if x.run then ctxFault s x.ctx 0x15 page 0
      else adaptStop (ctxFault s x.ctx 0x15 page 0) j 4 3 0x15
    | .set n =>
      if (trkSet s n).on then raiseFault (setEnd s n []) (.stm n) 0x15 page 0 0 0 0 else s
    | .stm n => if (stm s n).st = 0 then s else raiseFault s (.stm n) 0x15 page 0 0 0 0
    | .none => warmDecide (raiseFault s .blk 0x15 page 0 0 0 0) 4 5)

/-- FW_HEARTBEAT_TIMEOUT. -/
def execFwHeartbeatTimeout (s : State) : Host.Outcome State Fault Refusal :=
  .next (if s.life.phase != .up then s else warmDecide (raiseFault s .blk 0x15 0x1A0 0 0 0 0) 4 5)

/-- Bound of a level (Table 21-6). -/
def levelBound (l : Nat) : Nat :=
  if l = 2 then 200 * Config.tUs else if l = 3 then 20 * Config.tMs else 1500 * Config.tMs

/-- RESET_LEVEL_EXPIRY: reset k of those in progress has not restored progress within its bound (R500). -/
def execResetLevelExpiry (k : Nat) (s : State) : Host.Outcome State Fault Refusal :=
  .next (match s.toc.rsts[k]? with
    | none => s
    | some r =>
      if now s < r.start + levelBound r.level then s
      else
        let left := s.toc.rsts.eraseIdx k
        let s := setStatus { s with toc := { s.toc with rsts := left } } 0x1A0 9 (!left.isEmpty)
        if r.level = 2 then
          match pagePart r.page with
          | some q => partDecide s (2 ^ q) 2
          | none => warmDecide s 4 2
        else if r.level = 3 then warmDecide s 4 2
        else level5 s)

/-- RESET_REQ with LEVEL 1 (R58, R507). -/
def reqWarm (s : State) : State := if s.toc.oos then bump s 0x004 2 else warmDecide s 3 6

/-- RESET_REQ_WARM_CHIP. -/
def execResetReqWarmChip (m : Master) (s : State) : Host.Outcome State Fault Refusal :=
  .next (guarded m 0x004 0x104 s reqWarm)

/-- RESET_REQ with LEVEL 2; PARTS = 0 drops the write. -/
def reqPart (s : State) (parts : Nat) : State :=
  if s.toc.oos || parts % 16 = 0 then bump s 0x004 2 else partDecide s (parts % 16) 6

/-- RESET_REQ_PARTITION. -/
def execResetReqPartition (m : Master) (parts : Nat) (s : State) : Host.Outcome State Fault Refusal :=
  .next (guarded m 0x004 0x104 s (fun s => reqPart s parts))

/-- ROOT_LOCK_LOSS (R55): counted, and a warm chip reset with cause 8. -/
def execRootLockLoss (excursion : Bool) (s : State) : Host.Outcome State Fault Refusal :=
  .next (if s.life.phase = .off || s.life.phase = .railOff || s.life.phase = .tripped then s
    else
      let s := bump s 0x003 0
      warmDecide (if excursion then bump s 0x003 1 else s) 8 7)

/-- Returns to service (R508). -/
def serviceReturn (s : State) (cause : Nat) : State :=
  if !s.toc.oos then s
  else
    let s := { s with toc := { s.toc with oos := false, fleet := [] } }
    warmDo (setStatus (logRec s 4 0 0 3 0 0x1A0 0 0) 0x1A0 8 false) cause 6

/-- TOC_OOS_ENTER. -/
def execTocOosEnter (m : Master) (s : State) : Host.Outcome State Fault Refusal :=
  .next (guarded m 0x1A0 0x120 s enterOos)

/-- TOC_OOS_RETURN. -/
def execTocOosReturn (m : Master) (s : State) : Host.Outcome State Fault Refusal :=
  .next (guarded m 0x1A0 0x120 s (fun s => serviceReturn s 3))

/-- RETURN_TO_SERVICE from the tray controller over MCTP. -/
def execReturnToService (s : State) : Host.Outcome State Fault Refusal :=
  .next (if s.life.mgtReady then serviceReturn s 5 else s)

/-! ### SYNC_IO (R510, R556) -/

/-- TB_SYNC_CFG.OWNER: 0 none, 1 PPS, 2 strobe. -/
def syncOwner (s : State) : Nat := bits (getR s 0x1F0 0x120) 5 4

/-- A time of the second at which the strobe rises. -/
def strobeEdge (hz t : Nat) : Bool :=
  let k := cdiv (t * hz) Config.tSec
  k < hz && Config.tSec * k / hz == t

/-- A timebase value at which the present owner's output rises. -/
def isEdge (s : State) (t : Nat) : Bool :=
  if syncOwner s = 1 then t % Config.tSec == 0
  else if syncOwner s = 2 then strobeEdge (bits (getR s 0x1F0 0x120) 15 8) (t % Config.tSec)
  else false

/-- The last edge time at or before a timebase value. -/
def edgeBefore (s : State) (t : Nat) : Nat :=
  let sec := t / Config.tSec * Config.tSec
  if syncOwner s = 2 then
    let hz := bits (getR s 0x1F0 0x120) 15 8
    sec + Config.tSec * ((List.range hz).filter (fun k => Config.tSec * k / hz ≤ t - sec)).length.pred / hz
  else sec

/-- The output rises, unless this edge was already produced. -/
def edgeMake (s : State) (at' : Nat) : State :=
  if s.tb.lastEdge.any (fun l => decide (at' ≤ l)) then s
  else
    let w := if syncOwner s = 1 then 100 * Config.tMs else Config.tMs
    { s with tb := { s.tb with lastEdge := some at', pulseEnd := now s + w } }

/-- The level of SYNC_IO: 0 high impedance, 1 low, 2 high. A pulse finishes its width whoever owns the pin. -/
def syncIo (s : State) : Nat := if now s < s.tb.pulseEnd then 2 else if syncOwner s = 0 then 0 else 1

/-- The timebase runs. -/
def tbRuns (s : State) : Bool := (blk s 0x1F0).st != .reset

/-- SYNC_IO_EDGE. -/
def execSyncIoEdge (s : State) : Host.Outcome State Fault Refusal :=
  .next (if tbRuns s && isEdge s (now s) then edgeMake s (now s) else s)

/-- A write of TB_SYNC_CFG: STROBE_HZ outside 1-120 with STROBE_REQ drops it; PPS wins over the strobe. -/
def tbSyncWrite (s : State) (v : Word) : State :=
  if bit v 1 && !inR (bits v 15 8) 1 120 then s
  else
    let both := bit v 0 && bit v 1
    let s := if both then bump s 0x1F0 1 else s
    let strobe := bit v 1 && !bit v 0
    let own := if bit v 0 then 1 else if strobe then 2 else 0
    let was := syncOwner s
    let s := putRV s 0x1F0 0x120 (word (bits v 15 8 <<< 8 ||| own <<< 4 ||| b2n strobe <<< 1 ||| b2n (bit v 0)))
    if own = was then s else { s with tb := { s.tb with lastEdge := some (now s) } }

/-- TB_SYNC_CFG_WRITE. -/
def execTbSyncCfgWrite (m : Master) (v : Word) (s : State) : Host.Outcome State Fault Refusal :=
  .next (guarded m 0x1F0 0x120 s (fun s => tbSyncWrite s v))

/-! ### Discipline (R102, R103, R445) -/

/-- TB_STATUS.STATE. -/
def tbState (s : State) : Nat := bits (getR s 0x1F0 0x104) 3 0

/-- Sets TB_STATUS.STATE. -/
def tbSt (s : State) (v : Nat) : State := putR s 0x1F0 0x104 (setBits (getR s 0x1F0 0x104) 3 0 v)

/-- A stamp moved by a step. -/
def moved (d : Int) (t : Nat) : Nat := ((t : Int) + d).toNat

/-- A step of the timebase: stamps held in ingest move with it, and an edge time it passes is produced once. -/
def tbStep (s : State) (d : Int) : State :=
  let t := now s
  let s := { s with
    tb := { s.tb with t := BitVec.ofNat 64 (moved d t) },
    flows := s.flows.map (fun (q : Nat × Flow) => (q.1, { q.2 with
      held := q.2.held.map (fun h => { h with arrival := moved d h.arrival }), lastArr := moved d q.2.lastArr })) }
  let w := getR s 0x1F0 0x104
  let s := putR s 0x1F0 0x104 (setBits w 31 16 (min (bits w 31 16 + 1) 0xFFFF))
  let e := edgeBefore s (now s)
  if syncOwner s != 0 && t < e then edgeMake s e else s

/-- The servo takes an offset: the first lock steps, then it slews within ±500 ppm, and steps again at 1 ms. -/
def servo (s : State) (f : TbFact) : State :=
  match f.offset with
  | none => s
  | some d =>
    let s := if tbState s = 1 || Config.tMs ≤ d.natAbs then tbStep s d
      else { s with tb := { s.tb with freq := max (-500000000) (min 500000000 f.freq) } }
    tbSt s 2

/-- A write of TB_SRC: SOURCE 3 drops it; a change of SOURCE sets STATE. -/
def tbSrcWrite (s : State) (v : Word) : State :=
  let src := bits v 1 0
  let was := bits (getR s 0x1F0 0x100) 1 0
  if src = 3 then s
  else
    let s := putRV s 0x1F0 0x100 (v &&& 0x7F73#32)
    if src = was then s
    else tbSt { s with tb := { s.tb with lastSync := now s } } (if src = 0 then 0 else 1)

/-- TB_SRC_WRITE. -/
def execTbSrcWrite (m : Master) (v : Word) (s : State) : Host.Outcome State Fault Refusal :=
  .next (guarded m 0x1F0 0x100 s (fun s => tbSrcWrite s v))

/-- PTP_MESSAGE_RECEIVE on the selected port and domain. -/
def execPtpMessageReceive (f : TbFact) (s : State) : Host.Outcome State Fault Refusal :=
  .next (
    let c := getR s 0x1F0 0x100
    if !ready s 0x1F0 || bits c 1 0 != 1 || bits c 6 4 != f.port || bits c 14 8 != f.domain ||
        !bit (getR s (0x170 + f.port / 4) 0x104) (f.port % 4) then s
    else
      let s := match f.leap with
        | some l => { s with life := { s.life with leap := l } }
        | none => s
      let s := servo s f
      if f.sync then { s with tb := { s.tb with lastSync := now s } } else s)

/-- PTP_SYNC_TIMEOUT: HOLDOVER after 10 s without a Sync message. -/
def execPtpSyncTimeout (s : State) : Host.Outcome State Fault Refusal :=
  .next (if bits (getR s 0x1F0 0x100) 1 0 = 1 && ready s 0x1F0 && s.tb.lastSync + 10 * Config.tSec ≤ now s then tbSt s 3
    else s)

/-- PTM_UPDATE. -/
def execPtmUpdate (f : TbFact) (s : State) : Host.Outcome State Fault Refusal :=
  .next (if bits (getR s 0x1F0 0x100) 1 0 = 2 && ready s 0x1F0 && fnReady s 2 && s.pcie.link = 2 && s.pcie.ptmEn then servo s f
    else s)

/-! ### Timers and captures (R510, R557) -/

/-- TB_UTIMER_EXPIRY: counted, and EN clears. -/
def execTbUtimerExpiry (k : Nat) (s : State) : Host.Outcome State Fault Refusal :=
  .next (if k < 6 && tbRuns s && bit (getR s 0x1F0 (0x208 + 16 * k)) 31 && getR64 s 0x1F0 (0x200 + 16 * k) ≤ now s then
      bump (putRV s 0x1F0 (0x208 + 16 * k) 0) 0x1F0 (2 + k)
    else s)

/-- PPS_IN_EDGE. -/
def execPpsInEdge (s : State) : Host.Outcome State Fault Refusal :=
  .next (if tbRuns s then bump (putR64 s 0x1F0 0x130 (now s)) 0x1F0 0 else s)

end Sys2Proof.Machine
end

