-- ==== Sys2Proof/Machine/Life.lean ====
section
/-!
DEFINITION. Machine/Life.lean: bring-up, readiness, quiescing, fences, held commands' time-outs, unit resets and profile
switches (R56, R61-R68, R72-R77, R423, R424, R432, R499, R562).
-/
namespace Sys2Proof.Machine

/-! ### What starts a function (Table 03-4, R62, R74) -/

/-- A page that stands for a power domain that bring-up switches on by itself. -/
def domRep (n : Nat) : Option Nat :=
  if 48 ≤ n && n ≤ 55 then ((List.range 4).map (fun k => 0x100 + 4 * (n - 48) + k)).head?
  else if n = 56 || n = 57 then some (0x120 + (n - 56))
  else if n = 58 || n = 59 then some (0x170 + (n - 58))
  else if 61 ≤ n && n ≤ 64 then some (0x130 + (n - 61))
  else if 65 ≤ n && n ≤ 68 then some (0x128 + (n - 65))
  else none

/-- A domain that bring-up or a profile has to switch on: off, and not by Gong or by a master. -/
def domFresh (s : State) (n : Nat) : Bool := pdState s n = 0 && bits (getR s 0x1B1 (0x100 + 4 * n)) 27 24 ≤ 1

/-- Bring-up requests the domain of a function whose needs are met; `hold` are those whose inrush the cap does not allow
yet. -/
def domStart (hold : List Nat) (src : Nat) (n : Nat) (s : State) : State :=
  match domRep n with
  | none => s
  | some p =>
    if !(domPages s n).isEmpty && domFresh s n && needsMet s p then
      pdReq s n src (!hold.contains n || inR n 58 64)
    else s

/-- Every function whose needs are met starts: its domain ramps, or its block leaves RESET. -/
def startAll (s : State) (hold : List Nat) (src : Nat) : State :=
  let s := forN 69 (domStart hold src) s
  (allPages.filter (fun p => (blk s p).st == .reset && pageOn s p && needsMet s p)).foldl (fun s p => setSt s p .init) s

/-! ### Phase B (R61, R71-R74, R507, R535) -/

/-- Sets NO_PROFILE and ALL_READY of page 0x001. -/
def profShow (s : State) : State :=
  setStatus (setStatus s 0x001 9 (s.life.profile.isNone && s.life.phase == .up)) 0x001 8 (allReady s)

/-- The profile of a reset: the one kept, or that of the slot the pins name; an invalid one is not replaced. -/
def profBoot (s : State) : State :=
  if s.life.profile.isSome then { s with life := { s.life with source := 2 } }
  else
    let r := profVerify s s.life.sel
    { r.1 with life := { r.1.life with profile := r.2, source := if r.2.isSome then 0 else 3, index := s.life.sel } }

/-- Phase B begins: pins, profile, clock divider, and the functions that need nothing else. -/
def phaseB (s : State) (sel modId : Nat) : State :=
  let warm := s.life.phase == .waitB
  let s := if warm then s
    else { s with life := { s.life with sel := sel % 4, modId := modId % 16, profile := none },
                  pcie := { s.pcie with wake := false, d3cold := false } }
  let s := profBoot { s with life := { s.life with phase := .up, groups := 0 } }
  let s := putR s 0x003 0x100 (setBits (getR s 0x003 0x100) 15 8 (profF s 0x102 1 12))
  let s := codeRevs s
  let s := if s.toc.oos then setStatus s 0x1A0 8 true else s
  pcieStart (profShow (startAll s [] 0))

/-- PHASE_B_START: PERST_N is high and a verified image runs, or a warm chip reset has completed. -/
def execPhaseBStart (sel modId : Nat) (s : State) : Host.Outcome State Fault Refusal :=
  .next (if s.life.secReady && (s.life.phase = .waitPerst || s.life.phase = .waitB) then phaseB s sel modId else s)

/-! ### Readiness (R61, R64, R66, R423, R424, R432) -/

/-- Pages that come up with a function's own page. -/
def matesOf (p : Nat) : List Nat :=
  if inR p 0x010 0x03F then (List.range 4).map (engPg (p - 0x010))
  else if inR p 0x130 0x133 then (List.range 8).map (fun k => 0x140 + 8 * (p - 0x130) + k)
  else if p = 0x180 || p = 0x190 || p = 0x1B0 then [p + 1]
  else []

/-- A block that initialises or tests itself. -/
def comingUp (s : State) (p : Nat) : Bool := (blk s p).st == .init || (blk s p).st == .selftest

/-- A page and those of its mates that are coming up move to a state. -/
def bringTo (s : State) (p : Nat) (st : BlkSt) : State :=
  ((matesOf p).filter (comingUp s)).foldl (fun s q => setSt s q st) (setSt s p st)

/-- A lane with a passing window of at least 16 steps in both directions (R423). -/
def laneOk (w : Word) : Bool := decide (16 ≤ bits w 31 24 ∧ 16 ≤ bits w 15 8)

/-- A memory quad's training: kept values restored, or a full training, which leaves every sector of the quad zero. -/
def quadTrained (s : State) (q : Nat) (f : ReadyFact) : State :=
  let full := f.full || !s.life.trained.contains q
  let s := if full then
      let mem := s.mem.filter (fun (c : Host.Cell) => 0x000E00000000 ≤ c.1 || quadOf c.1 != q)
      let s := { s with mem := mem, ecc := s.ecc.filter (fun (e : Nat × List (Nat × Byte)) => quadOf (64 * e.1) != q) }
      forN 160 (fun k s => putR s (0x140 + 8 * q + k / 20) (0x200 + 4 * (k % 20)) (f.eyes.getD k 0)) s
    else s
  let s := { s with life := { s.life with trained := q :: s.life.trained.filter (· != q) } }
  if s.ket.resv.isNone then { s with ket := { s.ket with resv := some (regionOf (q + 1)).1 } } else s

/-- A full training found a narrow lane (R423). -/
def quadFails (s : State) (q : Nat) (f : ReadyFact) : Bool :=
  (f.full || !s.life.trained.contains q) && !(f.eyes.length == 160 && f.eyes.all laneOk)

/-- Resets whose functions are all READY again are over. -/
def rstsDone (s : State) : State :=
  let past := fun (r : Rst) => r.wasReady.all (fun n => if r.level = 4 then fnReady s n else ready s n)
  let left := s.toc.rsts.filter (fun r => !past r)
  if left.length = s.toc.rsts.length then s
  else setStatus { s with toc := { s.toc with rsts := left } } 0x1A0 9 (!left.isEmpty)

/-- A function fails its bring-up; what is held for it is refused (R64, R68). -/
def fnFail (s : State) (p : Nat) : State := heldSettle (bringTo s p .failed)

/-- What follows a function's readiness. -/
def afterReady (s : State) (hold : List Nat) : State := heldSettle (startAll (pcieStart (rstsDone s)) hold 0)

/-- A function's initialisation and self-test are complete. -/
def functionReady (s : State) (fn : Fn) (f : ReadyFact) : State :=
  match fn with
  | .mgmt =>
    if s.life.secReady && !s.life.mgtReady && s.life.phase != .off && s.life.phase != .railOff &&
        s.life.phase != .tripped then
      afterReady (readyEdge { s with life := { s.life with mgtReady := true } } false true) f.hold
    else s
  | .page p =>
    if !comingUp s p || !pageOn s p then s
    else if inR p 0x130 0x133 then
      if quadFails s (p - 0x130) f then fnFail s p
      else afterReady (bringTo (quadTrained s (p - 0x130) f) p .run) f.hold
    else if p = 0x180 then
      afterReady (bringTo { s with pcie := { s.pcie with link := 2, width := f.width, speed := f.speed } } p .run) f.hold
    else if p = 0x1B0 then afterReady (capShow (bringTo s p .run)) f.hold
    else afterReady (bringTo s p .run) f.hold

/-- FUNCTION_READY. -/
def execFunctionReady (fn : Fn) (f : ReadyFact) (s : State) : Host.Outcome State Fault Refusal := .next (functionReady s fn f)

/-- BRINGUP_BOUND_EXPIRY: a block that has not come up within its bound, or whose self-test fails. The management block
has no block state: it stays not ready. -/
def execBringupBoundExpiry (fn : Fn) (s : State) : Host.Outcome State Fault Refusal :=
  .next (match fn with
    | .mgmt => s
    | .page p => if comingUp s p && pageOn s p then fnFail s p else s)

/-- CORE_GROUP_POWER_ON: the next four core domains, once Carillon is ready. -/
def execCoreGroupPowerOn (room : Bool) (s : State) : Host.Outcome State Fault Refusal :=
  .next (if s.life.phase != .up || 12 ≤ s.life.groups || !fnReady s 8 || !fnReady s 102 then s
    else
      let g := s.life.groups
      let s := forN 4 (fun k s =>
        let c := 4 * g + k
        if corePresent s c && domFresh s c && needsMet s (corePg c) then pdReq s c 0 room else s) s
      { s with life := { s.life with groups := g + 1 } })

/-! ### Unit resets that end with the unit READY (R502) -/

/-- UNIT_RESET: a level-2 reset of an engine, decoder, encoder or scaler cluster. -/
def execUnitReset (page cause : Nat) (ok : Bool) (s : State) : Host.Outcome State Fault Refusal :=
  .next (if isEngine page || inR page 0x100 0x121 || inR page 0x128 0x12B then heldSettle (unitReset s page cause ok) else s)

/-- DECODER_HANG_WATCHDOG: a busy decoder without a row for 1 ms is reset by Tocsin; its frame goes back to the head
of its queue, or is concealed whole the second time (R127). -/
def execDecoderHangWatchdog (d : Nat) (ok : Bool) (s : State) : Host.Outcome State Fault Refusal :=
  .next (match (dec s d).job with
    | some j => heldSettle (unitReset (if 1 ≤ j.au.intr then concealWhole s d j else s) (0x100 + d) 2 ok)
    | none => s)

/-- ENCODER_ROW_WATCHDOG: no row for 1 ms while busy: Tocsin resets the encoder (R392). -/
def execEncoderRowWatchdog (e : Nat) (ok : Bool) (s : State) : Host.Outcome State Fault Refusal :=
  .next (if e < 2 && (enc s e).job.isSome then heldSettle (unitReset s (0x120 + e) 2 ok) else s)

/-- SCALER_PIPE_WATCHDOG: a pipe of the cluster with an entry and no output row for 1 ms resets the cluster
(Table 21-5). -/
def execScalerPipeWatchdog (p : Nat) (ok : Bool) (s : State) : Host.Outcome State Fault Refusal :=
  .next (if p < 4 && s.pipes.any (fun q => q.1 / 8 == p) then heldSettle (pipesBusy (unitReset s (sclPage p) 2 ok) p) else s)

/-! ### Work in flight, quiescing (R65, R562) -/

/-- Work that a block has taken up for execution. -/
def inFlight (s : State) (p : Nat) : Bool :=
  if isEngine p then passesOf s ((p - 0x040) / 4) ((p - 0x040) % 4) != 0
  else if inR p 0x010 0x03F then (onCore s (p - 0x010)).any (fun q => !(seq s q.1 q.2).issued.isEmpty)
  else if inR p 0x100 0x11F then (dec s (p - 0x100)).job.isSome
  else if inR p 0x120 0x121 then (enc s (p - 0x120)).job.isSome
  else if inR p 0x128 0x12B then s.pipes.any (fun q => q.1 / 8 == p - 0x128)
  else if inR p 0x140 0x15F then (chan s (p - 0x140)).retrain.isSome
  else if inR p 0x130 0x133 then (List.range 8).any (fun k => (chan s (8 * (p - 0x130) + k)).retrain.isSome)
  else if p = 0x172 then s.flows.any (fun q => !q.2.writing.isEmpty)
  else if p = 0x180 then !s.pcie.np.isEmpty
  else if p = 0x190 then s.ctxs.any (fun q => q.2.st == .evicting || q.2.st == .restoring || q.2.st == .teardown)
  else if p = 0x1E0 then s.peal.migOut.isSome || s.peal.migIn.isSome
  else false

/-- Sets the QUIESCE bit of a page. -/
def putQuiesce (s : State) (p : Nat) (v : Bool) : State :=
  updBlk s p (fun b => { b with ctrl := Tri.all (setBits b.ctrl.maj 0 0 (b2n v)) })

/-- A page with a header. -/
def hasHeader (p : Nat) : Bool := decide (p < 0x200) && !pageReserved p

/-- QUIESCE_SET. -/
def execQuiesceSet (m : Master) (page : Nat) (s : State) : Host.Outcome State Fault Refusal :=
  .next (if !hasHeader page then s else guarded m page 0x014 s (fun s => putQuiesce s page true))

/-- A quiescing block whose work in flight has finished; a cage's held mode change applies (R80). -/
def blockQuiesced (s : State) (page : Nat) : State :=
  if (blk s page).st = .run && quiesceOf (blk s page) && !inFlight s page && pageOn s page then
    let s := setSt s page .quiesced
    if page = 0x170 || page = 0x171 then portModeApply s (page - 0x170) else s
  else s

/-- BLOCK_QUIESCED. -/
def execBlockQuiesced (page : Nat) (s : State) : Host.Outcome State Fault Refusal := .next (blockQuiesced s page)

/-- QUIESCE is written 0. -/
def quiesceClear (s : State) (page : Nat) : State :=
  let s := putQuiesce s page false
  heldSettle (if (blk s page).st = .quiesced then setSt s page .run else s)

/-- QUIESCE_CLEAR. -/
def execQuiesceClear (m : Master) (page : Nat) (s : State) : Host.Outcome State Fault Refusal :=
  .next (if !hasHeader page then s else guarded m page 0x014 s (fun s => quiesceClear s page))

/-! ### Fences (R65, R499) -/

/-- Sets the FENCE bit of a page. -/
def putFence (s : State) (p : Nat) (v : Bool) : State :=
  updBlk s p (fun b => { b with fence := Tri.all (setBits b.fence.maj 0 0 (b2n v)) })

/-- A privileged write of FENCE = 1: the block is FENCED and logged, and what is held for it is refused. -/
def fenceSet (s : State) (page : Nat) : State :=
  let s := putFence s page true
  match (blk s page).st with
  | .run | .updating | .retraining | .quiesced =>
    let s := logRec (setSt s page .fenced) 2 0 0 3 0 page 0 0
    heldSettle { s with toc := { s.toc with fences := tset s.toc.fences page (now s) } }
  | _ => s

/-- FENCE_SET. -/
def execFenceSet (m : Master) (page : Nat) (s : State) : Host.Outcome State Fault Refusal :=
  .next (if !hasHeader page then s else guarded m page 0x018 s (fun s => fenceSet s page))

/-- A fence's drain or cut is over. -/
def fenceOver (s : State) (page : Nat) : State := { s with toc := { s.toc with fences := tdel s.toc.fences page } }

/-- FENCE_DRAIN_COMPLETE: what the block had accepted, and its own requests, have run to completion. -/
def execFenceDrainComplete (page : Nat) (s : State) : Host.Outcome State Fault Refusal :=
  .next (if (tget s.toc.fences page).isSome && !inFlight s page then fenceOver s page else s)

/-- FENCE_CUT: at 100 µs each request still open is ended: a read answers its context with FAULT_FENCED, a write is
discarded, and each is counted. -/
def execFenceCut (page : Nat) (f : CutFact) (s : State) : Host.Outcome State Fault Refusal :=
  .next (match tget s.toc.fences page with
    | none => s
    | some t =>
      if now s < t + 100 * Config.tUs then s
      else
        let s := f.ctxs.foldl (fun s n => ctxFault s n 0x16 page 0) s
        bumpN (fenceOver s page) 0x1A0 7 (f.reads + f.writes))

/-- FENCE is written 0. A block fenced by out of service is not released by it (R507). -/
def fenceClear (s : State) (page : Nat) : State :=
  let s := putFence s page false
  if (blk s page).st = .fenced && !s.toc.oos then setSt (fenceOver s page) page .selftest else s

/-- FENCE_CLEAR. -/
def execFenceClear (m : Master) (page : Nat) (s : State) : Host.Outcome State Fault Refusal :=
  .next (if !hasHeader page then s else guarded m page 0x018 s (fun s => fenceClear s page))

/-! ### Held for 2 s (R68) -/

/-- The window of R68 has passed. -/
def heldLong (s : State) (t : Nat) : Bool := decide (t + 2 * Config.tSec ≤ now s)

/-- A descriptor of a logical core that is held for its target, and since when. -/
def descHeld (s : State) (n lc addr : Nat) : Option (Iss × Nat) :=
  let q := seq s n lc
  match q.issued.find? (fun i => i.addr == addr && i.kind == 8) with
  | some i => if dmaWaits s n lc i then some (i, i.since) else none
  | none =>
    match q.heldAt with
    | some (a, t) => if a = addr && q.pc = addr then some ({ addr := addr, d := [] }, t) else none
    | none => none

/-- A held command reaches an age of 2 s: FAULT_NOT_READY. -/
def heldTimeout (s : State) (h : HeldAt) : State :=
  match h with
  | .port k =>
    match allPorts[k]? with
    | none => s
    | some p =>
      match headDisp s p with
      | some (c, .held) =>
        if switchHolds s p c.op || !heldLong s c.arrival then s
        else heldSettle (portNotReady (setPortQ s p (portQ s p).tail) p c.tag)
      | _ => s
  | .doorbell n =>
    match (ctx s n).heldTails with
    | [] => s
    | (v, t) :: _ => if heldLong s t then tailOne s n v t 0x17 else s
  | .dma n lc addr =>
    match descHeld s n lc addr with
    | none => s
    | some (i, t) =>
      if heldLong s t && seqLive s n lc then bump (seqFault s n lc i 0x17 (corePg (seq s n lc).core)) 0x001 3 else s

/-- HELD_COMMAND_TIMEOUT. -/
def execHeldCommandTimeout (h : HeldAt) (s : State) : Host.Outcome State Fault Refusal := .next (heldTimeout s h)

/-! ### Profile switches (R56, R75-R77) -/

/-- Sets PROFILE_STATUS: LAST_TARGET, RESULT, STATE. -/
def profStatus (s : State) (target result st : Nat) : State :=
  setStatus (putR s 0x002 0x108 (word (target <<< 16 ||| result <<< 8 ||| st))) 0x002 8 (st != 0)

/-- Open contexts. -/
def openCtxs (s : State) : List (Nat × Ctx) := s.ctxs.filter (fun q => q.2.st != .closed)

/-- An open flow's unicast destination differs from a record's PORT_ADDR entry of its own port. -/
def flowMoves (r : List Byte) (x : Flow) : Bool :=
  let v6 := (byteAt x.recd 0).testBit 1
  let dst := slice x.recd 0x18 16
  !isMcast v6 dst && portIp ((r.drop (0x180 + 32 * x.lport)).take 32) v6 != dst

/-- A context holds a core of a partition that a record disables. -/
def holdsOff (r : List Byte) (c : Ctx) : Bool := c.cores.any (fun k => !(byteAt r 0x103).testBit (k / 12))

/-- Table 03-9 against the present load, in the order of its codes; 1 is none. -/
def switchCheck (s : State) (r : List Byte) : Nat :=
  if leAt r 0x104 2 < (openStms s).length || leAt r 0x106 2 < (openFlows s).length || leAt r 0x10C 2 < (openCtxs s).length ||
      1000 * leAt r 0x108 4 < stmRate s then 3
  else if s.ctxs.any (fun q => holdsOff r q.2 && !hdrReloc q.2.hdr) then 4
  else if (openFlows s).any (fun q => flowMoves r q.2) then 5
  else if s.sec.st != .idle || s.blks.any (fun q => q.2.st == .updating || q.2.st == .retraining) then 7
  else if gongState s != 0 || s.gong.low.isSome || s.gong.swell.isSome || !s.gong.shed.isEmpty then 8
  else 1

/-- Relocatable contexts are asked to leave the cores that a switch takes away (R330). -/
def switchEvict (s : State) (r : List Byte) : State :=
  (s.ctxs.filter (fun q => holdsOff r q.2)).foldl (fun s q => askEvict s q.1 .profile) s

/-- PAUSED, EXEC and LOADING of every engine that holds work follow a pause of all engines. -/
def engsShow (s : State) : State :=
  (s.seqs.map (fun (q : Nat × Seq) => q.2.core)).foldl (fun s c => forN 4 (fun e s => engStatus s c e) s) s

/-- GO of PROFILE_SWITCH. -/
def switchGo (s : State) (target : Nat) : State :=
  let s := putRV s 0x002 0x104 (word target)
  if s.life.switchTo.isSome then bump (putR s 0x002 0x108 (word (target <<< 16 ||| 6 <<< 8 ||| 3))) 0x002 1
  else
    let v := profVerify s target
    match v.2 with
    | none => bump (profStatus v.1 target 2 0) 0x002 1
    | some r =>
      let c := switchCheck v.1 r
      if c != 1 then bump (profStatus v.1 target c 0) 0x002 1
      else
        let s := { v.1 with life := { v.1.life with switchTo := some r, switchAt := now s } }
        engsShow (switchEvict (profStatus s target (bits (getR s 0x002 0x108) 11 8) 3) r)

/-- PROFILE_SWITCH. -/
def execProfileSwitch (m : Master) (target : Nat) (s : State) : Host.Outcome State Fault Refusal :=
  .next (guarded m 0x002 0x104 s (fun s => switchGo s (target % 4)))

/-- PROFILE_SWITCH_DECODER_ABANDON: 45 ms after GO; the stream waits for the switch's move. -/
def execProfileSwitchDecoderAbandon (d : Nat) (s : State) : Host.Outcome State Fault Refusal :=
  .next (match s.life.switchTo, (dec s d).job with
    | some r, some j =>
      if (byteAt r 0x103).testBit (d / 8) || now s < s.life.switchAt + 45 * Config.tMs then s
      else bump (updStm (decRequeue s d false) j.stm (fun x => { x with moveWait := true })) 0x002 2
    | _, _ => s)

/-- The quiescent boundary: every engine between passes, and no decoder, scaler pipe or context at work in a partition to
be disabled. -/
def atBoundary (s : State) (r : List Byte) : Bool :=
  let off := fun (q : Nat) => !(byteAt r 0x103).testBit q
  s.seqs.all (fun q => q.2.issued.all (fun i => !(i.isPass && i.begun))) &&
    (List.range 32).all (fun d => !off (d / 8) || (dec s d).job.isNone) &&
    s.pipes.all (fun q => !off (q.1 / 8)) && s.ctxs.all (fun q => !holdsOff r q.2)

/-- Domains of a partition: twelve cores, two decoder clusters, one scaler cluster. -/
def partDomains (q : Nat) : List Nat :=
  (List.range 12).map (12 * q + ·) ++ [48 + 2 * q, 49 + 2 * q, 65 + q]

/-- The lowest partition of a mask. -/
def firstPart (m : Nat) : Nat := if m.testBit 0 then 0 else if m.testBit 1 then 1 else if m.testBit 2 then 2 else 3

/-- R77 in its order; the profile's fields are read from the active record, so that its activation is steps 1 and 4 to
8 at once. -/
def switchApply (s : State) (r : List Byte) : State :=
  let was := partMask s
  let target := bits (getR s 0x002 0x108) 17 16
  let s := capShow { s with life := { s.life with profile := some r, source := 1, index := target, switchTo := none } }
  let div := byteAt r 0x102
  let s := if engDiv s = div then s else bump (putR s 0x003 0x100 (setBits (getR s 0x003 0x100) 15 8 div)) 0x003 2
  let mask := byteAt r 0x103
  let s := { s with sframes := s.sframes.map (fun f =>
    if mask.testBit f.cluster then f else { f with cluster := firstPart mask }) }
  let s := forN 4 (fun q s => if was.testBit q && !mask.testBit q then
      (partDomains q).foldl (fun s n => if pdState s n = 0 then s else bump (domainOff s n 1) 0x1B1 1) s
    else s) s
  let s := { s with stms := s.stms.map (fun (q : Nat × Stm) => (q.1, { q.2 with moveWait := false })) }
  let s := if s.toc.oos || mask &&& was = mask then s else startAll { s with life := { s.life with groups := 0 } } [] 1
  let s := putR64 (profStatus s target 1 0) 0x002 0x10C (now s)
  heldSettle (engsShow (profShow (bump s 0x002 0)))

/-- PROFILE_SWITCH_APPLY: at the quiescent boundary; before it, contexts that still hold a core to be disabled are asked
to leave. -/
def execProfileSwitchApply (s : State) : Host.Outcome State Fault Refusal :=
  .next (match s.life.switchTo with
    | none => s
    | some r => if atBoundary s r then switchApply s r else switchEvict s r)

end Sys2Proof.Machine
end

