-- ==== Sys2Proof/Machine/RegMap.lean ====
section
/-!
DEFINITION. Machine/RegMap.lean: the fields and LO/HI pairs of every register page but the core and engine pages
(chapters 02-24), with the shared command ports (R134, R159, R391).
-/
namespace Sys2Proof.Machine

/-- The page that stores a register: a shared port's registers stand in its first page (log 49). -/
def regHome (page ofs : Nat) : Nat :=
  if ofs < 0x400 || 0xC00 ≤ ofs then page
  else if 0x100 ≤ page && page ≤ 0x11F then 0x100
  else if 0x128 ≤ page && page ≤ 0x12B then 0x128
  else if page = 0x120 || page = 0x121 then 0x120
  else page

/-- The command port whose registers stand in a page. -/
def portAt (page : Nat) : Option Port := allPorts.find? (fun p => p.page == page)

/-- Bytes of a port's status record. -/
def Port.statusN : Port → Nat
  | .flow => 0x60
  | .upd => 0x1C0
  | _ => 0x40

/-- Fields of a command port's registers (R104, R134). -/
def portFlds (p : Port) (ofs : Nat) : List Fld :=
  if ofs = p.cmdOfs then
    [fWoP 31 28, fWoP 23 16, fWoP (match p with
      | .flow => 12
      | .car => 11
      | _ => 9) 0]
  else if ofs = p.cmdOfs + 4 then [fRo 8 0]
  else if ofs = p.cmdOfs + 8 && p != .flow then fCnP
  else if p.stageOfs ≤ ofs && ofs < p.stageOfs + 4 * p.stageN then [fWoP 31 0]
  else if p.statusOfs ≤ ofs && ofs < p.statusOfs + p.statusN then wRoP
  else if p.resOfs ≤ ofs && ofs < p.resOfs + 0x400 then [fRoP 31 28, fRoP 15 0]
  else []

/-- Pages 0x000-0x004 (R50, R66, R70, R75, R55, R60, R534). -/
def globalFlds (page ofs : Nat) : List Fld :=
  if page = 0x000 then
    if ofs = 0x100 then [fRo 23 16, fRo 15 0]
    else if ofs = 0x104 || ofs = 0x108 || ofs = 0x10C then wRo
    else if ofs = 0x110 then [fRoP 31 31, fRoP 30 28, fRoP 27 24, fRoP 23 0] else []
  else if page = 0x001 then if 0x100 ≤ ofs && ofs ≤ 0x10C then wRo else []
  else if page = 0x002 then
    if ofs = 0x100 then [fRo 17 16, fRo 11 8, fRo 5 4, fRo 1 0]
    else if ofs = 0x104 then [fWoP 31 31, fRvP 1 0]
    else if ofs = 0x108 then [fRo 17 16, fRo 11 8, fRo 3 0]
    else if ofs = 0x10C || ofs = 0x110 then wRo
    else if ofs = 0x120 then [fRoP 31 28, fRoP 27 27, fRoP 26 26, fRoP 25 25, fRoP 7 0]
    else if ofs = 0x124 || ofs = 0x128 then wRoP
    else if ofs = 0x12C then [fRoP 6 0] else []
  else if page = 0x003 then if ofs = 0x100 then [fRo 15 8, fRo 4 0] else []
  else if ofs = 0x100 then [fRo 8 8, fRo 3 0]
  else if ofs = 0x104 then [fWoP 31 16, fWoP 7 4, fWoP 3 0] else []

/-- Decoder, encoder and scaler pages (R134, R135, R144, R159, R389-R391). -/
def mediaFlds (page ofs : Nat) : List Fld :=
  if page ≤ 0x11F then
    if ofs = 0x100 then [fRo 31 28, fRo 25 16, fRo 12 0] else if ofs = 0x40C then [fRoP 23 0] else []
  else if page ≤ 0x121 then
    if ofs = 0x100 then [fRo 31 28, fRo 27 23, fRo 22 10, fRo 9 0]
    else if page = 0x120 && (ofs = 0x200 || ofs = 0x204 || ofs = 0x210) then wRwP
    else if page = 0x120 && ofs = 0x208 then [fRvP 31 31, fRvP 14 4, fRvP 3 0]
    else if page = 0x120 && ofs = 0x20C then wRoP else []
  else if 0x200 ≤ ofs && ofs < 0x280 then
    if ofs % 16 < 8 then wRwP
    else if ofs % 16 = 8 then [fRvP 31 31, fRvP 27 16, fRvP 15 8, fRvP 3 0] else wRoP
  else []

/-- Memory quad and channel pages and Kettle (chapter 18). -/
def memFlds (page ofs : Nat) : List Fld :=
  if page ≤ 0x133 then
    if ofs = 0x100 then [fRvP 23 8, fRvP 7 0] else if ofs = 0x104 then [fRvP 7 0]
    else if ofs = 0x108 then [fRvP 9 0] else []
  else if page ≤ 0x15F then
    if ofs = 0x100 then [fRo 31 28, fRo 23 16, fRo 15 8]
    else if ofs = 0x104 then [fWoP 31 31]
    else if ofs = 0x108 || ofs = 0x10C then wRoP
    else if ofs = 0x110 then [fRoP 31 30, fRoP 29 27, fRoP 26 24]
    else if 0x200 ≤ ofs && ofs < 0x250 then wRoP else []
  else if ofs = 0x100 || ofs = 0x104 || (0x1000 ≤ ofs && ofs < 0x1200) then wRoP else []

/-- Ethernet port pages (R79, R101, R374, R560). -/
def netFlds (ofs : Nat) : List Fld :=
  if ofs = 0x100 then [fRvP 5 2, fRvP 0 0]
  else if ofs = 0x104 then [fRo 11 8, fRo 3 0]
  else if ofs = 0x108 then [fRo 31 24, fRo 19 16, fRo 3 0]
  else if 0x200 ≤ ofs && ofs < 0x280 then
    let o := ofs % 0x20
    if o = 0 || o = 4 || o = 0xC then wRwP else if o = 8 then [fRvP 31 31, fRvP 3 0]
    else if o = 0x10 then wRoP else if o = 0x14 then fCnP else []
  else if 0x300 ≤ ofs && ofs < 0x380 then
    let o := ofs % 0x20
    if o = 0 || o = 4 || o = 0x10 then wRwP
    else if o = 8 then [fRvP 31 31, fRvP 30 20, fRvP 7 4, fRvP 3 0]
    else if o = 0xC then wRoP else []
  else []

/-- PCIe and translation pages (chapter 19). -/
def pcieFlds (page ofs : Nat) : List Fld :=
  if page = 0x180 then
    if ofs = 0x100 then [fRo 23 20, fRo 19 16, fRo 12 8, fRo 3 0]
    else if ofs = 0x108 then [fRoP 31 29, fRoP 11 0]
    else if ofs = 0x10C then [fRo 25 16, fRo 9 0]
    else if ofs = 0x110 then [fRvP 1 1, fRvP 0 0]
    else if 0x4000 ≤ ofs && ofs < 0x6000 then [fRwP 9 0] else []
  else if 0x1000 ≤ ofs && ofs < 0x2000 then
    if ofs % 16 = 0 then [fRwP 31 16] else if ofs % 16 = 4 then [fRwP 15 0]
    else if ofs % 16 = 8 then [fRvP 31 31, fRvP 30 30, fRvP 12 0] else []
  else if 0x3000 ≤ ofs && ofs < 0x3400 then
    if ofs % 16 = 0 then [fRwP 31 12] else if ofs % 16 = 4 then wRwP
    else if ofs % 16 = 8 then [fRvP 31 31, fRvP 30 30] else []
  else []

/-- Carillon's page (R251, R332, R353, R373). -/
def carFlds (ofs : Nat) : List Fld :=
  if 0x100 ≤ ofs && ofs ≤ 0x10C then [fRvP 16 0]
  else if ofs = 0x110 then [fRvP 31 0] else if ofs = 0x114 then [fRvP 15 0] else if ofs = 0x118 then [fRvP 7 0]
  else if ofs = 0x120 || ofs = 0x124 then [fRoP 27 16, fRoP 11 0]
  else if 0x128 ≤ ofs && ofs ≤ 0x130 then wRoP
  else if 0x134 ≤ ofs && ofs ≤ 0x13C then fCnP
  else if 0x800 ≤ ofs && ofs < 0x1800 then
    if ofs % 16 = 0 then wRwP else if ofs % 16 = 4 then [fRvP 31 31, fRvP 30 30, fRvP 11 0]
    else if ofs % 16 = 8 then [fRoP 31 16, fRoP 15 0] else wRoP
  else if 0x3000 ≤ ofs && ofs < 0x4000 then
    let o := ofs % 0x40
    if o = 0 then [fRoP 31 28, fRoP 27 16, fRoP 8 0] else if o = 8 then [fRoP 26 18, fRoP 17 9, fRoP 8 0]
    else if o = 0xC then [fRoP 16 0] else if o < 0x20 then wRoP else fCnP
  else if 0x4000 ≤ ofs && ofs < 0x6000 then
    let o := ofs % 0x20
    if o = 0 then [fRoP 31 30, fRoP 29 29] else if o = 8 then wRwP else if o = 0x14 then fCnP
    else if o = 0x1C then [] else wRoP
  else if ofs = 0x6000 || ofs = 0x6004 || ofs = 0x6020 then wRoP
  else if ofs = 0x6008 then [fRvP 31 31, fRvP 7 0]
  else if ofs = 0x600C then [fRoP 12 0]
  else if 0x6010 ≤ ofs && ofs ≤ 0x601C then fCnP
  else []

/-- The context table window (R308). -/
def ctxwFlds (ofs : Nat) : List Fld :=
  if ofs = 0x100 then [fRwP 11 0] else if 0x200 ≤ ofs && ofs < 0x280 then wRoP else []

/-- Tocsin's page (R495, R496, R505, R506). -/
def tocFlds (ofs : Nat) : List Fld :=
  if ofs = 0x100 || ofs = 0x114 then wRoP
  else if ofs = 0x104 || ofs = 0x108 || ofs = 0x10C || ofs = 0x118 then wRwP
  else if ofs = 0x110 then [fRvP 31 31, fRvP 14 4, fRvP 3 0]
  else if ofs = 0x11C then [fRo 31 31, fRoP 27 24]
  else if ofs = 0x120 then [fWoP 31 16, fWoP 1 1, fWoP 0 0]
  else if ofs = 0x124 then [fRoP 31 28, fRoP 27 20, fRoP 19 16, fRoP 9 0]
  else if 0x8000 ≤ ofs then wRoP else []

/-- Gong, the power domains and slot emulation (chapter 20, R466). PD_STATE64-71 and PD_CTRL0-7 share offsets: a read
shows the state, a write acts on the control (log 50). -/
def gongFlds (page ofs : Nat) : List Fld :=
  if page = 0x1B0 then
    if ofs = 0x100 then [fRo 27 16, fRo 11 0]
    else if ofs = 0x104 then [fRo 31 16, fRo 15 0]
    else if ofs = 0x108 then [fRo 31 28, fRo 27 24, fRo 23 20, fRo 13 7]
    else if ofs = 0x10C then [fRoP 26 16, fRoP 10 0]
    else if ofs = 0x110 then [fRvP 1 1, fRvP 0 0]
    else if ofs = 0x114 || ofs = 0x118 then wRwP
    else if ofs = 0x11C then wRo
    else if ofs = 0x120 || (0x1000 ≤ ofs && ofs < 0x3000) then wRoP else []
  else if page = 0x1B1 then
    if 0x100 ≤ ofs && ofs < 0x220 then [fRo 31 28, fRo 27 24]
    else if 0x220 ≤ ofs && ofs < 0x320 then [fWoP 1 1, fWoP 0 0] else []
  else if ofs = 0x100 then [fRo 3 0]
  else if ofs = 0x104 then [fRvP 8 8, fRvP 3 2, fRvP 1 0] else []

/-- Rattle and Peal (R401, R412, R536). -/
def ratFlds (page ofs : Nat) : List Fld :=
  if page = 0x1D0 then
    if (0x100 ≤ ofs && ofs ≤ 0x108) || (0x110 ≤ ofs && ofs ≤ 0x11C) then wRwP
    else if ofs = 0x120 then [fWoP 0 0]
    else if 0x130 ≤ ofs && ofs ≤ 0x13C then wRoP
    else if 0x200 ≤ ofs && ofs < 0x240 then
      if ofs % 16 = 0 then [fRoP 31 28, fRoP 27 16] else if ofs % 16 = 12 then wRwP else wRoP
    else []
  else if ofs = 0x100 then [fRvP 31 31, fRvP 5 0]
  else if 0x200 ≤ ofs && ofs < 0x300 then
    if ofs % 16 = 0 then [] else if ofs % 16 = 4 then wRwP else if ofs % 16 = 8 then [fRvP 31 31]
    else [fRo 31 28, fRoP 27 24]
  else if ofs = 0x300 then wRoP
  else []

/-- The MSI-X table and PBA (R458). -/
def msixFlds (page ofs : Nat) : List Fld :=
  if page = 0x200 && ofs < 0x8000 then
    if ofs % 16 = 12 then [⟨0, 0, .rw, .any⟩] else [⟨31, 0, .rw, .any⟩]
  else if page = 0x202 && ofs < 0x100 then wRo else []

/-- Fields of a register of a page from 0x100 up, but for a command port's. -/
def ownFlds (page ofs : Nat) : List Fld :=
  if page ≤ 0x004 then globalFlds page ofs
  else if page ≤ 0x03F then coreFlds ofs
  else if page ≤ 0x0FF then engFlds ofs
  else if page ≤ 0x12B then mediaFlds page ofs
  else if page ≤ 0x160 then memFlds page ofs
  else if page = 0x170 || page = 0x171 then netFlds ofs
  else if page = 0x180 || page = 0x181 then pcieFlds page ofs
  else if page = 0x190 then carFlds ofs
  else if page = 0x191 then ctxwFlds ofs
  else if page = 0x1A0 then tocFlds ofs
  else if 0x1B0 ≤ page && page ≤ 0x1B2 then gongFlds page ofs
  else if page = 0x1D0 || page = 0x1E0 then ratFlds page ofs
  else if page = 0x1F0 then tbFlds ofs
  else []

/-- Fields of a register; none where no register stands (R32). -/
def regFlds (page ofs : Nat) : List Fld :=
  if pageMsix page then msixFlds page ofs
  else if ofs < 0x100 then hdrFlds page ofs
  else
    match portAt (regHome page ofs) with
    | some p => if portFlds p ofs = [] then ownFlds page ofs else portFlds p ofs
    | none => ownFlds page ofs

/-- A field of code RV in a register. -/
def hasRv (page ofs : Nat) : Bool := (regFlds page ofs).any (fun f => f.acc == .rv)

/-- The bits of code RV in a register. -/
def rvMask (page ofs : Nat) : Word :=
  (regFlds page ofs).foldl (fun w f => if f.acc == .rv then w ||| maskW f.hi f.lo else w) 0

/-- A register is the LO half of a LO/HI pair (R30). -/
def regLo (page ofs : Nat) : Bool :=
  if page = 0x002 then ofs = 0x10C
  else if page < 0x100 || page = 0x1F0 then coreLo page ofs
  else if page = 0x120 then ofs = 0x200
  else if 0x128 ≤ page && page ≤ 0x12B then 0x200 ≤ ofs && ofs < 0x280 && ofs % 16 = 0
  else if 0x140 ≤ page && page ≤ 0x15F then ofs = 0x108
  else if page = 0x160 then ofs = 0x100
  else if page = 0x170 || page = 0x171 then
    ((0x200 ≤ ofs && ofs < 0x280) || (0x300 ≤ ofs && ofs < 0x380)) && ofs % 0x20 = 0
  else if page = 0x181 then ((0x1000 ≤ ofs && ofs < 0x2000) || (0x3000 ≤ ofs && ofs < 0x3400)) && ofs % 16 = 0
  else if page = 0x190 then
    ofs = 0x110 || (0x3000 ≤ ofs && ofs < 0x4000 && ofs % 0x40 = 0x14) ||
      (0x4000 ≤ ofs && ofs < 0x6000 && ofs % 0x20 = 0xC) || ofs = 0x6000
  else if page = 0x1A0 then ofs = 0x108
  else if page = 0x1B0 then ofs = 0x114
  else if page = 0x1E0 then 0x200 ≤ ofs && ofs < 0x300 && ofs % 16 = 0
  else false

end Sys2Proof.Machine
end

