-- ==== Sys2Proof/Machine/RegView.lean ====
section
/-!
DEFINITION. Machine/RegView.lean: the value of every register: the stored word, or a view of the state it shows.
-/
namespace Sys2Proof.Machine

/-- A READY_MAP register: map bits 32k to 32k + 31 (R66). -/
def readyWord (s : State) (k : Nat) : Word :=
  word ((List.range 32).foldl (fun a i => a + b2n (decide (32 * k + i < 103) && fnReady s (32 * k + i)) <<< i) 0)

/-- PLL_STATUS: the divider in force, with the references and locks of a powered module. -/
def pllWord (s : State) : Word :=
  let on := s.life.phase != .off && s.life.phase != .railOff && s.life.phase != .tripped
  let quad := (List.range 4).any (fun q => ready s (0x130 + q))
  word (engDiv s <<< 8 ||| b2n on <<< 4 ||| b2n s.life.refclk <<< 3 ||| b2n quad <<< 2 ||| b2n on <<< 1 ||| b2n on)

/-- Table 22-6 codes. -/
def UpdSt.code : UpdSt → Nat
  | .idle => 0
  | .verifying => 1
  | .staged => 2
  | .activating => 3
  | .pending => 4
  | .committing => 5

/-- Pages 0x000-0x004. -/
def globalView (s : State) (page ofs : Nat) : Word :=
  if page = 0x000 && ofs = 0x100 then word (partId s)
  else if page = 0x000 && ofs = 0x104 then word (unitPresent0 s.part)
  else if page = 0x000 && ofs = 0x108 then word (unitPresent1 s.part)
  else if page = 0x000 && ofs = 0x10C then word (unitPresent2 s.part)
  else if page = 0x001 && 0x100 ≤ ofs && ofs ≤ 0x10C then readyWord s ((ofs - 0x100) / 4)
  else if page = 0x002 && ofs = 0x100 then
    word (s.life.sel <<< 16 ||| s.life.validMask <<< 8 ||| s.life.source <<< 4 ||| s.life.index)
  else if page = 0x002 && ofs = 0x120 then
    word (s.sec.st.code <<< 28 ||| b2n s.sec.imageInvalid <<< 27 ||| b2n s.sec.owner.isSome <<< 26 |||
      b2n s.sec.wpLow <<< 25 ||| s.sec.active % 256)
  else if page = 0x002 && ofs = 0x124 then word (secCtr s 0)
  else if page = 0x002 && ofs = 0x128 then word ((s.sec.booted.map (fun b => b.svn)).getD 0)
  else if page = 0x002 && ofs = 0x12C then word s.sec.pct
  else if page = 0x003 && ofs = 0x100 then pllWord s
  else getR s page ofs

/-- DEC_STATE. -/
def decStateW (s : State) (d : Nat) : Word :=
  match (dec s d).job with
  | none => 0
  | some j => word (2 <<< 28 ||| j.stm <<< 16 ||| (dec s d).row)

/-- ENC_STATE. -/
def encStateW (s : State) (e : Nat) : Word :=
  let clips := (clipsOf s e).length <<< 23
  match (enc s e).job with
  | none => word clips
  | some (.clip n _ _) => word (1 <<< 28 ||| clips ||| (enc s e).row <<< 10 ||| n)
  | some (.snap x) => word (2 <<< 28 ||| clips ||| (enc s e).row <<< 10 ||| x.stm)

/-- Decoder and encoder pages. -/
def mediaView (s : State) (page ofs : Nat) : Word :=
  if page ≤ 0x11F && ofs = 0x100 then decStateW s (page - 0x100)
  else if page ≤ 0x11F && ofs = 0x40C then word (stmRate s)
  else if page = 0x120 && ofs = 0x100 then encStateW s 0
  else if page = 0x121 && ofs = 0x100 then encStateW s 1
  else getR s (regHome page ofs) ofs

/-- MC_STATE: a channel that trains for the first time shows 5. -/
def mcStateW (s : State) (c : Nat) : Word :=
  let x := chan s c
  word ((if (blk s (0x140 + c)).st = .init then 5 else x.st) <<< 28 ||| x.temp <<< 16 ||| x.reads <<< 8)

/-- KET_POOL_STATEn and KET_POOL_SIZEn. -/
def poolW (s : State) (n : Nat) (size : Bool) : Word :=
  match pool s n with
  | none => 0
  | some p =>
    if size then word (p.log2 <<< 27 ||| p.nblocks)
    else word (0x80000000 ||| p.region <<< 28 ||| b2n p.broken <<< 27 ||| p.free)

/-- Memory quad and channel pages and Kettle. -/
def memView (s : State) (page ofs : Nat) : Word :=
  if 0x140 ≤ page && page ≤ 0x15F && ofs = 0x100 then mcStateW s (page - 0x140)
  else if page = 0x160 && ofs = 0x100 then word (s.ket.resv.getD 0)
  else if page = 0x160 && ofs = 0x104 then word (s.ket.resv.getD 0 / 2 ^ 32)
  else if page = 0x160 && 0x1000 ≤ ofs && ofs < 0x1200 then poolW s ((ofs - 0x1000) / 8) (ofs % 8 == 4)
  else getR s page ofs

/-- PCIE_LINK and PCIE_NP_OUT. -/
def pcieView (s : State) (page ofs : Nat) : Word :=
  if page = 0x180 && ofs = 0x100 then
    word (s.pcie.dstate <<< 20 ||| s.pcie.link <<< 16 ||| s.pcie.width <<< 8 ||| s.pcie.speed)
  else if page = 0x180 && ofs = 0x10C then word (npLimit s <<< 16 ||| s.pcie.np.length)
  else getR s page ofs

/-- Contexts of a class that are WAITING. -/
def waitingOf (s : State) (k : Nat) : Nat :=
  (s.ctxs.filter (fun (q : Nat × Ctx) => q.2.st == .waiting && byteAt q.2.recd 0 == k)).length

/-- SEQB registers of a batch that show its state. -/
def seqbView (s : State) (b o : Nat) : Word :=
  let x := batch s b
  let pages := (x.slots.map (fun (q : Nat × SeqSlot) => q.2.pages.length)).sum + b2n (x.st != 0)
  if o = 0 then word (x.st <<< 28 ||| leAt x.recd 0 2 <<< 16 ||| x.slots.length)
  else if o = 4 then word x.step
  else if o = 8 then word (x.parkedN <<< 18 ||| x.waitN <<< 9 ||| x.rowsN)
  else if o = 0xC then word pages
  else if o = 0x10 then word x.joinCons
  else if o = 0x14 then word x.commitAt
  else if o = 0x18 then word (x.commitAt / 2 ^ 32)
  else if o = 0x1C then word x.stepMax
  else getR s 0x190 (0x3000 + 0x40 * b + o)

/-- OUT_STATE of an outlet. -/
def outStateW (s : State) (n : Nat) : Word :=
  let x := outlet s n
  word (x.kind <<< 30 ||| b2n (x.kind == 2 && !linkUp s (byteAt x.recd 1)) <<< 29)

/-- Carillon's page. -/
def carView (s : State) (ofs : Nat) : Word :=
  if ofs = 0x120 then word (waitingOf s 1 <<< 16 ||| waitingOf s 0)
  else if ofs = 0x124 then word (waitingOf s 3 <<< 16 ||| waitingOf s 2)
  else if 0x800 ≤ ofs && ofs < 0x1800 then
    let k := (ofs - 0x800) / 16
    if ofs % 16 = 0 then clv s k
    else if ofs % 16 = 8 then
      word ((tgetD s.returns k []).length <<< 16 ||| (s.leases.filter (fun (l : Nat × Nat × Nat × Nat) => l.1 == k)).length)
    else if ofs % 16 = 12 then tgetD s.claveLast k 0
    else getR s 0x190 ofs
  else if 0x3000 ≤ ofs && ofs < 0x4000 then seqbView s ((ofs - 0x3000) / 0x40) ((ofs - 0x3000) % 0x40)
  else if 0x4000 ≤ ofs && ofs < 0x6000 && ofs % 0x20 = 0 then outStateW s ((ofs - 0x4000) / 0x20)
  else if ofs = 0x6000 then word (trkBase s)
  else if ofs = 0x6004 then word (trkBase s / 2 ^ 32)
  else if ofs = 0x600C then word (min (stageLen s) 4096)
  else getR s 0x190 ofs

/-- The context table window: Tables 13-14 and 13-1 of CTXW_SEL's context. -/
def ctxwView (s : State) (ofs : Nat) : Word :=
  let n := bits (getR s 0x191 0x100) 11 0
  if 0x200 ≤ ofs && ofs < 0x240 then word (leAt (ctxStatus s n) (ofs - 0x200) 4)
  else if 0x240 ≤ ofs && ofs < 0x280 then word (leAt (ctx s n).recd (ofs - 0x240) 4)
  else getR s 0x191 ofs

/-- Warm chip resets kept inside the current fleet window (R506). -/
def fleetCount (s : State) : Nat :=
  (s.toc.fleet.filter (fun t => decide (now s ≤ t + profF s 0x124 4 600 * Config.tSec ∧ t < now s))).length

/-- Tocsin's page. -/
def tocView (s : State) (ofs : Nat) : Word :=
  if ofs = 0x11C then word (b2n s.toc.oos <<< 31 ||| fleetCount s <<< 24)
  else if 0x8000 ≤ ofs then word (leAt (tgetD s.toc.log ((ofs - 0x8000) / 32) []) ((ofs - 0x8000) % 32) 4)
  else getR s 0x1A0 ofs

/-- Streams at a shed level. -/
def shedN (s : State) (k : Nat) : Nat := (s.gong.shed.filter (fun (q : Nat × Nat) => q.2 == k)).length

/-- Gong's page. -/
def gongView (s : State) (ofs : Nat) : Word :=
  if ofs = 0x10C then word (shedN s 2 <<< 16 ||| shedN s 1)
  else if 0x1000 ≤ ofs && ofs < 0x3000 then
    word (leAt (tgetD s.gong.log ((ofs - 0x1000) / 32) []) ((ofs - 0x1000) % 32) 4)
  else getR s 0x1B0 ofs

/-- Rattle's page: the jobs. -/
def ratView (s : State) (ofs : Nat) : Word :=
  if 0x200 ≤ ofs && ofs < 0x240 then
    let j := (ofs - 0x200) / 16
    if ofs % 16 = 0 then word ((ajob s j).st <<< 28 ||| (ajob s j).ctx <<< 16)
    else if ofs % 16 = 4 then word (ajob s j).step
    else getR s 0x1D0 ofs
  else getR s 0x1D0 ofs

/-- Peal's page: the peers. -/
def pealView (s : State) (ofs : Nat) : Word :=
  if 0x200 ≤ ofs && ofs < 0x300 && ofs % 16 = 12 then
    let p := tgetD s.peal.peers ((ofs - 0x200) / 16) {}
    word (p.st <<< 28 ||| p.cause <<< 24)
  else getR s 0x1E0 ofs

/-- A register of a page from 0x100 up that belongs to no command port. -/
def ownView (s : State) (page ofs : Nat) : Word :=
  if page ≤ 0x004 then globalView s page ofs
  else if page ≤ 0x03F then coreView s page ofs
  else if page ≤ 0x0FF then engView s page ofs
  else if page ≤ 0x12B then mediaView s page ofs
  else if page ≤ 0x160 then memView s page ofs
  else if page = 0x180 then pcieView s page ofs
  else if page = 0x190 then carView s ofs
  else if page = 0x191 then ctxwView s ofs
  else if page = 0x1A0 then tocView s ofs
  else if page = 0x1B0 then gongView s ofs
  else if page = 0x1D0 then ratView s ofs
  else if page = 0x1E0 then pealView s ofs
  else if page = 0x1F0 then tbView s ofs
  else getR s page ofs

/-- The present value of a register, before masks. -/
def regView (s : State) (page ofs : Nat) : Word :=
  if pageMsix page then getR s page ofs
  else if ofs < 0x100 then hdrView s page ofs
  else
    match portAt (regHome page ofs) with
    | some p =>
      if ofs = p.cmdOfs + 4 then word (portQ s p).length
      else if portFlds p ofs = [] then ownView s page ofs
      else getR s p.page ofs
    | none => ownView s page ofs

end Sys2Proof.Machine
end

