-- ==== Sys2Proof/Machine/Bus.lean ====
section
/-!
DEFINITION. Machine/Bus.lean: register reads, register writes, voting and the crossing time-out (R29-R36, R41-R48, R70).
-/
namespace Sys2Proof.Machine

/-! ### Voting (R42, R43) -/

/-- The copies of a voted register. -/
def copiesOf (s : State) (page ofs : Nat) : Tri :=
  if ofs = 0x014 then (blk s page).ctrl
  else if ofs = 0x018 then (blk s page).fence
  else (tget s.rvs (rkey page ofs)).getD (Tri.all (getR s page ofs))

/-- Replaces the copies of a voted register. -/
def setCopies (s : State) (page ofs : Nat) (t : Tri) : State :=
  if ofs = 0x014 then setBlk s page { blk s page with ctrl := t }
  else if ofs = 0x018 then setBlk s page { blk s page with fence := t }
  else { s with rvs := tset s.rvs (rkey page ofs) t }

/-- One upset: bits of one copy of a voted field turn over. -/
def upsetOne (page : Nat) (s : State) (u : Upset) : State :=
  let m := u.mask &&& rvMask page u.ofs
  if m = 0 then s
  else
    let t := copiesOf s page u.ofs
    setCopies s page u.ofs
      (if u.copy = 0 then { t with a := t.a ^^^ m } else if u.copy = 1 then { t with b := t.b ^^^ m }
        else { t with c := t.c ^^^ m })

/-- Upsets of voted fields of a page. -/
def upsets (s : State) (page : Nat) (l : List Upset) : State := l.foldl (upsetOne page) s

/-- How many copies of a field differ from the majority. -/
def disagree (t : Tri) (m : Word) : Nat :=
  b2n ((t.a ^^^ t.maj) &&& m != 0) + b2n ((t.b ^^^ t.maj) &&& m != 0) + b2n ((t.c ^^^ t.maj) &&& m != 0)

/-- Counts a disagreement in BLK_VOTE_ERR, requests its interrupt, and counts it in page 0x000 (R42, R46, R50). -/
def voteCount (s : State) (page ofs : Nat) (two : Bool) : State :=
  let b := blk s page
  let n := bits b.voteErr 15 0
  let w := word (b2n two <<< 30 ||| (ofs / 4 % 2 ^ 14) <<< 16 ||| min (n + 1) 0xFFFF)
  let s := setBlk s page { b with voteErr := w }
  if n = 0xFFFF then s
  else
    let s := if bit b.irqMask 23 then s else irqReq s page
    bump s 0x000 6

/-- Reads one voted register: each field whose copies disagree is counted, and the copies are rewritten. -/
def scrub (s : State) (page ofs : Nat) : State :=
  let t := copiesOf s page ofs
  let bad := (regFlds page ofs).filter (fun f => f.acc == .rv && disagree t (maskW f.hi f.lo) != 0)
  if bad.isEmpty then s
  else
    let s := setCopies s page ofs (Tri.all t.maj)
    bad.foldl (fun s f => voteCount s page ofs (disagree t (maskW f.hi f.lo) == 2)) s

/-- Voted registers of a page whose copies may differ. -/
def votedOf (s : State) (page : Nat) : List Nat :=
  [0x014, 0x018] ++ ((s.rvs.filter (fun (e : Nat × Tri) => e.1 / 0x10000 == page)).map (fun e => e.1 % 0x10000))

/-- RV_BACKGROUND_SWEEP: a page reads, scrubs and counts every voted field. -/
def execRvBackgroundSweep (page : Nat) (u : List Upset) (s : State) : Host.Outcome State Fault Refusal :=
  .next (if hasHeader page && pageOn s page then
      let s := upsets s page u
      (votedOf s page).foldl (fun s o => scrub s page o) s
    else s)

/-! ### Reads (R30-R35, R39, R41, R48, R70) -/

/-- Answers a read with a word. -/
def answer (s : State) (w : Word) : State := { s with out := .data (leBytes 4 w.toNat) :: s.out }

/-- A latched HI half or READY_MAP word is returned once; otherwise the present value. -/
def latched (s : State) (page ofs : Nat) : State × Word :=
  match tget s.latch (rkey page ofs) with
  | some w => ({ s with latch := tdel s.latch (rkey page ofs) }, w)
  | none => (s, regView s page ofs)

/-- Latches the present value of a register. -/
def latchSet (page : Nat) (s : State) (ofs : Nat) : State :=
  { s with latch := tset s.latch (rkey page ofs) (regView s page ofs) }

/-- A read that reaches a register. -/
def regRead (s : State) (m : Master) (page ofs : Nat) : State :=
  let fs := regFlds page ofs
  let s := if guardHit m page ofs fs then account s 0 1 m false page ofs else s
  let s := if hasRv page ofs then scrub s page ofs else s
  let s := if regLo page ofs then latchSet page s (ofs + 4) else s
  let s := if page = 0x001 && ofs = 0x100 then [0x104, 0x108, 0x10C].foldl (latchSet page) s else s
  let r := if regLo page ofs then (s, regView s page ofs) else latched s page ofs
  answer r.1 (r.2 &&& readMask m page ofs fs)

/-- A register read by a master: byte enables make no difference. -/
def busRead (s : State) (m : Master) (page ofs : Nat) : State :=
  let ofs := ofs % 0x10000 / 4 * 4
  match accessOf s m page ofs with
  | .unserved => if m = .host then unserved s false else s
  | .reserved => answer (account s 4 5 m false page ofs) 0
  | .off => answer (account s 2 3 m false page ofs) 0xFFFFFFFF#32
  | .fenced => answer (account s 5 6 m false page ofs) 0xFFFFFFFF#32
  | .reach => regRead s m page ofs

/-- REGISTER_READ. -/
def execRegisterRead (m : Master) (page ofs : Nat) (s : State) : Host.Outcome State Fault Refusal := .next (busRead s m page ofs)

/-- LO_READ_LATCH: a read of the LO half of a pair. -/
def execLoReadLatch (m : Master) (page ofs : Nat) (s : State) : Host.Outcome State Fault Refusal :=
  .next (if regLo page ofs then busRead s m page ofs else s)

/-- RV_FIELD_READ: a read of a voted field, after the upsets that its copies have suffered. -/
def execRvFieldRead (m : Master) (page ofs : Nat) (u : List Upset) (s : State) : Host.Outcome State Fault Refusal :=
  .next (if hasRv page ofs && pageOn s page then busRead (upsets s page u) m page ofs else s)

/-- READY_MAP_READ_LATCH: a read of READY_MAP0. -/
def execReadyMapReadLatch (m : Master) (s : State) : Host.Outcome State Fault Refusal := .next (busRead s m 0x001 0x100)

/-! ### Writes (R30-R36, R45, R46) -/

/-- The bits of a word in the fields of one access code. -/
def accMask (fs : List Fld) (a : Acc) : Word := fs.foldl (fun w f => if f.acc == a then w ||| maskW f.hi f.lo else w) 0

/-- A write by access codes alone (Table 02-2): RV fields set their copies, RW fields take the value, zero clears a
count, and the rest is ignored. -/
def plainWrite (s : State) (page ofs : Nat) (v : Word) : State :=
  let fs := regFlds page ofs
  let h := regHome page ofs
  let rv := accMask fs .rv
  let rw := accMask fs .rw
  if rv != 0 then putRV s h ofs ((getR s h ofs &&& ~~~ rv) ||| (v &&& rv))
  else if rw != 0 then putR s h ofs ((getR s h ofs &&& ~~~ rw) ||| (v &&& rw))
  else if accMask fs .cn != 0 && v = 0 then putR s h ofs 0
  else s

/-- A write of BLK_CTRL: PAUSE or DISPATCH_HOLD, then QUIESCE. -/
def ctrlWrite (s : State) (page : Nat) (v : Word) : State :=
  let s := if isEngine page then enginePause s page (bit v 8)
    else if 0x100 ≤ page && page ≤ 0x121 then
      updBlk s page (fun b => { b with ctrl := Tri.all (setBits b.ctrl.maj 8 8 (b2n (bit v 8))) })
    else s
  if bit v 0 then putQuiesce s page true else quiesceClear s page

/-- A write of a header register. -/
def hdrWrite (s : State) (page ofs : Nat) (v : Word) : State :=
  if ofs = 0x014 then ctrlWrite s page v
  else if ofs = 0x018 then (if bit v 0 then fenceSet s page else fenceClear s page)
  else if 0x020 ≤ ofs && ofs ≤ 0x03C then
    (if v = 0 then setBlk s page { blk s page with cnt := tset (blk s page).cnt ((ofs - 0x020) / 4) 0 } else s)
  else if ofs = 0x040 then updBlk s page (fun b => { b with irqMask := v })
  else if ofs = 0x044 then setBlk s page { blk s page with irqRoute := v &&& 0x800007FF#32 }
  else if ofs = 0x080 then
    (if v = 0 then setBlk s page { blk s page with voteErr := setBits (blk s page).voteErr 15 0 0 } else s)
  else s

/-- A write of a command port's registers. -/
def portWrite (s : State) (m : Master) (p : Port) (ofs : Nat) (v : Word) : State :=
  if ofs = p.cmdOfs then
    portCmd p m (bits v 31 28) (bits v 23 16)
      (match p with
        | .flow => bits v 12 0
        | .car => bits v 11 0
        | _ => bits v 9 0) (portOpOf p (bits v 31 28)) s
  else if p.stageOfs ≤ ofs && ofs < p.stageOfs + 4 * p.stageN then putR s p.page ofs v
  else if ofs = p.cmdOfs + 8 && p != .flow then (if v = 0 then putR s p.page ofs 0 else s)
  else s

/-- A LOG2 field that is out of range with EN = 1 drops the write. -/
def ringBad (v : Word) (hi lo a b : Nat) : Bool := bit v 31 && !inR (bits v hi lo) a b

/-- A write that its register's description drops although no command row stands for it (the ranges of chapters 04, 06,
13, 15, 16, 18, 21). -/
def writeDropped (s : State) (page ofs : Nat) (v : Word) : Bool :=
  if page = 0x120 && ofs = 0x208 then ringBad v 3 0 4 12
  else if 0x128 ≤ page && page ≤ 0x12B && 0x200 ≤ ofs && ofs < 0x280 && ofs % 16 = 8 then
    bit v 31 && (bits v 27 16 == 0 || !inR (bits v 3 0) 4 8)
  else if 0x130 ≤ page && page ≤ 0x133 && ofs = 0x104 then decide (168 < bits v 7 0)
  else if 0x130 ≤ page && page ≤ 0x133 && ofs = 0x108 then !inR (bits v 9 0) 10 1000
  else if (page = 0x170 || page = 0x171) && 0x200 ≤ ofs && ofs < 0x280 && ofs % 0x20 = 8 then ringBad v 3 0 4 12
  else if (page = 0x170 || page = 0x171) && 0x300 ≤ ofs && ofs < 0x380 && ofs % 0x20 = 8 then
    ringBad v 3 0 4 12 || ringBad v 7 4 11 14
  else if page = 0x190 && 0x100 ≤ ofs && ofs ≤ 0x10C then ofs == 0x100 || !inR (bits v 16 0) 100 100000
  else if page = 0x190 && (ofs = 0x110 || ofs = 0x114) then s.ctxs.any (fun (q : Nat × Ctx) => urgentOpen s q.1)
  else if page = 0x190 && ofs = 0x118 then
    s.ctxs.any (fun (q : Nat × Ctx) => urgentOpen s q.1) || !inR (bits v 7 0) 23 56
  else if page = 0x1A0 && ofs = 0x110 then ringBad v 3 0 6 14
  else false

/-- Bits of CAR_URGENT_MASK of present cores. -/
def presentMask (s : State) (ofs : Nat) : Word := word (if ofs = 0x110 then unitPresent0 s.part else unitPresent1 s.part)

/-- SLOT_CTRL: an indicator code of 00b drops the write; POWER_OFF stays once set (R466, R467). -/
def slotCtrlWrite (s : State) (v : Word) : State :=
  if bits v 3 2 = 0 || bits v 1 0 = 0 then s
  else
    let s := putRV s 0x1B2 0x104 ((getR s 0x1B2 0x104 &&& 0x100#32) ||| (v &&& 0xF#32))
    if bit v 8 then slotPowerOff s else s

/-- RESET_REQ: a wrong key or level drops the write and counts it. -/
def resetReqWrite (s : State) (v : Word) : State :=
  if bits v 31 16 != 0xC960 then bump s 0x004 2
  else if bits v 3 0 = 1 then reqWarm s
  else if bits v 3 0 = 2 then reqPart s (bits v 7 4)
  else bump s 0x004 2

/-- TOC_OOS_CMD. -/
def oosCmdWrite (s : State) (v : Word) : State :=
  if bits v 31 16 != 0x5E4C || (bit v 0 && bit v 1) then s
  else if bit v 1 then enterOos s
  else if bit v 0 then serviceReturn s 3
  else s

/-- PD_CTRLn; a direct write takes the power cap to have room. -/
def pdCtrlWrite (s : State) (n : Nat) (v : Word) : State :=
  if bit v 0 && bit v 1 then bump s 0x1B1 2
  else if bit v 1 then pdOnWrite s n true
  else if bit v 0 then pdOffWrite s n
  else s

/-- What follows a plain write: rings that gain space or are enabled, and pending interrupts that are unmasked. -/
def afterWrite (s : State) (page ofs : Nat) : State :=
  if page = 0x120 && 0x200 ≤ ofs && ofs ≤ 0x210 then encCplDrain s s.encCpl.length
  else if 0x128 ≤ page && page ≤ 0x12B && 0x200 ≤ ofs && ofs < 0x280 && ofs % 16 = 8 then
    ringCheck s (page - 0x128) ((ofs - 0x200) / 16)
  else if (page = 0x170 || page = 0x171) && 0x200 ≤ ofs && ofs < 0x280 && ofs % 0x20 = 8 then
    ptxGo s (4 * (page - 0x170) + (ofs - 0x200) / 0x20)
  else if page = 0x200 && ofs < 0x8000 then msixPend s (ofs / 16)
  else s

/-- A write of a block's own register. -/
def ownWrite (s : State) (page ofs : Nat) (v : Word) : State :=
  if page = 0x002 && ofs = 0x104 then
    (if bit v 31 then switchGo s (bits v 1 0) else putRV s 0x002 0x104 (v &&& 3))
  else if page = 0x004 && ofs = 0x104 then resetReqWrite s v
  else if 0x010 ≤ page && page ≤ 0x03F && ofs = 0x408 then spDebugWrite s (page - 0x010) v
  else if isEngine page && ofs = 0x130 then engInject s page v
  else if 0x140 ≤ page && page ≤ 0x15F && ofs = 0x104 then (if bit v 31 then retrainStart s (page - 0x140) else s)
  else if (page = 0x170 || page = 0x171) && ofs = 0x100 then portCtrlWrite s (page - 0x170) v
  else if (page = 0x170 || page = 0x171) && 0x200 ≤ ofs && ofs < 0x280 && ofs % 0x20 = 0xC then
    ptxTailWrite s (4 * (page - 0x170) + (ofs - 0x200) / 0x20) v
  else if page = 0x181 && 0x1000 ≤ ofs && ofs < 0x2000 && ofs % 16 = 8 then xltCfgWrite s ((ofs - 0x1000) / 16) v
  else if page = 0x181 && 0x3000 ≤ ofs && ofs < 0x3400 && ofs % 16 = 8 then outwCfgWrite s ((ofs - 0x3000) / 16) v
  else if page = 0x190 && 0x800 ≤ ofs && ofs < 0x1800 && ofs % 16 = 0 then clvSet s ((ofs - 0x800) / 16) v
  else if page = 0x1A0 && ofs = 0x120 then oosCmdWrite s v
  else if page = 0x1B1 && 0x200 ≤ ofs && ofs < 0x320 then pdCtrlWrite s ((ofs - 0x200) / 4) v
  else if page = 0x1B2 && ofs = 0x104 then slotCtrlWrite s v
  else if page = 0x1D0 && ofs = 0x120 then rngGoWrite s v
  else if page = 0x1E0 && ofs = 0x100 then pealCfgWrite s v
  else if page = 0x1E0 && 0x200 ≤ ofs && ofs < 0x300 && ofs % 16 = 8 then peerCfgWrite s ((ofs - 0x200) / 16) v
  else if page = 0x1F0 && ofs = 0x100 then tbSrcWrite s v
  else if page = 0x1F0 && ofs = 0x120 then tbSyncWrite s v
  else if page = 0x190 && (ofs = 0x110 || ofs = 0x114) then
    (if writeDropped s page ofs v then s else plainWrite s page ofs (v &&& presentMask s ofs))
  else if writeDropped s page ofs v then s
  else afterWrite (plainWrite s page ofs v) page ofs

/-- A write that reaches a register whose guard its master meets. -/
def regWrite (s : State) (m : Master) (page ofs : Nat) (v : Word) : State :=
  if !pageMsix page && ofs < 0x100 then hdrWrite s page ofs v
  else
    match portAt (regHome page ofs) with
    | some p => if portFlds p ofs = [] then ownWrite s page ofs v else portWrite s m p ofs v
    | none => ownWrite s page ofs v

/-- A register write by a master. A user context writes no register: the write is ignored and counted as guarded. -/
def busWrite (s : State) (m : Master) (be page ofs : Nat) (v : Word) : State :=
  let ofs := ofs % 0x10000 / 4 * 4
  let a := accessOf s m page ofs
  if a = .unserved then (if m = .host then unserved s true else s)
  else if be % 16 != 0xF then account s 3 4 m true page ofs
  else if a = .reserved then account s 4 5 m true page ofs
  else if a = .off then account s 2 3 m true page ofs
  else if a = .fenced then account s 5 6 m true page ofs
  else if m = .user || guardHit m page ofs (regFlds page ofs) then account s 0 1 m true page ofs
  else regWrite s m page ofs v

/-- REGISTER_WRITE. -/
def execRegisterWrite (m : Master) (be page ofs : Nat) (v : Word) (s : State) : Host.Outcome State Fault Refusal :=
  .next (busWrite s m be page ofs v)

/-! ### The crossing time-out (R47) -/

/-- REGISTER_CROSSING_TIMEOUT: 4 µs after page decode a read completes with all ones, and a write is discarded; an access
that needs no crossing does not meet it. -/
def execRegisterCrossingTimeout (m : Master) (wr : Bool) (page ofs : Nat) (s : State) : Host.Outcome State Fault Refusal :=
  .next (if accessOf s m page ofs != .reach then s
    else
      let s := account s 1 2 m wr page ofs
      if wr then s else answer s 0xFFFFFFFF#32)

end Sys2Proof.Machine
end

