-- ==== Sys2Proof/Machine/Vec.lean ====
section
/-!
DEFINITION. Machine/Vec.lean: VEC calls and the programs of the vector library whose effects the spec states: window
programs (R267, R268), top-k (R350), optimiser state (R218), draws (R396-R400), TRK_POST, TRK_UPDATE and EMIT (R356-R371).
-/
namespace Sys2Proof.Machine

/-- H[k] of a VEC (Table 09-11). -/
def Iss.h (i : Iss) (k : Nat) : Nat := byteAt i.d (0xA + k)

/-- ARG[k] of a VEC. -/
def Iss.arg (i : Iss) (k : Nat) : Nat := leAt i.d (0x10 + 4 * k) 4

/-- PROG of a VEC. -/
def Iss.prog' (i : Iss) : Nat := leAt i.d 8 2

/-- VPROG_N of the context's model (Table 13-6). -/
def vprogN (s : State) (n : Nat) : Nat := leAt (ctx s n).model 4 2

/-- The H indices that a program reads. -/
def vecUses (s : State) (i : Iss) : VecProg → List Nat
  | .trkPost _ => if tEmb (trkSet s (i.arg 0)).recd = 0 then [0, 1] else [0, 1, 2]
  | .trkUpdate => []
  | .emit _ _ => [0]
  | .window _ _ => [0]
  | .topK _ _ _ => [0]
  | .topKMerge _ _ => [0]
  | .optDecode _ => [0, 1]
  | .optEncode _ _ => [0, 1]
  | .mask _ _ _ => []
  | .words _ _ => []
  | .other r _ => r

/-- The H indices that a program writes. -/
def vecPuts : VecProg → List Nat
  | .window _ _ => [1]
  | .topK _ _ _ => [1]
  | .topKMerge _ _ => [1]
  | .optDecode _ => [2]
  | .optEncode _ _ => [2]
  | .mask _ _ _ => [0]
  | .words _ _ => [0]
  | .other _ w => w.map (·.1)
  | _ => []

/-- The result of a program: the state it leaves and the fault that stopped it. -/
abbrev VRes := State × Option Nat

/-- Runs steps in order until one faults. -/
def vSteps {α : Type} (f : α → State → VRes) : List α → State → VRes
  | [], s => (s, none)
  | x :: t, s =>
    match f x s with
    | (s', some e) => (s', some e)
    | (s', none) => vSteps f t s'

/-- Collects values in order until one faults. -/
def vCollect {α β : Type} (f : α → State → State × β × Option Nat) : List α → State → State × List β × Option Nat
  | [], s => (s, [], none)
  | x :: t, s =>
    match f x s with
    | (s', _, some e) => (s', [], some e)
    | (s', v, none) =>
      let r := vCollect f t s'
      (r.1, v :: r.2.1, r.2.2)

/-! ### Window programs (R255, R267, R268) -/

/-- The elements of a run of bytes as raw words; INT4 elements are nibbles, the lower channel low (R192). -/
def rawRun (fmt : Nat) (l : List Byte) : List Nat :=
  if fmt = 1 then l.flatMap (fun b => [b.toNat % 16, b.toNat / 16])
  else
    let w := elemW fmt / 8
    (List.range (l.length / w)).map (fun k => leAt l (w * k) w)

/-- The value of a raw element. -/
def rawFl (fmt v : Nat) : Fl :=
  if fmt = 1 then .ofInt (sext 4 v) else if fmt = 4 then bf16.dec v else if fmt = 5 then fp16.dec v
  else if fmt = 6 then f32 v else byteElem fmt v

/-- The block b of an input position: its raw elements. -/
def winRead (n lc : Nat) (i : Iss) (g : WinGeo) (fmt b : Nat) (p : Nat × Nat) (s : State) :
    State × List Nat × Option Nat :=
  let r := hRead s n lc i (i.h 0) (g.inOfs + b * g.inBlk + p.1 * g.inRow + p.2 * blkBytes fmt g.bs) (blkBytes fmt g.bs)
  (r.1, rawRun fmt r.2.1, r.2.2)

/-- In-bounds input positions (row, column) of the window of an output position, in raster order. -/
def winAt (g : WinGeo) (oy ox : Nat) : List (Nat × Nat) :=
  (List.range g.kh).flatMap (fun ky => (List.range g.kw).filterMap (fun kx =>
    let y : Int := ((oy * g.sh + ky : Nat) : Int) - g.pt
    let x : Int := ((ox * g.sw + kx : Nat) : Int) - g.pl
    if 0 ≤ y && y < g.inH && 0 ≤ x && x < g.inW then some (y.toNat, x.toNat) else none))

/-- Output size of a window program: width and height. -/
def winSize (op : WinOp) (g : WinGeo) : Nat × Nat :=
  match op with
  | .poolGavg => (1, 1)
  | .resizeNn => (g.inW * g.fx, g.inH * g.fy)
  | .resizeBl => (g.outW, g.outH)
  | _ => (winOut g.inW (g.pl + g.pr) 1 g.kw g.sw, winOut g.inH (g.pt + g.pb) 1 g.kh g.sh)

/-- The geometry obeys R267 and Table 10-4. -/
def winOk (op : WinOp) (g : WinGeo) (fmt : Nat) : Bool :=
  let size := winSize op g
  let pool := inR g.kh 1 15 && inR g.kw 1 15 && inR g.sh 1 8 && inR g.sw 1 8 && decide (g.pt < g.kh) && decide (g.pb < g.kh) &&
    decide (g.pl < g.kw) && decide (g.pr < g.kw)
  (g.bs == 16 || g.bs == 32) && (fmt != 1 || g.bs == 32) && decide (fmt ≤ 6) && 1 ≤ g.inW && 1 ≤ g.inH && 1 ≤ size.1 &&
    1 ≤ size.2 &&
    (match op with
     | .poolMax => pool
     | .poolMin => pool
     | .poolAvg _ => pool
     | .poolGavg => true
     | .resizeNn => inR g.fx 1 8 && inR g.fy 1 8
     | .resizeBl => true)

/-- The element that POOL_MAX or POOL_MIN copies: a NaN if any element is NaN (R268). -/
def pickRaw (mx : Bool) (fmt : Nat) (l : List Nat) : Nat :=
  match l.find? (fun v => (rawFl fmt v).isNan) with
  | some v => v
  | none =>
    match l with
    | [] => 0
    | v :: t => t.foldl (fun a b =>
      if mx then (if (rawFl fmt a).lt (rawFl fmt b) then b else a)
      else (if (rawFl fmt b).lt (rawFl fmt a) then b else a)) v

/-- Sum of a window's elements: exact of INT8 and INT4, in FP32 with RNE in raster order of the others (R268). -/
def winSum (fmt : Nat) (l : List Nat) : Fl :=
  if fmt ≤ 1 then flSum (l.map (rawFl fmt)) else (l.map (rawFl fmt)).foldl fAdd (.ofNat 0)

/-- Writes one block of raw elements of the output. -/
def winWrite (n lc : Nat) (i : Iss) (g : WinGeo) (fmt b oy ox : Nat) (l : List Nat) (s : State) : VRes :=
  hWrite s n lc i (i.h 1) (g.outOfs + b * g.outBlk + oy * g.outRow + ox * blkBytes fmt g.bs) (packRun fmt g.bs l)

/-- Output positions of a window program with their block. -/
def winOuts (op : WinOp) (g : WinGeo) : List (Nat × Nat × Nat) :=
  let z := winSize op g
  (List.range z.2).flatMap (fun y => (List.range z.1).flatMap (fun x => (List.range g.blocks).map (fun b => (y, x, b))))

/-- A program that copies elements bit for bit and records the input's format and scale with the output (R268, R279). -/
def winCopy (n lc : Nat) (i : Iss) (op : WinOp) (g : WinGeo) (fmt scale : Nat) (s : State) : VRes :=
  let r := vSteps (fun (o : Nat × Nat × Nat) s =>
    let src := match op with
      | .resizeNn => [(o.1 / g.fy, o.2.1 / g.fx)]
      | _ => winAt g o.1 o.2.1
    let v := vCollect (winRead n lc i g fmt o.2.2) src s
    match v.2.2 with
    | some e => (v.1, some e)
    | none =>
      let out := (List.range g.bs).map (fun c => pickRaw (op == .poolMax) fmt (v.2.1.map (fun l => l.getD c 0)))
      winWrite n lc i g fmt o.2.2 o.1 o.2.1 out v.1) (winOuts op g) s
  match r with
  | (s, none) => (hTensor s n lc (i.h 1 % 64) fmt scale, none)
  | e => e

/-- The values of one output block of POOL_AVG, POOL_GAVG or RESIZE_BL as FP32 words (R268, log 44). -/
def winAvg (n lc : Nat) (i : Iss) (op : WinOp) (g : WinGeo) (fmt scale : Nat) (o : Nat × Nat × Nat) (s : State) :
    State × List Nat × Option Nat :=
  let sc := f32 scale
  match op with
  | .resizeBl =>
    let px := samplePos 0 g.inW g.outW o.2.1
    let py := samplePos 0 g.inH g.outH o.1
    let fx := phase64 px
    let fy := phase64 py
    let x := px.floor
    let y := py.floor
    let taps := [(edge g.inH y, edge g.inW x), (edge g.inH y, edge g.inW (x + 1)), (edge g.inH (y + 1), edge g.inW x),
      (edge g.inH (y + 1), edge g.inW (x + 1))]
    let wts := [(64 - fx) * (64 - fy), fx * (64 - fy), (64 - fx) * fy, fx * fy]
    let v := vCollect (winRead n lc i g fmt o.2.2) taps s
    (v.1, (List.range g.bs).map (fun c =>
      let t := (v.2.1.zip wts).foldl (fun a q => fAdd a (fMul (rawFl fmt (q.1.getD c 0)) (.frac q.2 4096))) (.ofNat 0)
      (fl32 (t.mul sc)).w32), v.2.2)
  | _ =>
    let src := match op with
      | .poolGavg => (List.range g.inH).flatMap (fun y => (List.range g.inW).map (fun x => (y, x)))
      | _ => winAt g o.1 o.2.1
    let k := match op with
      | .poolAvg true => g.kh * g.kw
      | _ => src.length
    let v := vCollect (winRead n lc i g fmt o.2.2) src s
    (v.1, (List.range g.bs).map (fun c =>
      (((winSum fmt (v.2.1.map (fun l => l.getD c 0))).mul sc).div (.ofNat k)).w32), v.2.2)

/-- A row of output values as a drain group of R207, so that its conversion is the drain's. -/
def winGrp (i : Iss) (g : WinGeo) (oy : Nat) (vals : List (List Nat)) : Grp :=
  let d := putAt (putAt (putAt (putAt (zeros 64) 0xA (leBytes 2 vals.length)) 0x10 (leBytes 1 (i.h 1))) 0x14
    (leBytes 4 (g.outOfs + oy * g.outRow))) 0x18 (leBytes 4 g.outBlk)
  { entry := g.entry, iss := { i with d := d }, bs := g.bs, vals := vals }

/-- Writes computed values: FP32, or under a scale entry (R207, R268); a CROSSED entry is written at the level its
WIDE_CLAVE holds (log 44). -/
def winConv (n lc : Nat) (i : Iss) (g : WinGeo) (rows : List (List (List Nat))) (s : State) : VRes :=
  let gs := ((List.range rows.length).zip rows).map (fun q => winGrp i g q.1 q.2)
  if g.entry = 0xFFFF then
    let r := vSteps (fun q s => let w := writeGroup s n lc q 6 0x3F800000; (w.1, w.2.2)) gs s
    (hTensor r.1 n lc (i.h 1 % 64) 6 0x3F800000, r.2)
  else
    let eb := if g.entry < scaleN s n then unitRead s (scaleTab s n + 128 * g.entry) 128 else (s, [], true)
    let s := eb.1
    if !eb.2.2 then (s, some 8)
    else if scaleN s n ≤ g.entry || !entryOk eb.2.1 then (s, some 4)
    else
      let ent := scaleEnt s n g.entry
      let crossed := crossedEnt s n g.entry
      if crossed && !clvOwned s (leAt ent 2 2) n then (s, some 0x0C)
      else
        let f0 := byteAt ent 1
        let lv := if crossed then levelOf (clv s (leAt ent 2 2)).toNat else 0
        let fmt := levelFmt f0 lv
        let a := gs.foldl (fun a q => max a (groupMax q [] false)) 0
        let staged := byteAt ent 0 % 4 == 2 || leAt ent 8 4 == 0
        let sc := if 4 ≤ f0 || (byteAt ent 0).testBit 4 then 0x3F800000
          else if staged then scaleOf a f0 else scaleOf (leAt ent 12 4) f0
        let r := vSteps (fun q s =>
          let w := writeGroup s n lc q fmt sc
          (addCnts w.1 (lcPg s n lc) w.2.1, w.2.2)) gs s
        match r.2 with
        | some e => (r.1, some e)
        | none => (recordScale (hTensor r.1 n lc (i.h 1 % 64) fmt sc) n g.entry a sc lv, none)

/-- A window program (Table 10-4), counted in WIN_VEC when it completes. -/
def winRun (n lc : Nat) (i : Iss) (op : WinOp) (g : WinGeo) (s : State) : VRes :=
  match href s n lc (i.h 0 % 64) with
  | none => (s, some 3)
  | some h =>
    if !h.scr then (s, some 3)
    else if !winOk op g h.fmt then (s, some 4)
    else
      let r := match op with
        | .poolMax | .poolMin | .resizeNn => winCopy n lc i op g h.fmt h.scale s
        | _ =>
          let z := winSize op g
          let v := vCollect (fun (y : Nat) s => vCollect (fun (xb : Nat × List Nat) s =>
              let q := vCollect (fun (b : Nat) s => winAvg n lc i op g h.fmt h.scale (y, xb.1, b) s) xb.2 s
              (q.1, q.2.1.flatten, q.2.2)) ((List.range z.1).map (fun x => (x, List.range g.blocks))) s)
            (List.range z.2) s
          match v.2.2 with
          | some e => (v.1, some e)
          | none => winConv n lc i g v.2.1 v.1
      match r with
      | (s, none) => (bumpR s (lcPg s n lc) 0x398 1, none)
      | e => e

/-! ### Top-k (R350) -/

/-- The order of R350: a value before b. NaNs are left out first. -/
def logitBefore (a b : Nat × Nat) : Bool :=
  let x := f32 a.2
  let y := f32 b.2
  y.lt x || (!(x.lt y) && decide (a.1 < b.1))

/-- The top k pairs (token, logit), padded with the empty pair. -/
def topPairs (k : Nat) (l : List (Nat × Nat)) : List (Nat × Nat) :=
  let t := (sortBy logitBefore (l.filter (fun (q : Nat × Nat) => !(f32 q.2).isNan))).take k
  t ++ List.replicate (k - t.length) (0xFFFFFFFF, 0x7FC00000)

/-- Pairs as bytes. -/
def pairBytes (l : List (Nat × Nat)) : List Byte := l.flatMap (fun q => leBytes 4 q.1 ++ leBytes 4 q.2)

/-- Reads logits or pairs, and writes the top k. -/
def topRun (n lc : Nat) (i : Iss) (len k : Nat) (dec : List Byte → List (Nat × Nat)) (s : State) : VRes :=
  let r := hRead s n lc i (i.h 0) 0 len
  match r.2.2 with
  | some e => (r.1, some e)
  | none => hWrite r.1 n lc i (i.h 1) 0 (pairBytes (topPairs k (dec r.2.1)))

/-! ### Draws (R396-R399) -/

/-- A stream number and draw site that a library program may name. -/
def drawOk (a : DrawArg) : Bool :=
  !(a.stream == 0 || (6 ≤ a.stream && a.stream ≤ 0xFFFF)) && decide (1024 ≤ a.site ∧ a.site ≤ 65535)

/-- SEED and STEP of the binding block (R398). -/
def seedStep (s : State) (n lc : Nat) : State × Except Nat (Nat × Nat) :=
  match href s n lc 60 with
  | none => (s, .error 3)
  | some h =>
    if h.scr then (s, .error 3)
    else
      let r := unitRead s h.base 16
      (r.1, if r.2.2 then .ok (leAt r.2.1 0 8, leAt r.2.1 8 8) else .error 8)

/-- Runs a program under a draw argument. -/
def withDraw (n lc : Nat) (a : DrawArg) (f : Nat → Nat → State → VRes) (s : State) : VRes :=
  if !drawOk a then (s, some 4)
  else
    match seedStep s n lc with
    | (s, .error e) => (s, some e)
    | (s, .ok (seed, step)) => f seed (callOf step a.site) s

/-- n mask bits, the lower element in the lower bit (R399, log 44). -/
def maskBytes (seed stream call tbase p n : Nat) : List Byte :=
  (List.range (cdiv n 8)).map (fun b => BitVec.ofNat 8 ((List.range 8).foldl (fun v k =>
    if 8 * b + k < n && drawMask seed stream call (tbase + 8 * b + k) < p then v + 2 ^ k else v) 0))

/-! ### Optimiser state (R218) -/

/-- A table of R218: strictly ascending, T[255] = 1, and signed or non-negative. -/
def optTableOk (t : List Fl) : Bool :=
  (t.zip t.tail).all (fun q => q.1.lt q.2) && (t.getD 255 .nan).eqv (.ofNat 1) &&
    ((t.getD 0 .nan).isZero || ((t.getD 0 .nan).eqv (.ofInt (-1)) && t.any Fl.isZero))

/-- The code nearest to x; a tie takes the smaller |T[i]|. -/
def optNearest (t : List Fl) (x : Fl) : Nat :=
  ((List.range 256).foldl (fun (b : Nat) k =>
    let db := (x.sub (t.getD b .nan)).abs
    let dk := (x.sub (t.getD k .nan)).abs
    if dk.lt db || (dk.eqv db && (t.getD k .nan).abs.lt (t.getD b .nan).abs) then k else b) 0)

/-- The code of x under stochastic rounding with the element's value u. -/
def optSto (t : List Fl) (x : Fl) (u : Nat) : Nat :=
  match (List.range 255).find? (fun k => (t.getD k .nan).le x && x.lt (t.getD (k + 1) .nan)) with
  | none => if x.lt (t.getD 0 .nan) then 0 else 255
  | some k =>
    let a := t.getD k .nan
    let b := t.getD (k + 1) .nan
    let th := (Fl.ofNat 256).mul ((Fl.ofNat 1).sub ((x.sub a).div (b.sub a)))
    if th.le (.ofNat u) then k + 1 else k

/-- Codes of a block's values; the code of a NaN is open (log 44). -/
def optCodes (code : Nat → Fl → Nat) (vs : List Fl) (s : State) : State × List Byte × Fl :=
  let b := vs.foldl (fun (a : Fl) v => a.max v.abs) (.ofNat 0)
  let r := ((List.range vs.length).zip vs).foldl (fun (acc : State × List Byte) q =>
    if q.2.isNan then ({ acc.1 with free := acc.1.free + 1 }, acc.2 ++ [Config.freeByte acc.1.free])
    else
      let x := if b.isZero then Fl.ofNat 0 else q.2.div b
      if x.isNan then ({ acc.1 with free := acc.1.free + 1 }, acc.2 ++ [Config.freeByte acc.1.free])
      else (acc.1, acc.2 ++ [BitVec.ofNat 8 (code q.1 x)])) (s, [])
  (r.1, r.2, b)

/-- Reads the table of an optimiser program. -/
def optTable (n lc : Nat) (i : Iss) (s : State) : State × List Fl × Option Nat :=
  let r := hRead s n lc i (i.h 1) 0 1024
  let t := (List.range 256).map (fun k => f32 (leAt r.2.1 (4 * k) 4))
  (r.1, t, match r.2.2 with
    | some e => some e
    | none => if optTableOk t then none else some 4)

/-- Decoding of optimiser blocks of 260 bytes: B, then 256 codes. -/
def optDecodeRun (n lc : Nat) (i : Iss) (blocks : Nat) (s : State) : VRes :=
  match optTable n lc i s with
  | (s, _, some e) => (s, some e)
  | (s, t, none) =>
    vSteps (fun (k : Nat) s =>
      let r := hRead s n lc i (i.h 0) (260 * k) 260
      match r.2.2 with
      | some e => (r.1, some e)
      | none =>
        let b := f32 (leAt r.2.1 0 4)
        hWrite r.1 n lc i (i.h 2) (1024 * k)
          ((r.2.1.drop 4).flatMap (fun c => leBytes 4 (fMul b (t.getD c.toNat .nan)).w32))) (List.range blocks) s

/-- Encoding of optimiser blocks. -/
def optEncodeRun (n lc : Nat) (i : Iss) (blocks : Nat) (code : List Fl → Nat → Fl → Nat) (s : State) : VRes :=
  match optTable n lc i s with
  | (s, _, some e) => (s, some e)
  | (s, t, none) =>
    vSteps (fun (k : Nat) s =>
      let r := hRead s n lc i (i.h 0) (1024 * k) 1024
      match r.2.2 with
      | some e => (r.1, some e)
      | none =>
        let vs := (List.range 256).map (fun j => f32 (leAt r.2.1 (4 * j) 4))
        let c := optCodes (fun j x => code t (256 * k + j) x) vs r.1
        hWrite c.1 n lc i (i.h 2) (260 * k) (leBytes 4 c.2.2.w32 ++ c.2.1)) (List.range blocks) s

/-! ### Tracking programs (R359, R361, R371) -/

/-- TRK_POST: the list in H[0], the frame's record behind the MEM handle H[1], embeddings in H[2], the stm in ARG[0]. -/
def vTrkPost (n lc : Nat) (i : Iss) (count : Nat) (s : State) : VRes :=
  let sid := i.arg 0
  let x := trkSet s sid
  let l := hRead s n lc i (i.h 0) 0 (32 * count)
  match l.2.2, href s n lc (i.h 1 % 64) with
  | some e, _ => (l.1, some e)
  | _, none => (l.1, some 3)
  | none, some g =>
    if g.scr then (l.1, some 3)
    else if !x.on then (l.1, none)
    else
      let dets := (List.range count).map (fun k => (l.2.1.drop (32 * k)).take 32)
      let dim := tEmb x.recd
      let em := if dim = 0 then (l.1, [], none) else
        vCollect (fun (d : List Byte) s =>
          if leAt d 0x18 4 = 0xFFFFFFFF then (s, zeros (2 * dim), none)
          else hRead s n lc i (i.h 2) (leAt d 0x18 4) (2 * dim)) (postKept x.recd dets) l.1
      match em.2.2 with
      | some e => (em.1, some e)
      | none => (trkPost em.1 sid (g.base + iselOf i (i.h 1)) (leAt (ctx s n).recd 4 2 % 256) dets em.2.1.flatten, none)

/-- TRK_UPDATE: the post block behind handle 63 names the set (R360). -/
def vTrkUpdate (n lc : Nat) (s : State) : VRes :=
  match href s n lc 63 with
  | none => (s, some 3)
  | some h => (trkUpdate s (leAt (rdMem s (h.base + 2) 2) 0 2), none)

/-- Records of a run of bytes, by their LEN. -/
def splitRecs : Nat → List Byte → List (List Byte)
  | 0, _ => []
  | k + 1, l => if l.isEmpty then [] else l.take (64 * max 1 (recLen l)) :: splitRecs k (l.drop (64 * max 1 (recLen l)))

/-- EMIT: the records in H[0] go to the staging queue, and the encoder sees them (R371, R380). -/
def vEmit (n lc : Nat) (i : Iss) (o k : Nat) (s : State) : VRes :=
  let r := hRead s n lc i (i.h 0) 0 (64 * k)
  match r.2.2 with
  | some e => (r.1, some e)
  | none => ((splitRecs k r.2.1).foldl (fun s x => evidTrigger (stageRec s o x) (leAt x 4 2) x) r.1, none)

/-! ### The call (R356) -/

/-- Runs a program. -/
def vecProg (n lc : Nat) (i : Iss) (p : VecProg) (s : State) : VRes :=
  match p with
  | .trkPost c => vTrkPost n lc i c s
  | .trkUpdate => vTrkUpdate n lc s
  | .emit o k => vEmit n lc i o k s
  | .window op g => winRun n lc i op g s
  | .topK first m k => topRun n lc i (4 * m) k (fun l => (List.range m).map (fun j => (first + j, leAt l (4 * j) 4))) s
  | .topKMerge m k =>
    topRun n lc i (8 * m) k (fun l =>
      ((List.range m).map (fun j => (leAt l (8 * j) 4, leAt l (8 * j + 4) 4))).filter
        (fun (q : Nat × Nat) => q.1 != 0xFFFFFFFF)) s
  | .optDecode b => optDecodeRun n lc i b s
  | .optEncode b none => optEncodeRun n lc i b (fun t _ x => optNearest t x) s
  | .optEncode b (some a) =>
    withDraw n lc a (fun seed call s =>
      optEncodeRun n lc i b (fun t j x => optSto t x (drawU seed a.stream call ((a.tbase + j) % 2 ^ 64))) s) s
  | .mask m p a =>
    withDraw n lc a (fun seed call s => hWrite s n lc i (i.h 0) 0 (maskBytes seed a.stream call a.tbase p m)) s
  | .words m a =>
    withDraw n lc a (fun seed call s => hWrite s n lc i (i.h 0) 0
      ((List.range m).flatMap (fun k => leBytes 4 (drawW seed a.stream call ((a.tbase + k) % 2 ^ 64))))) s
  | .other _ w => vSteps (fun (q : Nat × Nat × List Byte) s => hWrite s n lc i (i.h q.1) q.2.1 q.2.2) w s

/-- Marks the handles that a tagged call writes PROVISIONAL before it writes (R293). -/
def vecMarks (s : State) (n lc : Nat) (i : Iss) (w : List Nat) : State :=
  match i.tag with
  | none => s
  | some t => w.foldl (fun s k =>
    match href s n lc (i.h k % 64) with
    | some r => if r.prov || r.ro || !r.scr then s
                else hTensor (hProv s n lc (i.h k % 64) true t false) n lc (i.h k % 64) 0xFF 0x3F800000
    | none => s) s

/-- What the PROVISIONAL handles of a call ask: 0 goes on, 1 waits, 2 faults (R293). -/
def vecGates (s : State) (n lc : Nat) (i : Iss) (p : VecProg) : Nat :=
  let g := (vecUses s i p).map (fun k => hGate s n lc i (i.h k % 64) false) ++
    (vecPuts p).map (fun k => hGate s n lc i (i.h k % 64) true)
  if g.contains 2 then 2 else if g.contains 1 then 1 else 0

/-- No earlier descriptor names a handle of the call in conflict with it (R227). -/
def vecClear (s : State) (n lc : Nat) (i : Iss) (p : VecProg) : Bool :=
  let r := (vecUses s i p).map (fun k => i.h k % 64)
  let w := (vecPuts p).map (fun k => i.h k % 64)
  ((seq s n lc).before i).all (fun j =>
    !(w.any (fun h => j.writes.contains h || j.reads.contains h) || r.any (fun h => j.writes.contains h)))

/-- The oldest VEC issued, when nothing holds it back; EMIT waits while the staging queue is full (R371). -/
def vecReady (s : State) (n lc : Nat) (p : VecProg) : Option Iss :=
  match (seq s n lc).issued.find? (fun i => i.kind == 0x20) with
  | none => none
  | some i =>
    let emits := match p with
      | .emit _ _ => true
      | .trkUpdate => true
      | _ => false
    if !seqLive s n lc || !vecClear s n lc i p || vecGates s n lc i p = 1 || (emits && s.stageAt.isSome) then none
    else some i

/-- Runs the oldest VEC to its end: the core's vector unit runs one at a time. -/
def vecRun (s : State) (n lc : Nat) (i : Iss) (f : VecFact) : State :=
  let pg := lcPg s n lc
  if vecGates s n lc i f.prog = 2 then seqFault s n lc i 0x13 pg
  else if f.par then seqFault (bumpR s pg 0x414 1) n lc i 8 pg
  else
    match vecProg n lc i f.prog (vecMarks s n lc i (vecPuts f.prog)) with
    | (s, some e) => seqFault s n lc i e pg
    | (s, none) => retire s n lc i f.past

/-- A VEC issues, with PROG checked at decode (R356). -/
def vecIssue (n lc : Nat) (i : Iss) (s : State) : State :=
  if vprogN s n ≤ i.prog' then
    let s := seqFault s n lc i 0x04 (lcPg s n lc)
    if i.tag.isSome then advance s n lc i else s
  else enqueue s n lc i

/-- VEC: the oldest call that waits runs when it can; otherwise the next descriptor issues, and runs when it can. -/
def vecStep (s : State) (n lc : Nat) (f : VecFact) : State :=
  match vecReady s n lc f.prog with
  | some i => vecRun s n lc i f
  | none =>
    let s := issue s n lc (isOp 0x20) (vecIssue n lc)
    match vecReady s n lc f.prog with
    | some i => vecRun s n lc i f
    | none => s

/-- VEC. -/
def execVec (n lc : Nat) (f : VecFact) (s : State) : Host.Outcome State Fault Refusal :=
  .next (vecStep s n lc f)

end Sys2Proof.Machine
end

