-- ==== Sys2Proof/Machine/Dispatch.lean ====
section
/-!
DEFINITION. Machine/Dispatch.lean: one arm per command, each one direct call of its meaning.
-/
namespace Sys2Proof.Machine

def exec (i : Instr) (s : State) : Host.Outcome State Fault Refusal :=
  match i with
  | .registerWrite m be page ofs v => Sys2Proof.Machine.execRegisterWrite m be page ofs v s
  | .loReadLatch m page ofs => Sys2Proof.Machine.execLoReadLatch m page ofs s
  | .rvFieldRead m page ofs u => Sys2Proof.Machine.execRvFieldRead m page ofs u s
  | .rvBackgroundSweep page u => Sys2Proof.Machine.execRvBackgroundSweep page u s
  | .registerCrossingTimeout m wr page ofs => Sys2Proof.Machine.execRegisterCrossingTimeout m wr page ofs s
  | .readyMapReadLatch m => Sys2Proof.Machine.execReadyMapReadLatch m s
  | .powerOnReset f => Sys2Proof.Machine.execPowerOnReset f s
  | .perstNAssert => Sys2Proof.Machine.execPerstNAssert s
  | .phaseBStart sel modId => Sys2Proof.Machine.execPhaseBStart sel modId s
  | .functionReady fn f => Sys2Proof.Machine.execFunctionReady fn f s
  | .bringupBoundExpiry fn => Sys2Proof.Machine.execBringupBoundExpiry fn s
  | .resetReqWarmChip m => Sys2Proof.Machine.execResetReqWarmChip m s
  | .resetReqPartition m parts => Sys2Proof.Machine.execResetReqPartition m parts s
  | .rootLockLoss excursion => Sys2Proof.Machine.execRootLockLoss excursion s
  | .quiesceSet m page => Sys2Proof.Machine.execQuiesceSet m page s
  | .quiesceClear m page => Sys2Proof.Machine.execQuiesceClear m page s
  | .blockQuiesced page => Sys2Proof.Machine.execBlockQuiesced page s
  | .fenceSet m page => Sys2Proof.Machine.execFenceSet m page s
  | .fenceDrainComplete page => Sys2Proof.Machine.execFenceDrainComplete page s
  | .fenceCut page f => Sys2Proof.Machine.execFenceCut page f s
  | .fenceClear m page => Sys2Proof.Machine.execFenceClear m page s
  | .heldCommandTimeout h => Sys2Proof.Machine.execHeldCommandTimeout h s
  | .profileSwitch m target => Sys2Proof.Machine.execProfileSwitch m target s
  | .profileSwitchDecoderAbandon d => Sys2Proof.Machine.execProfileSwitchDecoderAbandon d s
  | .profileSwitchApply => Sys2Proof.Machine.execProfileSwitchApply s
  | .packetReceive p => Sys2Proof.Machine.execPacketReceive p s
  | .exceptionRateWindow p => Sys2Proof.Machine.execExceptionRateWindow p s
  | .jitterWindowExpiry n => Sys2Proof.Machine.execJitterWindowExpiry n s
  | .accessUnitWritten flow std => Sys2Proof.Machine.execAccessUnitWritten flow std s
  | .portModeWrite m cage v => Sys2Proof.Machine.execPortModeWrite m cage v s
  | .linkUp p fec => Sys2Proof.Machine.execLinkUp p fec s
  | .linkDown p => Sys2Proof.Machine.execLinkDown p s
  | .qsfpInsert cage cls temp readable => Sys2Proof.Machine.execQsfpInsert cage cls temp readable s
  | .qsfpRemove cage => Sys2Proof.Machine.execQsfpRemove cage s
  | .flowOpen m tag idx => Sys2Proof.Machine.execFlowOpen m tag idx s
  | .flowClose m tag idx => Sys2Proof.Machine.execFlowClose m tag idx s
  | .flowReadStatus m tag idx => Sys2Proof.Machine.execFlowReadStatus m tag idx s
  | .setSr m tag idx => Sys2Proof.Machine.execSetSr m tag idx s
  | .keyLoad m tag idx => Sys2Proof.Machine.execKeyLoad m tag idx s
  | .keyErase m tag idx => Sys2Proof.Machine.execKeyErase m tag idx s
  | .relearnSsrc m tag idx => Sys2Proof.Machine.execRelearnSsrc m tag idx s
  | .setKeys m tag idx => Sys2Proof.Machine.execSetKeys m tag idx s
  | .tbSrcWrite m v => Sys2Proof.Machine.execTbSrcWrite m v s
  | .ptpMessageReceive f => Sys2Proof.Machine.execPtpMessageReceive f s
  | .ptpSyncTimeout => Sys2Proof.Machine.execPtpSyncTimeout s
  | .ptmUpdate f => Sys2Proof.Machine.execPtmUpdate f s
  | .ltrUpdate => Sys2Proof.Machine.execLtrUpdate s
  | .stmOpen m tag idx => Sys2Proof.Machine.execStmOpen m tag idx s
  | .stmClose m tag idx => Sys2Proof.Machine.execStmClose m tag idx s
  | .stmReadStatus m tag idx => Sys2Proof.Machine.execStmReadStatus m tag idx s
  | .setParams m tag idx above => Sys2Proof.Machine.execSetParams m tag idx above s
  | .submit m tag idx => Sys2Proof.Machine.execSubmit m tag idx s
  | .stmFlush m tag idx => Sys2Proof.Machine.execStmFlush m tag idx s
  | .setPriority m tag idx => Sys2Proof.Machine.execSetPriority m tag idx s
  | .resync m tag idx => Sys2Proof.Machine.execResync m tag idx s
  | .decoderDispatch d h => Sys2Proof.Machine.execDecoderDispatch d h s
  | .decodeWritebackComplete d f => Sys2Proof.Machine.execDecodeWritebackComplete d f s
  | .decodeBudgetExpiry n h f => Sys2Proof.Machine.execDecodeBudgetExpiry n h f s
  | .codingBlockCycleBound d => Sys2Proof.Machine.execCodingBlockCycleBound d s
  | .decoderHangWatchdog d ok => Sys2Proof.Machine.execDecoderHangWatchdog d ok s
  | .gateSet m tag idx => Sys2Proof.Machine.execGateSet m tag idx s
  | .scaleSet m tag idx => Sys2Proof.Machine.execScaleSet m tag idx s
  | .gateRead m tag idx => Sys2Proof.Machine.execGateRead m tag idx s
  | .gateReset m tag idx => Sys2Proof.Machine.execGateReset m tag idx s
  | .ringReset m tag idx => Sys2Proof.Machine.execRingReset m tag idx s
  | .gatingDecide n => Sys2Proof.Machine.execGatingDecide n s
  | .pipeTakeEntry p => Sys2Proof.Machine.execPipeTakeEntry p s
  | .cropEntryComplete k => Sys2Proof.Machine.execCropEntryComplete k s
  | .scalerClaimStaleExpiry n => Sys2Proof.Machine.execScalerClaimStaleExpiry n s
  | .scalerPipeWatchdog p ok => Sys2Proof.Machine.execScalerPipeWatchdog p ok s
  | .enginePauseWrite m page on => Sys2Proof.Machine.execEnginePauseWrite m page on s
  | .engInjectArm m page v => Sys2Proof.Machine.execEngInjectArm m page v s
  | .passComplete n lc e f => Sys2Proof.Machine.execPassComplete n lc e f s
  | .mpass n lc => Sys2Proof.Machine.execMpass n lc s
  | .ppass n lc => Sys2Proof.Machine.execPpass n lc s
  | .cpass n lc => Sys2Proof.Machine.execCpass n lc s
  | .drain n lc => Sys2Proof.Machine.execDrain n lc s
  | .drainComplete n lc f => Sys2Proof.Machine.execDrainComplete n lc f s
  | .crossedTensorCommit n entry => Sys2Proof.Machine.execCrossedTensorCommit n entry s
  | .dmaCopy n lc => Sys2Proof.Machine.execDmaCopy n lc s
  | .dmaFill n lc => Sys2Proof.Machine.execDmaFill n lc s
  | .dmaTranspose n lc => Sys2Proof.Machine.execDmaTranspose n lc s
  | .dmaComplete n lc e f => Sys2Proof.Machine.execDmaComplete n lc e f s
  | .reshard n lc => Sys2Proof.Machine.execReshard n lc s
  | .reshardComplete n lc f => Sys2Proof.Machine.execReshardComplete n lc f s
  | .reshardWatchdog n lc => Sys2Proof.Machine.execReshardWatchdog n lc s
  | .waitRowReady n lc => Sys2Proof.Machine.execWaitRowReady n lc s
  | .waitClave n lc => Sys2Proof.Machine.execWaitClave n lc s
  | .waitSatisfied n lc => Sys2Proof.Machine.execWaitSatisfied n lc s
  | .waitWatchdogExpiry n lc => Sys2Proof.Machine.execWaitWatchdogExpiry n lc s
  | .signalRowReady n lc => Sys2Proof.Machine.execSignalRowReady n lc s
  | .signalClave n lc => Sys2Proof.Machine.execSignalClave n lc s
  | .signalClaveSet n lc => Sys2Proof.Machine.execSignalClaveSet n lc s
  | .claim n lc => Sys2Proof.Machine.execClaim n lc s
  | .claimTake n lc => Sys2Proof.Machine.execClaimTake n lc s
  | .claveValWrite m k v => Sys2Proof.Machine.execClaveValWrite m k v s
  | .fenceLocal n lc => Sys2Proof.Machine.execFenceLocal n lc s
  | .fenceMemory n lc => Sys2Proof.Machine.execFenceMemory n lc s
  | .fenceBarrier n lc => Sys2Proof.Machine.execFenceBarrier n lc s
  | .barrierRelease n => Sys2Proof.Machine.execBarrierRelease n s
  | .fenceEnd n lc => Sys2Proof.Machine.execFenceEnd n lc s
  | .vec n lc f => Sys2Proof.Machine.execVec n lc f s
  | .spec n lc => Sys2Proof.Machine.execSpec n lc s
  | .commit n lc => Sys2Proof.Machine.execCommit n lc s
  | .squash n lc => Sys2Proof.Machine.execSquash n lc s
  | .tagCommitComplete n lc t => Sys2Proof.Machine.execTagCommitComplete n lc t s
  | .tagSquashComplete n lc t => Sys2Proof.Machine.execTagSquashComplete n lc t s
  | .killScrubComplete c n => Sys2Proof.Machine.execKillScrubComplete c n s
  | .pendingScrubDeadline c => Sys2Proof.Machine.execPendingScrubDeadline c s
  | .spDebugRetain m c v => Sys2Proof.Machine.execSpDebugRetain m c v s
  | .spDebugRelease m c v => Sys2Proof.Machine.execSpDebugRelease m c v s
  | .ctxOpen m tag idx => Sys2Proof.Machine.execCtxOpen m tag idx s
  | .ctxClose m tag idx => Sys2Proof.Machine.execCtxClose m tag idx s
  | .ctxRead m tag idx => Sys2Proof.Machine.execCtxRead m tag idx s
  | .ctxKill m tag idx => Sys2Proof.Machine.execCtxKill m tag idx s
  | .ctxResume m tag idx => Sys2Proof.Machine.execCtxResume m tag idx s
  | .modelLoad m tag idx => Sys2Proof.Machine.execModelLoad m tag idx s
  | .modelUnload m tag idx => Sys2Proof.Machine.execModelUnload m tag idx s
  | .ctxSave m tag idx => Sys2Proof.Machine.execCtxSave m tag idx s
  | .ctxRestore m tag idx => Sys2Proof.Machine.execCtxRestore m tag idx s
  | .dbTail n be v => Sys2Proof.Machine.execDbTail n be v s
  | .dbCplCons n be v => Sys2Proof.Machine.execDbCplCons n be v s
  | .invocationGrant n place => Sys2Proof.Machine.execInvocationGrant n place s
  | .invocationComplete n => Sys2Proof.Machine.execInvocationComplete n s
  | .sliceExpiry n => Sys2Proof.Machine.execSliceExpiry n s
  | .parkComplete n dma => Sys2Proof.Machine.execParkComplete n dma s
  | .unparkRestore n => Sys2Proof.Machine.execUnparkRestore n s
  | .evictionComplete n dma => Sys2Proof.Machine.execEvictionComplete n dma s
  | .restoreComplete n => Sys2Proof.Machine.execRestoreComplete n s
  | .contextFault n code page desc detail => Sys2Proof.Machine.execContextFault n code page desc detail s
  | .teardownComplete n => Sys2Proof.Machine.execTeardownComplete n s
  | .teardownWatchdog n pages ok => Sys2Proof.Machine.execTeardownWatchdog n pages ok s
  | .contextProgressWatchdog n => Sys2Proof.Machine.execContextProgressWatchdog n s
  | .batchOpen m tag idx => Sys2Proof.Machine.execBatchOpen m tag idx s
  | .batchClose m tag idx => Sys2Proof.Machine.execBatchClose m tag idx s
  | .seqRead m tag idx => Sys2Proof.Machine.execSeqRead m tag idx s
  | .seqEnd m tag idx => Sys2Proof.Machine.execSeqEnd m tag idx s
  | .tokenPoll b => Sys2Proof.Machine.execTokenPoll b s
  | .tokenWaitExpiry b => Sys2Proof.Machine.execTokenWaitExpiry b s
  | .stepCadenceExpiry b => Sys2Proof.Machine.execStepCadenceExpiry b s
  | .stepPlan b => Sys2Proof.Machine.execStepPlan b s
  | .trackSet m tag idx => Sys2Proof.Machine.execTrackSet m tag idx s
  | .outletSet m tag idx => Sys2Proof.Machine.execOutletSet m tag idx s
  | .trackOrderRelease n => Sys2Proof.Machine.execTrackOrderRelease n s
  | .outletMove => Sys2Proof.Machine.execOutletMove s
  | .outletIrqTimer n => Sys2Proof.Machine.execOutletIrqTimer n s
  | .udpFlushExpiry n => Sys2Proof.Machine.execUdpFlushExpiry n s
  | .udpRateWindow n => Sys2Proof.Machine.execUdpRateWindow n s
  | .ptxTailWrite m p v => Sys2Proof.Machine.execPtxTailWrite m p v s
  | .evidSet m tag idx => Sys2Proof.Machine.execEvidSet m tag idx s
  | .clip m tag idx => Sys2Proof.Machine.execClip m tag idx s
  | .snap m tag idx => Sys2Proof.Machine.execSnap m tag idx s
  | .evidRead m tag idx => Sys2Proof.Machine.execEvidRead m tag idx s
  | .encoderTakePicture e => Sys2Proof.Machine.execEncoderTakePicture e s
  | .encoderPictureComplete e f => Sys2Proof.Machine.execEncoderPictureComplete e f s
  | .encoderRowWatchdog e ok => Sys2Proof.Machine.execEncoderRowWatchdog e ok s
  | .adaptOpen m tag idx => Sys2Proof.Machine.execAdaptOpen m tag idx s
  | .adaptStop m tag idx => Sys2Proof.Machine.execAdaptStop m tag idx s
  | .adaptRead m tag idx => Sys2Proof.Machine.execAdaptRead m tag idx s
  | .adaptClose m tag idx => Sys2Proof.Machine.execAdaptClose m tag idx s
  | .adaptStepLoadDone j => Sys2Proof.Machine.execAdaptStepLoadDone j s
  | .adaptConditionChange j => Sys2Proof.Machine.execAdaptConditionChange j s
  | .rngTestGo m v => Sys2Proof.Machine.execRngTestGo m v s
  | .poolCreate m tag idx => Sys2Proof.Machine.execPoolCreate m tag idx s
  | .poolDestroy m tag idx => Sys2Proof.Machine.execPoolDestroy m tag idx s
  | .poolQuota m tag idx => Sys2Proof.Machine.execPoolQuota m tag idx s
  | .poolRead m tag idx => Sys2Proof.Machine.execPoolRead m tag idx s
  | .ketAlloc m tag idx => Sys2Proof.Machine.execKetAlloc m tag idx s
  | .ketClaim m tag idx => Sys2Proof.Machine.execKetClaim m tag idx s
  | .ketRelease m tag idx => Sys2Proof.Machine.execKetRelease m tag idx s
  | .ketFree m tag idx => Sys2Proof.Machine.execKetFree m tag idx s
  | .kettleSweep => Sys2Proof.Machine.execKettleSweep s
  | .patrolScrubRead c => Sys2Proof.Machine.execPatrolScrubRead c s
  | .recentre c mv => Sys2Proof.Machine.execRecentre c mv s
  | .mcRetrain m c => Sys2Proof.Machine.execMcRetrain m c s
  | .retrainSlice c last => Sys2Proof.Machine.execRetrainSlice c last s
  | .bankIdleClose c bank => Sys2Proof.Machine.execBankIdleClose c bank s
  | .refresh c bank temp => Sys2Proof.Machine.execRefresh c bank temp s
  | .selfRefreshEntry c => Sys2Proof.Machine.execSelfRefreshEntry c s
  | .bar2Read ofs n => Sys2Proof.Machine.execBar2Read ofs n s
  | .bar2Write ofs data => Sys2Proof.Machine.execBar2Write ofs data s
  | .xltCfgWrite m k v => Sys2Proof.Machine.execXltCfgWrite m k v s
  | .outwCfgWrite m w v => Sys2Proof.Machine.execOutwCfgWrite m w v s
  | .pcieConfigRequest q => Sys2Proof.Machine.execPcieConfigRequest q s
  | .pcieHotReset => Sys2Proof.Machine.execPcieHotReset s
  | .pcieCompletionReceive tag c => Sys2Proof.Machine.execPcieCompletionReceive tag c s
  | .pcieCompletionTimeout tag => Sys2Proof.Machine.execPcieCompletionTimeout tag s
  | .pcieTlpError e hdr => Sys2Proof.Machine.execPcieTlpError e hdr s
  | .pcieLinkLoss => Sys2Proof.Machine.execPcieLinkLoss s
  | .freezeRelease m => Sys2Proof.Machine.execFreezeRelease m s
  | .dStateChange d3 => Sys2Proof.Machine.execDStateChange d3 s
  | .pmeTurnOff => Sys2Proof.Machine.execPmeTurnOff s
  | .msixPendingSend v => Sys2Proof.Machine.execMsixPendingSend v s
  | .msixHoldoffExpiry v => Sys2Proof.Machine.execMsixHoldoffExpiry v s
  | .attnButtonPress => Sys2Proof.Machine.execAttnButtonPress s
  | .slotPowerOff m => Sys2Proof.Machine.execSlotPowerOff m s
  | .mctpWake => Sys2Proof.Machine.execMctpWake s
  | .gongSample vin iin pfLow => Sys2Proof.Machine.execGongSample vin iin pfLow s
  | .lowEventStart => Sys2Proof.Machine.execLowEventStart s
  | .lowEventEnd => Sys2Proof.Machine.execLowEventEnd s
  | .rideThroughExpiry => Sys2Proof.Machine.execRideThroughExpiry s
  | .swellStart => Sys2Proof.Machine.execSwellStart s
  | .swellTimeout => Sys2Proof.Machine.execSwellTimeout s
  | .orderlyStop => Sys2Proof.Machine.execOrderlyStop s
  | .supplyRestart f => Sys2Proof.Machine.execSupplyRestart f s
  | .powerWindow grants => Sys2Proof.Machine.execPowerWindow grants s
  | .rippleWindow => Sys2Proof.Machine.execRippleWindow s
  | .streamShed => Sys2Proof.Machine.execStreamShed s
  | .streamRestore => Sys2Proof.Machine.execStreamRestore s
  | .thermalSample dies conv => Sys2Proof.Machine.execThermalSample dies conv s
  | .thermalTrip die => Sys2Proof.Machine.execThermalTrip die s
  | .railFault => Sys2Proof.Machine.execRailFault s
  | .pdOn m n room => Sys2Proof.Machine.execPdOn m n room s
  | .pdOff m n => Sys2Proof.Machine.execPdOff m n s
  | .pdSwitchOnComplete n => Sys2Proof.Machine.execPdSwitchOnComplete n s
  | .nocTimeout n lc page ok => Sys2Proof.Machine.execNocTimeout n lc page ok s
  | .fwAssert sub page => Sys2Proof.Machine.execFwAssert sub page s
  | .fwHeartbeatTimeout => Sys2Proof.Machine.execFwHeartbeatTimeout s
  | .unitReset page cause ok => Sys2Proof.Machine.execUnitReset page cause ok s
  | .resetLevelExpiry k => Sys2Proof.Machine.execResetLevelExpiry k s
  | .tocOosEnter m => Sys2Proof.Machine.execTocOosEnter m s
  | .tocOosReturn m => Sys2Proof.Machine.execTocOosReturn m s
  | .returnToService => Sys2Proof.Machine.execReturnToService s
  | .tbSyncCfgWrite m v => Sys2Proof.Machine.execTbSyncCfgWrite m v s
  | .tbUtimerExpiry k => Sys2Proof.Machine.execTbUtimerExpiry k s
  | .syncIoEdge => Sys2Proof.Machine.execSyncIoEdge s
  | .ppsInEdge => Sys2Proof.Machine.execPpsInEdge s
  | .updStage m tag idx => Sys2Proof.Machine.execUpdStage m tag idx s
  | .bundleVerifyDone f => Sys2Proof.Machine.execBundleVerifyDone f s
  | .updActivate m tag idx => Sys2Proof.Machine.execUpdActivate m tag idx s
  | .componentActivate ok => Sys2Proof.Machine.execComponentActivate ok s
  | .updCommit m tag idx => Sys2Proof.Machine.execUpdCommit m tag idx s
  | .updCommitDone ok => Sys2Proof.Machine.execUpdCommitDone ok s
  | .updAbandon m tag idx => Sys2Proof.Machine.execUpdAbandon m tag idx s
  | .updRead m tag idx => Sys2Proof.Machine.execUpdRead m tag idx s
  | .aliasCertSigned => Sys2Proof.Machine.execAliasCertSigned s
  | .spdmGetVersion path busy => Sys2Proof.Machine.execSpdmGetVersion path busy s
  | .spdmGetCapabilities path busy => Sys2Proof.Machine.execSpdmGetCapabilities path busy s
  | .spdmNegotiateAlgorithms path busy ok => Sys2Proof.Machine.execSpdmNegotiateAlgorithms path busy ok s
  | .spdmGetDigests path busy => Sys2Proof.Machine.execSpdmGetDigests path busy s
  | .spdmGetCertificate path busy slot ofs len chain => Sys2Proof.Machine.execSpdmGetCertificate path busy slot ofs len chain s
  | .spdmChallenge path busy slot nonce sig => Sys2Proof.Machine.execSpdmChallenge path busy slot nonce sig s
  | .spdmGetMeasurements path busy index sign sig => Sys2Proof.Machine.execSpdmGetMeasurements path busy index sign sig s
  | .pldmSensorRead sensor => Sys2Proof.Machine.execPldmSensorRead sensor s
  | .pldmFirmwareTransfer data => Sys2Proof.Machine.execPldmFirmwareTransfer data s
  | .pldmActivateFirmware => Sys2Proof.Machine.execPldmActivateFirmware s
  | .recoveryBundle data f ok b => Sys2Proof.Machine.execRecoveryBundle data f ok b s
  | .pealCfgWrite m v => Sys2Proof.Machine.execPealCfgWrite m v s
  | .pealHeartbeat => Sys2Proof.Machine.execPealHeartbeat s
  | .peerHbChange p => Sys2Proof.Machine.execPeerHbChange p s
  | .peerSilentTimeout p => Sys2Proof.Machine.execPeerSilentTimeout p s
  | .peerMessageReceive p => Sys2Proof.Machine.execPeerMessageReceive p s
  | .migrationPushComplete => Sys2Proof.Machine.execMigrationPushComplete s
  | .expect m tag idx => Sys2Proof.Machine.execExpect m tag idx s
  | .migrate m tag idx => Sys2Proof.Machine.execMigrate m tag idx s
  | .trackSend m tag idx => Sys2Proof.Machine.execTrackSend m tag idx s
  | .cancel m tag idx => Sys2Proof.Machine.execCancel m tag idx s
  | .holdUpCollapse => Sys2Proof.Machine.execHoldUpCollapse s
  | .registerRead m page ofs => Sys2Proof.Machine.execRegisterRead m page ofs s
  | .swellEnd => Sys2Proof.Machine.execSwellEnd s
  | .pcieLinkRetrained width speed => Sys2Proof.Machine.execPcieLinkRetrained width speed s
  | .attnButtonRelease => Sys2Proof.Machine.execAttnButtonRelease s
  | .peRefclkPresent => Sys2Proof.Machine.execPeRefclkPresent s
  | .coreGroupPowerOn room => Sys2Proof.Machine.execCoreGroupPowerOn room s

end Sys2Proof.Machine
end

