-- ==== Sys2Proof/Machine/Flags.lean ====
section
/-!
DEFINITION. Machine/Flags.lean: the levels of the module's output pins, which the state determines (R466, R484, R548,
R553, Table 24-1).
-/
namespace Sys2Proof.Machine

/-- An open-drain output. -/
inductive Pin where
  | low        -- pulled low by the module
  | released
  deriving DecidableEq, Repr

/-- ALERT_N is low while a cause of R548 holds, or the always-on domain holds it for a rail fault (R553). -/
def alertN (s : State) : Pin :=
  if gongState s != 0 || s.toc.oos || s.pcie.frozen || s.sec.imageInvalid || s.gong.rail then .low else .released

/-- WAKE_N (R465). -/
def wakeN (s : State) : Pin := if s.pcie.wake then .low else .released

/-- THERM_TRIP_N (R484). -/
def thermTripN (s : State) : Pin := if s.gong.trip then .low else .released

/-- PRSNT_N is tied to module ground. -/
def prsntN : Pin := .low

/-- What an indicator shows: the code of SLOT_CTRL. -/
inductive Led where
  | on | blink | dark
  deriving DecidableEq, Repr

/-- PCI Express indicator encoding: 01b on, 10b blink, 11b off. -/
def ledOf (c : Nat) : Led := if c = 1 then .on else if c = 2 then .blink else .dark

/-- PWR_LED follows PWR_IND. -/
def pwrLed (s : State) : Led := ledOf (bits (getR s 0x1B2 0x104) 3 2)

/-- ATTN_LED follows ATTN_IND. -/
def attnLed (s : State) : Led := ledOf (bits (getR s 0x1B2 0x104) 1 0)

end Sys2Proof.Machine
end

