-- ==== Sys2Proof/Machine/Overlay.lean ====
section
/-!
DEFINITION. Machine/Overlay.lean: what the encoder draws into its input copy of a picture (R389). The coded bytes are
facts of the encoder (log 10); the font of the text strip is not in the spec, its characters are.
-/
namespace Sys2Proof.Machine

/-- The four UINT16 corners of a box at an offset of an OBJECT record: x0, y0, x1, y1. -/
def objBox (r : List Byte) (o : Nat) : List Nat := (List.range 4).map (fun k => leAt r (o + 2 * k) 2)

/-- The boxes drawn on a clip picture: BOX_MODE 1 the trigger track's, BOX_MODE 2 every box at or above RULE_SCORE. -/
def overlayBoxes (cfg : List Byte) (trackId : Nat) (p : WinPic) : List (List Nat) :=
  let mode := byteAt cfg 1 / 8 % 4
  if mode = 1 then (p.boxes.filter (fun r => trackId != 0 && leAt r 0x30 4 == trackId)).map (fun r => objBox r 0x28)
  else if mode = 2 then
    (p.boxes.filter (fun r => (f32 (leAt cfg 0x10 4)).le (f32 (leAt r 0x34 4)))).map (fun r => objBox r 0x20)
  else []

/-- A sample lies on the outline of a box: inside the half-open box and within BOX_PX samples of an edge. -/
def onOutline (px x y : Nat) (b : List Nat) : Bool :=
  let x0 := b.getD 0 0
  let y0 := b.getD 1 0
  let x1 := b.getD 2 0
  let y1 := b.getD 3 0
  decide (x0 ≤ x ∧ x < x1 ∧ y0 ≤ y ∧ y < y1) &&
    (decide (x < x0 + px) || decide (x1 ≤ x + px) || decide (y < y0 + px) || decide (y1 ≤ y + px))

/-- The colour of a sample of the input copy that a box covers: luma (plane 0) at (x, y), chroma (planes 1 and 2) where
the box covers one of the four luma samples of its 4:2:0 position. -/
def overlaySample (cfg : List Byte) (trackId : Nat) (p : WinPic) (plane x y : Nat) : Option Nat :=
  let px := byteAt cfg 0x34
  let hit := fun (u v : Nat) => (overlayBoxes cfg trackId p).any (onOutline px u v)
  if plane = 0 then (if hit x y then some (byteAt cfg 0x31) else none)
  else if hit (2 * x) (2 * y) || hit (2 * x + 1) (2 * y) || hit (2 * x) (2 * y + 1) || hit (2 * x + 1) (2 * y + 1) then
    some (byteAt cfg (0x31 + plane))
  else none

/-- Year, month and day of a day counted from 1970-01-01. -/
def civil (days : Nat) : Nat × Nat × Nat :=
  let z := days + 719468
  let era := z / 146097
  let doe := z % 146097
  let yoe := (doe - doe / 1460 + doe / 36524 - doe / 146096) / 365
  let doy := doe - (365 * yoe + yoe / 4 - yoe / 100)
  let mp := (5 * doy + 2) / 153
  let m := if mp < 10 then mp + 3 else mp - 9
  (yoe + 400 * era + b2n (decide (m ≤ 2)), m, doy - (153 * mp + 2) / 5 + 1)

/-- A number in `n` decimal digits. -/
def digits : Nat → Nat → List Char
  | 0, _ => []
  | n + 1, v => digits n (v / 10) ++ [Char.ofNat (48 + v % 10)]

/-- The text of the strip: the capture time in local time, and the stm in decimal. -/
def stampText (s : State) (stamp n : Nat) : List Char :=
  let sec := (((stamp / Config.tSec : Nat) : Int) - (s.life.leap : Int) + 60 * sext 16 (profF s 0x11C 2 0)).toNat
  let c := civil (sec / 86400)
  let h := sec % 86400
  (digits 4 c.1 ++ ['-'] ++ digits 2 c.2.1 ++ ['-'] ++ digits 2 c.2.2 ++ [' '] ++ digits 2 (h / 3600) ++ [':'] ++
    digits 2 (h / 60 % 60) ++ [':'] ++ digits 2 (h % 60) ++ ['.'] ++ digits 3 (stamp / Config.tMs % 1000) ++ [' '] ++
    (toString n).toList).take 34

end Sys2Proof.Machine
end

