-- ==== Sys2Proof/Safety.lean ====
section
/-!
DEFINITION. Safety.lean: the invariants of the module's state, and the conditions and reads in whose terms the claims
are made.
-/
namespace Sys2Proof

open Machine

/-- Keys of a table rise strictly. -/
def tblWf {α : Type} (t : Tbl α) : Bool := decide (t.Pairwise (fun a b => a.1 < b.1))

/-- The canonical form of a byte memory: addresses rise strictly, and no entry is the 0 that an unlisted address reads. -/
def Memory.wf (m : List Host.Cell) : Bool := decide (m.Pairwise (fun a b => a.1 < b.1)) && m.all (fun c => c.2 != 0)

namespace Machine

/-- What holds of the module whatever it does: its part is the manufactured one (R50), and both memories keep the
canonical form. -/
def Holds (p : Part) (s : State) : Prop := s.part = p ∧ Memory.wf s.mem = true ∧ Memory.wf s.pcieMem = true

/-- A master's access reaches a register of a page, and the master meets the guard PR (R29, R34, R41, R47, R48). -/
def reaches (s : State) (m : Master) (page ofs : Nat) : Bool := accessOf s m page ofs == .reach && prOpen m page ofs

/-- The operand that stands in a port's staging registers (R104). -/
def staged (s : State) (p : Port) : List Byte := getRec s p.page p.stageOfs p.stageN

/-- A port carries a command out at once: the write reaches it, no command waits, and its target runs (R104, Table 03-6). -/
def portTakes (s : State) (p : Port) (m : Master) (op idx : Nat) : Bool :=
  reaches s m (portPage s p) p.cmdOfs && (portQ s p).isEmpty && portDisp s p op idx (staged s p) == .run

/-- The result register of a tag (Table 04-6). -/
def resultAt (s : State) (p : Port) (tag : Nat) : Word := tgetD s.regs (rkey p.page (p.resOfs + 4 * (tag % 256))) 0

/-- A result register's word: CODE and DETAIL. -/
def resultWord (code detail : Nat) : Word := word (code <<< 28 ||| min detail 0xFFFF)

/-- A plain register's stored word. -/
def rawR (s : State) (page ofs : Nat) : Word := tgetD s.regs (rkey page ofs) (regReset page ofs)

/-- A received frame that reaches classification as RTP over UDP (R80, R82): its port is up, its FCS and size are right, and
its headers are those of a flow candidate. -/
def rtpCandidate (s : State) (p : Packet) : Bool :=
  let e := etherOf p.frame
  let r := udpPayload p.frame e
  linkUp s p.lport && ready s (lportPage p.lport) && ready s 0x172 && !stopping s && p.fcsOk &&
    decide (p.frame.length ≤ 9212) && !e.doubleTag && !e.pause && !isFragment p.frame e && udpShape p.frame e &&
    udpOk p.frame e && macAccepted s p.lport p.frame && rtpShape r && !(decide (192 ≤ byteAt r 1 ∧ byteAt r 1 ≤ 223))

/-- The flow of which a candidate matches every key field (R86). -/
def flowHit (s : State) (p : Packet) : Option Nat :=
  let e := etherOf p.frame
  let k := packetKey7 p e
  ((openFlows s).find? (fun q => flowKey7 q.2.recd == k && flowMatch q.2 k (be32 (udpPayload p.frame e) 8))).map (·.1)

/-- No command waits in a port and no doorbell is held (R67, R68). -/
def heldIdle (s : State) : Bool :=
  allPorts.all (fun p => (portQ s p).isEmpty) && s.ctxs.all (fun (q : Nat × Ctx) => q.2.heldTails.isEmpty)

/-- A chip reset is decided at once: in service, no low event, a valid image, and no fleet window (R506, R507, R479). -/
def warmFree (s : State) : Bool := !s.toc.oos && !lowEvent s && !s.sec.imageInvalid && !fleetEn s

/-- Scaler cluster p may take an entry into its pipe (R138): the pipe is its first free one, and no ring waits. -/
def takesEntry (s : State) (p pipe : Nat) : Bool :=
  decide (p < 4) && !lowEvent s && ready s (sclPage p) && !quiesceOf (blk s (sclPage p)) && partStays s p &&
    (List.range 8).find? (fun i => (tget s.pipes (8 * p + i)).isNone) == some pipe &&
    (List.range 8).all (fun n => (tgetD s.ringAt (8 * p + n) []).isEmpty)

/-- The entry that a cluster takes next (R138). -/
def firstCand (s : State) (p : Nat) : Option Cand :=
  (pipeCands s p).foldl (fun (b : Option Cand) c =>
    match b with
    | none => some c
    | some d => if c.before d then some c else some d) none

/-- A unit may be reset on its own (R500, R501): in service, present and on, with fewer than two resets in 10 s. -/
def unitResets (s : State) (page : Nat) : Bool :=
  !s.toc.oos && pagePresent s page && pageOn s page &&
    decide ((recentTimes s (tgetD s.toc.hist2 page []) (10 * Config.tSec)).length < 2)

/-- The next descriptor of a stream is i: it is read from GDDR6, and the checks of R225 and the bounds of Table 12-5 let
it issue now. -/
def issues (s : State) (n lc : Nat) (i : Iss) : Bool :=
  let q := seq s n lc
  seqLive s n lc && decide (q.core < 48) && q.st == 1 && !q.ended && q.base != 0 && !(match q.claim with
    | some k => k.due
    | none => false) && decide (q.pc < q.stop) && locate q.pc == .gddr && s.ecc.isEmpty &&
    i == nextIss s n lc (rdMem s q.pc 64) && leAt i.d 2 2 % 4096 == n && knownOp i.kind && !lowEvent s &&
    seqDisp s q i.d == .run && (match i.tag with
    | some t => (q.tag t).st == 1 && mayTag i.d
    | none => true) && descOk i.d (ctx s n).cores.length && decide (q.issued.length < 32) && decide (q.tagged < 8)

/-- Address and bytes of each descriptor of a list. -/
def descs (l : List Iss) : List (Nat × List Byte) := l.map (fun i => (i.addr, i.d))

/-- No sequencer but one has changed. -/
def SeqOnly (s t : State) (n lc : Nat) : Prop := ∀ k, k ≠ 64 * n + lc → tgetD t.seqs k {} = tgetD s.seqs k {}

/-- Descriptor i has been taken into the issued list of its stream, whose PC has moved over it. -/
def Issued (s t : State) (n lc : Nat) (i : Iss) : Prop :=
  descs (seq t n lc).issued = descs (seq s n lc).issued ++ [(i.addr, i.d)] ∧
    ((seq s n lc).skip = [] → (seq t n lc).pc = (seq s n lc).pc + 64) ∧ SeqOnly s t n lc ∧ t.mem = s.mem

/-- Descriptor i has completed: it is no longer issued, and its core counts it (R226). -/
def Retired (s t : State) (n lc : Nat) (i : Iss) : Prop :=
  (∀ j ∈ (seq t n lc).issued, ¬(j.addr = i.addr ∧ j.iter = i.iter)) ∧
    tgetD t.regs (rkey (lcPg s n lc) 0x218) 0 = satAdd (getR s (lcPg s n lc) 0x218) 1

/-- The stream has gone over its next descriptor, which completed at once. -/
def Passed (s t : State) (n lc : Nat) : Prop :=
  ((seq s n lc).skip = [] → (seq t n lc).pc = (seq s n lc).pc + 64) ∧
    tgetD t.regs (rkey (lcPg s n lc) 0x218) 0 = satAdd (getR s (lcPg s n lc) 0x218) 1

/-- Groups of a CROSSED tensor that await its commit (Table 08-4). -/
def crossedOpen (s : State) (n entry : Nat) : List (Nat × Grp) := groupsOf s n entry (fun g => g.crossed && !g.closed)

/-- The drain unit may serve DRAIN i now (R227, R237, R242, R293). -/
def drainMay (s : State) (n lc : Nat) (i : Iss) : Bool :=
  seqLive s n lc && (seq s n lc).clear i && drainGate s n lc i == 0 &&
    (match i.pp with
     | some p =>
       match (seq s n lc).issued.find? (fun j => j.kind == 2 && j.addr == p.1) with
       | some j => decide ((i.prog + 1) * byteAt p.2.1 0x13 ≤ j.prog)
       | none => true
     | none => true)

/-- Every part that the RESHARD at the head of a logical core exchanges data with has issued its own (R246, R247). -/
def reshardMet (s : State) (n lc : Nat) (i : Iss) : Bool :=
  reshardHead s n lc == some i && seqLive s n lc &&
    (partners i.d ((partsOf i.d).takeWhile (· != lc)).length).all (fun k =>
      let l := (partsOf i.d).getD k 64
      l == lc || i.got.contains l || (match reshardHead s n l with
        | some j => reshardKey j.d == reshardKey i.d
        | none => false))

/-- The context is torn down for a fault (R314, R334). -/
def Faulted (t : State) (n code : Nat) : Prop := (ctx t n).st = .teardown ∧ (ctx t n).code = code

end Machine

end Sys2Proof
end

