-- ==== Sys2Proof/WellFormed.lean ====
section
/-!
DEFINITION. WellFormed.lean: the ranges of a command's operands, as the fields and tables of the spec bound them.
-/
namespace Sys2Proof

/-- A register offset inside a page, dword-aligned (R28, R30). -/
def okOfs (ofs : Nat) : Bool := decide (ofs < 65536 ∧ ofs % 4 = 0)

/-- Upsets strike one of three copies of a register (R42). -/
def okUpsets (u : List Upset) : Bool := u.all (fun x => okOfs x.ofs && decide (x.copy < 3))

/-- A function's page is a page of BAR0. -/
def okFn : Fn → Bool
  | .mgmt => true
  | .page p => decide (p < 1024)

/-- A held command names a port, a context, or a descriptor of a logical core. -/
def okHeld : HeldAt → Bool
  | .port k => decide (k < 9)
  | .doorbell n => decide (n < 4096)
  | .dma n lc _ => decide (n < 4096 ∧ lc < 48)

/-- A placement names different cores (R319). -/
def okCores (l : List Nat) : Bool := l.all (fun c => decide (c < 48)) && decide l.Nodup

/-- The operands of a command lie in the ranges of the spec. -/
def Instr.wf : Instr → Bool
  | .registerWrite _ be page ofs _ => decide (be < 16 ∧ page < 1024) && okOfs ofs
  | .loReadLatch _ page ofs => decide (page < 1024) && okOfs ofs
  | .rvFieldRead _ page ofs u => decide (page < 1024) && okOfs ofs && okUpsets u
  | .rvBackgroundSweep page u => decide (page < 1024) && okUpsets u
  | .registerCrossingTimeout _ _ page ofs => decide (page < 1024) && okOfs ofs
  | .readyMapReadLatch _ => true
  | .powerOnReset _ => true
  | .perstNAssert => true
  | .phaseBStart sel modId => decide (sel < 4 ∧ modId < 16)
  | .functionReady fn _ => okFn fn
  | .bringupBoundExpiry fn => okFn fn
  | .resetReqWarmChip _ => true
  | .resetReqPartition _ parts => decide (parts < 16)
  | .rootLockLoss _ => true
  | .quiesceSet _ page => decide (page < 1024)
  | .quiesceClear _ page => decide (page < 1024)
  | .blockQuiesced page => decide (page < 1024)
  | .fenceSet _ page => decide (page < 1024)
  | .fenceDrainComplete page => decide (page < 1024)
  | .fenceCut page _ => decide (page < 1024)
  | .fenceClear _ page => decide (page < 1024)
  | .heldCommandTimeout h => okHeld h
  | .profileSwitch _ target => decide (target < 4)
  | .profileSwitchDecoderAbandon d => decide (d < 32)
  | .profileSwitchApply => true
  | .packetReceive p => decide (p.lport < 8)
  | .exceptionRateWindow p => decide (p < 8)
  | .jitterWindowExpiry n => decide (n < 4096)
  | .accessUnitWritten flow _ => decide (flow < 4096)
  | .portModeWrite _ cage _ => decide (cage < 2)
  | .linkUp p _ => decide (p < 8)
  | .linkDown p => decide (p < 8)
  | .qsfpInsert cage _ temp _ => decide (cage < 2 ∧ temp < 256)
  | .qsfpRemove cage => decide (cage < 2)
  | .flowOpen _ tag idx => decide (tag < 256 ∧ idx < 8192)
  | .flowClose _ tag idx => decide (tag < 256 ∧ idx < 8192)
  | .flowReadStatus _ tag idx => decide (tag < 256 ∧ idx < 8192)
  | .setSr _ tag idx => decide (tag < 256 ∧ idx < 8192)
  | .keyLoad _ tag idx => decide (tag < 256 ∧ idx < 8192)
  | .keyErase _ tag idx => decide (tag < 256 ∧ idx < 8192)
  | .relearnSsrc _ tag idx => decide (tag < 256 ∧ idx < 8192)
  | .setKeys _ tag idx => decide (tag < 256 ∧ idx < 8192)
  | .tbSrcWrite _ _ => true
  | .ptpMessageReceive f => decide (f.port < 8)
  | .ptpSyncTimeout => true
  | .ptmUpdate f => decide (f.port < 8)
  | .ltrUpdate => true
  | .stmOpen _ tag idx => decide (tag < 256 ∧ idx < 1024)
  | .stmClose _ tag idx => decide (tag < 256 ∧ idx < 1024)
  | .stmReadStatus _ tag idx => decide (tag < 256 ∧ idx < 1024)
  | .setParams _ tag idx _ => decide (tag < 256 ∧ idx < 1024)
  | .submit _ tag idx => decide (tag < 256 ∧ idx < 1024)
  | .stmFlush _ tag idx => decide (tag < 256 ∧ idx < 1024)
  | .setPriority _ tag idx => decide (tag < 256 ∧ idx < 1024)
  | .resync _ tag idx => decide (tag < 256 ∧ idx < 1024)
  | .decoderDispatch d _ => decide (d < 32)
  | .decodeWritebackComplete d _ => decide (d < 32)
  | .decodeBudgetExpiry n _ _ => decide (n < 1024)
  | .codingBlockCycleBound d => decide (d < 32)
  | .decoderHangWatchdog d _ => decide (d < 32)
  | .gateSet _ tag idx => decide (tag < 256 ∧ idx < 1024)
  | .scaleSet _ tag idx => decide (tag < 256 ∧ idx < 1024)
  | .gateRead _ tag idx => decide (tag < 256 ∧ idx < 1024)
  | .gateReset _ tag idx => decide (tag < 256 ∧ idx < 1024)
  | .ringReset _ tag idx => decide (tag < 256 ∧ idx < 1024)
  | .gatingDecide n => decide (n < 1024)
  | .pipeTakeEntry p => decide (p < 32)
  | .cropEntryComplete k => decide (k < 32)
  | .scalerClaimStaleExpiry n => decide (n < 1024)
  | .scalerPipeWatchdog p _ => decide (p < 4)
  | .enginePauseWrite _ page _ => decide (page < 1024)
  | .engInjectArm _ page _ => decide (page < 1024)
  | .passComplete n lc e _ => decide (n < 4096 ∧ lc < 48 ∧ e < 4)
  | .mpass n lc => decide (n < 4096 ∧ lc < 48)
  | .ppass n lc => decide (n < 4096 ∧ lc < 48)
  | .cpass n lc => decide (n < 4096 ∧ lc < 48)
  | .drain n lc => decide (n < 4096 ∧ lc < 48)
  | .drainComplete n lc _ => decide (n < 4096 ∧ lc < 48)
  | .crossedTensorCommit n entry => decide (n < 4096 ∧ entry < 1024)
  | .dmaCopy n lc => decide (n < 4096 ∧ lc < 48)
  | .dmaFill n lc => decide (n < 4096 ∧ lc < 48)
  | .dmaTranspose n lc => decide (n < 4096 ∧ lc < 48)
  | .dmaComplete n lc e _ => decide (n < 4096 ∧ lc < 48 ∧ e < 2)
  | .reshard n lc => decide (n < 4096 ∧ lc < 48)
  | .reshardComplete n lc _ => decide (n < 4096 ∧ lc < 48)
  | .reshardWatchdog n lc => decide (n < 4096 ∧ lc < 48)
  | .waitRowReady n lc => decide (n < 4096 ∧ lc < 48)
  | .waitClave n lc => decide (n < 4096 ∧ lc < 48)
  | .waitSatisfied n lc => decide (n < 4096 ∧ lc < 48)
  | .waitWatchdogExpiry n lc => decide (n < 4096 ∧ lc < 48)
  | .signalRowReady n lc => decide (n < 4096 ∧ lc < 48)
  | .signalClave n lc => decide (n < 4096 ∧ lc < 48)
  | .signalClaveSet n lc => decide (n < 4096 ∧ lc < 48)
  | .claim n lc => decide (n < 4096 ∧ lc < 48)
  | .claimTake n lc => decide (n < 4096 ∧ lc < 48)
  | .claveValWrite _ k _ => decide (k < 256)
  | .fenceLocal n lc => decide (n < 4096 ∧ lc < 48)
  | .fenceMemory n lc => decide (n < 4096 ∧ lc < 48)
  | .fenceBarrier n lc => decide (n < 4096 ∧ lc < 48)
  | .barrierRelease n => decide (n < 4096)
  | .fenceEnd n lc => decide (n < 4096 ∧ lc < 48)
  | .vec n lc _ => decide (n < 4096 ∧ lc < 48)
  | .spec n lc => decide (n < 4096 ∧ lc < 48)
  | .commit n lc => decide (n < 4096 ∧ lc < 48)
  | .squash n lc => decide (n < 4096 ∧ lc < 48)
  | .tagCommitComplete n lc t => decide (n < 4096 ∧ lc < 48 ∧ t < 8)
  | .tagSquashComplete n lc t => decide (n < 4096 ∧ lc < 48 ∧ t < 8)
  | .killScrubComplete c n => decide (c < 48 ∧ n < 4096)
  | .pendingScrubDeadline c => decide (c < 48)
  | .spDebugRetain _ c _ => decide (c < 48)
  | .spDebugRelease _ c _ => decide (c < 48)
  | .ctxOpen _ tag idx => decide (tag < 256 ∧ idx < 4096)
  | .ctxClose _ tag idx => decide (tag < 256 ∧ idx < 4096)
  | .ctxRead _ tag idx => decide (tag < 256 ∧ idx < 4096)
  | .ctxKill _ tag idx => decide (tag < 256 ∧ idx < 4096)
  | .ctxResume _ tag idx => decide (tag < 256 ∧ idx < 4096)
  | .modelLoad _ tag idx => decide (tag < 256 ∧ idx < 4096)
  | .modelUnload _ tag idx => decide (tag < 256 ∧ idx < 4096)
  | .ctxSave _ tag idx => decide (tag < 256 ∧ idx < 4096)
  | .ctxRestore _ tag idx => decide (tag < 256 ∧ idx < 4096)
  | .dbTail n be _ => decide (n < 4096 ∧ be < 16)
  | .dbCplCons n be _ => decide (n < 4096 ∧ be < 16)
  | .invocationGrant n place => decide (n < 4096) && okCores place
  | .invocationComplete n => decide (n < 4096)
  | .sliceExpiry n => decide (n < 4096)
  | .parkComplete n _ => decide (n < 4096)
  | .unparkRestore n => decide (n < 4096)
  | .evictionComplete n _ => decide (n < 4096)
  | .restoreComplete n => decide (n < 4096)
  | .contextFault n code page _ _ => decide (n < 4096 ∧ code < 256 ∧ page < 1024)
  | .teardownComplete n => decide (n < 4096)
  | .teardownWatchdog n _ _ => decide (n < 4096)
  | .contextProgressWatchdog n => decide (n < 4096)
  | .batchOpen _ tag idx => decide (tag < 256 ∧ idx < 4096)
  | .batchClose _ tag idx => decide (tag < 256 ∧ idx < 4096)
  | .seqRead _ tag idx => decide (tag < 256 ∧ idx < 4096)
  | .seqEnd _ tag idx => decide (tag < 256 ∧ idx < 4096)
  | .tokenPoll b => decide (b < 64)
  | .tokenWaitExpiry b => decide (b < 64)
  | .stepCadenceExpiry b => decide (b < 64)
  | .stepPlan b => decide (b < 64)
  | .trackSet _ tag idx => decide (tag < 256 ∧ idx < 4096)
  | .outletSet _ tag idx => decide (tag < 256 ∧ idx < 4096)
  | .trackOrderRelease n => decide (n < 1024)
  | .outletMove => true
  | .outletIrqTimer n => decide (n < 256)
  | .udpFlushExpiry n => decide (n < 256)
  | .udpRateWindow n => decide (n < 256)
  | .ptxTailWrite _ p _ => decide (p < 8)
  | .evidSet _ tag idx => decide (tag < 256 ∧ idx < 1024)
  | .clip _ tag idx => decide (tag < 256 ∧ idx < 1024)
  | .snap _ tag idx => decide (tag < 256 ∧ idx < 1024)
  | .evidRead _ tag idx => decide (tag < 256 ∧ idx < 1024)
  | .encoderTakePicture e => decide (e < 2)
  | .encoderPictureComplete e _ => decide (e < 2)
  | .encoderRowWatchdog e _ => decide (e < 2)
  | .adaptOpen _ tag idx => decide (tag < 256 ∧ idx < 1024)
  | .adaptStop _ tag idx => decide (tag < 256 ∧ idx < 1024)
  | .adaptRead _ tag idx => decide (tag < 256 ∧ idx < 1024)
  | .adaptClose _ tag idx => decide (tag < 256 ∧ idx < 1024)
  | .adaptStepLoadDone j => decide (j < 4)
  | .adaptConditionChange j => decide (j < 4)
  | .rngTestGo _ _ => true
  | .poolCreate _ tag idx => decide (tag < 256 ∧ idx < 1024)
  | .poolDestroy _ tag idx => decide (tag < 256 ∧ idx < 1024)
  | .poolQuota _ tag idx => decide (tag < 256 ∧ idx < 1024)
  | .poolRead _ tag idx => decide (tag < 256 ∧ idx < 1024)
  | .ketAlloc _ tag idx => decide (tag < 256 ∧ idx < 1024)
  | .ketClaim _ tag idx => decide (tag < 256 ∧ idx < 1024)
  | .ketRelease _ tag idx => decide (tag < 256 ∧ idx < 1024)
  | .ketFree _ tag idx => decide (tag < 256 ∧ idx < 1024)
  | .kettleSweep => true
  | .patrolScrubRead c => decide (c < 32)
  | .recentre c _ => decide (c < 32)
  | .mcRetrain _ c => decide (c < 32)
  | .retrainSlice c _ => decide (c < 32)
  | .bankIdleClose c bank => decide (c < 32 ∧ bank < 16)
  | .refresh c bank temp => decide (c < 32 ∧ bank < 16 ∧ temp < 256)
  | .selfRefreshEntry c => decide (c < 32)
  | .bar2Read ofs _ => decide (ofs < 68719476736)
  | .bar2Write ofs _ => decide (ofs < 68719476736)
  | .xltCfgWrite _ i _ => decide (i < 256)
  | .outwCfgWrite _ w _ => decide (w < 64)
  | .pcieConfigRequest _ => true
  | .pcieHotReset => true
  | .pcieCompletionReceive tag _ => decide (tag < 1024)
  | .pcieCompletionTimeout tag => decide (tag < 1024)
  | .pcieTlpError _ _ => true
  | .pcieLinkLoss => true
  | .freezeRelease _ => true
  | .dStateChange _ => true
  | .pmeTurnOff => true
  | .msixPendingSend v => decide (v < 2048)
  | .msixHoldoffExpiry v => decide (v < 2048)
  | .attnButtonPress => true
  | .slotPowerOff _ => true
  | .mctpWake => true
  | .gongSample vin iin _ => decide (vin < 4096 ∧ iin < 4096)
  | .lowEventStart => true
  | .lowEventEnd => true
  | .rideThroughExpiry => true
  | .swellStart => true
  | .swellTimeout => true
  | .orderlyStop => true
  | .supplyRestart _ => true
  | .powerWindow _ => true
  | .rippleWindow => true
  | .streamShed => true
  | .streamRestore => true
  | .thermalSample _ _ => true
  | .thermalTrip _ => true
  | .railFault => true
  | .pdOn _ n _ => decide (n < 72)
  | .pdOff _ n => decide (n < 72)
  | .pdSwitchOnComplete n => decide (n < 72)
  | .nocTimeout n lc page _ => decide (n < 4096 ∧ lc < 48 ∧ page < 1024)
  | .fwAssert _ page => decide (page < 1024)
  | .fwHeartbeatTimeout => true
  | .unitReset page _ _ => decide (page < 1024)
  | .resetLevelExpiry _ => true
  | .tocOosEnter _ => true
  | .tocOosReturn _ => true
  | .returnToService => true
  | .tbSyncCfgWrite _ _ => true
  | .tbUtimerExpiry k => decide (k < 6)
  | .syncIoEdge => true
  | .ppsInEdge => true
  | .updStage _ tag idx => decide (tag < 256 ∧ idx < 1024)
  | .bundleVerifyDone _ => true
  | .updActivate _ tag idx => decide (tag < 256 ∧ idx < 1024)
  | .componentActivate _ => true
  | .updCommit _ tag idx => decide (tag < 256 ∧ idx < 1024)
  | .updCommitDone _ => true
  | .updAbandon _ tag idx => decide (tag < 256 ∧ idx < 1024)
  | .updRead _ tag idx => decide (tag < 256 ∧ idx < 1024)
  | .aliasCertSigned => true
  | .spdmGetVersion _ _ => true
  | .spdmGetCapabilities _ _ => true
  | .spdmNegotiateAlgorithms _ _ _ => true
  | .spdmGetDigests _ _ => true
  | .spdmGetCertificate _ _ _ _ _ _ => true
  | .spdmChallenge _ _ _ _ _ => true
  | .spdmGetMeasurements _ _ _ _ _ => true
  | .pldmSensorRead _ => true
  | .pldmFirmwareTransfer _ => true
  | .pldmActivateFirmware => true
  | .recoveryBundle _ _ _ _ => true
  | .pealCfgWrite _ _ => true
  | .pealHeartbeat => true
  | .peerHbChange p => decide (p < 16)
  | .peerSilentTimeout p => decide (p < 16)
  | .peerMessageReceive p => decide (p < 16)
  | .migrationPushComplete => true
  | .expect _ tag idx => decide (tag < 256 ∧ idx < 1024)
  | .migrate _ tag idx => decide (tag < 256 ∧ idx < 1024)
  | .trackSend _ tag idx => decide (tag < 256 ∧ idx < 1024)
  | .cancel _ tag idx => decide (tag < 256 ∧ idx < 1024)
  | .holdUpCollapse => true
  | .registerRead _ page ofs => decide (page < 1024) && okOfs ofs
  | .swellEnd => true
  | .pcieLinkRetrained _ _ => true
  | .attnButtonRelease => true
  | .peRefclkPresent => true
  | .coreGroupPowerOn _ => true

end Sys2Proof
end

