-- ==== Sys2Proof/Certificates/Slice0/Obligations.lean ====
section
/-!
DEFINITION. Certificates/Slice0/Obligations.lean: what is claimed of the module, for the provers.
-/
open Sys2Proof Sys2Proof.Machine

/-- For every command c and state s with c at the front of its queue, a step of s is exec of c on s with the queue's rest.
(spec/opcode_table.json) -/
def Obligations.StepRunsFrontCommand : Prop :=
∀ (s : State) (c : Instr) (rest : List Instr), s.pending = c :: rest → step s = exec c { s with pending := rest }

/-- With an empty queue a step answers a next state: the same state while the timebase page 0x1F0 is in RESET, and
otherwise the state with its 64-bit timebase one tick further, everything else unchanged. That an idle step is one
tick of 160 MHz is the model's choice (log 7). (R12) -/
def Obligations.IdleStepCountsTimebase : Prop :=
∀ s : State, s.pending = [] →
    ((blk s 0x1F0).st = .reset → step s = .next s) ∧
    ((blk s 0x1F0).st ≠ .reset → step s = .next { s with tb := { s.tb with t := s.tb.t + 1 } })

/-- At reset every page with a header shows BLK_ID its type and instance, HDR_VER 1 in BLK_CAP, BLK_READY 0x10,
BLK_IRQ_MASK all ones, and zero in BLK_STATUS, BLK_CTRL, BLK_FENCE, BLK_FAULT_CTX, the eight event counters,
BLK_IRQ_ROUTE and BLK_VOTE_ERR; no memory byte is listed and no command waits. (02_register_conventions Table 02-4,
R38) -/
def Obligations.ResetHeaders : Prop :=
(∀ page, hasHeader page = true →
    hdrView State.reset page 0x000 = word ((pageType page).1 <<< 16 ||| (pageType page).2) ∧
    bits (hdrView State.reset page 0x008) 31 28 = 1 ∧
    hdrView State.reset page 0x00C = 0x10#32 ∧ hdrView State.reset page 0x010 = 0 ∧
    hdrView State.reset page 0x014 = 0 ∧ hdrView State.reset page 0x018 = 0 ∧ hdrView State.reset page 0x01C = 0 ∧
    (∀ n, n < 8 → hdrView State.reset page (0x020 + 4 * n) = 0) ∧
    hdrView State.reset page 0x040 = 0xFFFFFFFF#32 ∧ hdrView State.reset page 0x044 = 0 ∧
    hdrView State.reset page 0x080 = 0) ∧
  State.reset.mem = [] ∧ State.reset.pcieMem = [] ∧ State.reset.pending = []

/-- The invariant of StepKeepsInvariant holds at reset for the configured part: the part is that part and the module's
memory and the memory behind the PCIe link are in canonical form. That the configured part is a CX960-M48 is the
model's choice (log 3). (R50, R51) -/
def Obligations.InvariantAtReset : Prop :=
Holds Config.part State.reset

/-- For every state in which the part is p and the device memory and the memory behind the PCIe link are in canonical form
(addresses strictly rising, no entry equal to what an unlisted address reads), every next state a step answers has the
same part p and both memories in canonical form. PART_ID and UNIT_PRESENT come from the manufacture record and no
command changes them. (R50, R51) -/
def Obligations.StepKeepsInvariant : Prop :=
∀ (p : Part) (s t : State), Holds p s → step s = .next t → Holds p t

/-- A register read of a dword-aligned offset answers 0 on a reserved page and counts in BLK_EVT_CNT4 of page 0x000; it
answers all ones on a page whose domain is off and counts in CNT2; it answers all ones on a fenced page outside what
FENCE leaves open and counts in CNT5. Each rewrites ACC_LAST with WRITE 0, the master, KIND 5, 3 or 6, and the dword
offset. No register outside page 0x000's ACC_LAST and the PBA changes. (R29, R41, R48, R50) -/
def Obligations.RegisterReadDisposals : Prop :=
∀ (s : State) (m : Master) (page ofs : Nat), okOfs ofs = true →
    ∀ (a : Access) (cnt kind : Nat) (w : Word),
      ((a = .reserved ∧ cnt = 4 ∧ kind = 5 ∧ w = 0) ∨ (a = .off ∧ cnt = 2 ∧ kind = 3 ∧ w = 0xFFFFFFFF#32) ∨
        (a = .fenced ∧ cnt = 5 ∧ kind = 6 ∧ w = 0xFFFFFFFF#32)) →
      accessOf s m page ofs = a →
      ∃ t, exec (.registerRead m page ofs) s = .next t ∧ t.out.head? = some (.data (leBytes 4 w.toNat)) ∧
        tgetD (blk t 0x000).cnt cnt 0 = satInc (tgetD (blk s 0x000).cnt cnt 0) ∧
        tgetD t.regs (rkey 0x000 0x110) 0 =
          word (masterCode m <<< 28 ||| kind <<< 24 ||| rkey page ofs / 4 % 2 ^ 24) ∧
        (∀ q r, r < 0x10000 → q ≠ 0x202 → ¬ (q = 0x000 ∧ r = 0x110) → getR t q r = getR s q r)

/-- REGISTER_READ of a register that the access reaches, with every guard met, without voted field, LO half or latched
value, answers the register's present value under its readable bits and changes nothing else. LO_READ_LATCH answers
the LO half and latches the present HI half; the next read of HI answers that latched value and ends the latch.
READY_MAP_READ_LATCH answers map bits 0-31 and latches READY_MAP1-3 as they stand. (R30, R31, R70) -/
def Obligations.RegisterReadsAnswer : Prop :=
(∀ (s : State) (m : Master) (page ofs : Nat), okOfs ofs = true → accessOf s m page ofs = .reach →
    guardHit m page ofs (regFlds page ofs) = false → hasRv page ofs = false → regLo page ofs = false →
    ¬ (page = 0x001 ∧ ofs = 0x100) → tget s.latch (rkey page ofs) = none →
    exec (.registerRead m page ofs) s =
      .next { s with out := .data (leBytes 4 (regView s page ofs &&& readMask m page ofs (regFlds page ofs)).toNat) :: s.out }) ∧
  (∀ (s : State) (m : Master) (page ofs : Nat), okOfs ofs = true → accessOf s m page ofs = .reach →
    guardHit m page ofs (regFlds page ofs) = false → hasRv page ofs = false → regLo page ofs = true →
    ∃ t, exec (.loReadLatch m page ofs) s = .next t ∧
      t.out = .data (leBytes 4 (regView s page ofs &&& readMask m page ofs (regFlds page ofs)).toNat) :: s.out ∧
      tget t.latch (rkey page (ofs + 4)) = some (regView s page (ofs + 4)) ∧
      t = { s with out := t.out, latch := t.latch }) ∧
  (∀ (s : State) (m : Master) (page ofs : Nat) (w : Word), okOfs ofs = true → accessOf s m page ofs = .reach →
    guardHit m page ofs (regFlds page ofs) = false → hasRv page ofs = false → regLo page ofs = false →
    ¬ (page = 0x001 ∧ ofs = 0x100) → tget s.latch (rkey page ofs) = some w →
    ∃ t, exec (.registerRead m page ofs) s = .next t ∧ tget t.latch (rkey page ofs) = none ∧
      t.out = .data (leBytes 4 (w &&& readMask m page ofs (regFlds page ofs)).toNat) :: s.out) ∧
  (∀ (s : State) (m : Master), accessOf s m 0x001 0x100 = .reach →
    ∃ t, exec (.readyMapReadLatch m) s = .next t ∧
      t.out = .data (leBytes 4 (readyWord s 0).toNat) :: s.out ∧
      tget t.latch (rkey 0x001 0x104) = some (readyWord s 1) ∧ tget t.latch (rkey 0x001 0x108) = some (readyWord s 2) ∧
      tget t.latch (rkey 0x001 0x10C) = some (readyWord s 3) ∧ t = { s with out := t.out, latch := t.latch })

/-- RV_FIELD_READ of a voted register after upsets answers the register's value as voted and, where exactly one voted
field disagrees, leaves all three copies at the bitwise majority, adds one to BLK_VOTE_ERR.COUNT (saturating at
0xFFFF), and records the dword offset and whether two copies differed. RV_BACKGROUND_SWEEP of a powered page leaves no
voted field of BLK_CTRL or BLK_FENCE with copies that differ. (R42, R43) -/
def Obligations.VotedReadsScrub : Prop :=
(∀ (s : State) (m : Master) (page ofs : Nat) (u : List Upset) (f : Fld), okOfs ofs = true → hasRv page ofs = true →
    pageOn s page = true → accessOf (upsets s page u) m page ofs = .reach →
    guardHit m page ofs (regFlds page ofs) = false → regLo page ofs = false → tget s.latch (rkey page ofs) = none →
    (regFlds page ofs).filter (fun g => g.acc == .rv &&
      disagree (copiesOf (upsets s page u) page ofs) (maskW g.hi g.lo) != 0) = [f] →
    ∃ t, exec (.rvFieldRead m page ofs u) s = .next t ∧
      t.out.head? = some (.data (leBytes 4 (regView (scrub (upsets s page u) page ofs) page ofs &&&
        readMask m page ofs (regFlds page ofs)).toNat)) ∧
      copiesOf t page ofs = Tri.all (copiesOf (upsets s page u) page ofs).maj ∧
      bits (blk t page).voteErr 15 0 = min (bits (blk s page).voteErr 15 0 + 1) 0xFFFF ∧
      bits (blk t page).voteErr 29 16 = ofs / 4 ∧
      bit (blk t page).voteErr 30 = (disagree (copiesOf (upsets s page u) page ofs) (maskW f.hi f.lo) == 2)) ∧
  (∀ (s : State) (page : Nat) (u : List Upset), hasHeader page = true → pageOn s page = true →
    ∃ t, exec (.rvBackgroundSweep page u) s = .next t ∧
      ∀ ofs, (ofs = 0x014 ∨ ofs = 0x018) → ∀ f, f ∈ regFlds page ofs → f.acc = .rv →
        disagree (copiesOf t page ofs) (maskW f.hi f.lo) = 0)

/-- REGISTER_WRITE with all byte enables that reaches a header register with its guard met sets BLK_IRQ_ROUTE's fields,
BLK_IRQ_MASK whole, and clears an event counter on zero, while another value leaves the counter; an RW register of
Tocsin, Rattle and Gong takes the value and leaves every other register. With other byte enables it is dropped and
counted in CNT3 with KIND 4; of a user context, or of a master that misses a guard, it is ignored and counted in CNT0
with KIND 1. (R30, R31, R34, R45) -/
def Obligations.RegisterWriteEffects : Prop :=
(∀ (s : State) (m : Master) (page : Nat) (v : Word), accessOf s m page 0x044 = .reach → prOpen m page 0x044 = true →
    m ≠ .user → pageMsix page = false →
    exec (.registerWrite m 0xF page 0x044 v) s =
      .next { s with blks := tset s.blks page { blk s page with irqRoute := v &&& 0x800007FF#32 } }) ∧
  (∀ (s : State) (m : Master) (page : Nat) (v : Word), accessOf s m page 0x040 = .reach → prOpen m page 0x040 = true →
    m ≠ .user → pageMsix page = false →
    ∃ t, exec (.registerWrite m 0xF page 0x040 v) s = .next t ∧ (blk t page).irqMask = v ∧
      t = { s with blks := t.blks, regs := t.regs, pcie := t.pcie, out := t.out }) ∧
  (∀ (s : State) (m : Master) (page n : Nat) (v : Word), n < 8 → page ≠ 0x1C0 →
    accessOf s m page (0x020 + 4 * n) = .reach → m ≠ .user → pageMsix page = false →
    ∃ t, exec (.registerWrite m 0xF page (0x020 + 4 * n) v) s = .next t ∧
      tgetD (blk t page).cnt n 0 = (if v = 0 then 0 else tgetD (blk s page).cnt n 0)) ∧
  (∀ (s : State) (m : Master) (page ofs : Nat) (v : Word), m ≠ .user →
    (page, ofs) ∈ [(0x1A0, 0x104), (0x1A0, 0x10C), (0x1D0, 0x100), (0x1D0, 0x108), (0x1B0, 0x114)] →
    accessOf s m page ofs = .reach → tget s.rvs (rkey page ofs) = none →
    ∃ t, exec (.registerWrite m 0xF page ofs v) s = .next t ∧ getR t page ofs = v ∧
      (∀ k, k ≠ rkey page ofs → tget t.regs k = tget s.regs k) ∧ t = { s with regs := t.regs }) ∧
  (∀ (s : State) (m : Master) (be page ofs : Nat) (v : Word), okOfs ofs = true → be < 15 →
    accessOf s m page ofs ≠ .unserved →
    ∃ t, exec (.registerWrite m be page ofs v) s = .next t ∧
      tgetD (blk t 0x000).cnt 3 0 = satInc (tgetD (blk s 0x000).cnt 3 0) ∧
      tgetD t.regs (rkey 0x000 0x110) 0 =
        word (1 <<< 31 ||| masterCode m <<< 28 ||| 4 <<< 24 ||| rkey page ofs / 4 % 2 ^ 24) ∧
      (∀ q r, r < 0x10000 → q ≠ 0x202 → ¬ (q = 0x000 ∧ r = 0x110) → getR t q r = getR s q r)) ∧
  (∀ (s : State) (m : Master) (page ofs : Nat) (v : Word), okOfs ofs = true → accessOf s m page ofs = .reach →
    (m = .user ∨ guardHit m page ofs (regFlds page ofs) = true) →
    ∃ t, exec (.registerWrite m 0xF page ofs v) s = .next t ∧
      tgetD (blk t 0x000).cnt 0 0 = satInc (tgetD (blk s 0x000).cnt 0 0) ∧
      (∀ q r, r < 0x10000 → q ≠ 0x202 → ¬ (q = 0x000 ∧ r = 0x110) → getR t q r = getR s q r))

/-- REGISTER_CROSSING_TIMEOUT of an access that reaches its page: a read answers all ones; a write changes no register but
the accounting of page 0x000 and the PBA. BLK_EVT_CNT1 of page 0x000 adds one, and ACC_LAST holds the access with KIND
2. (R47, R50) -/
def Obligations.CrossingTimeout : Prop :=
∀ (s : State) (m : Master) (wr : Bool) (page ofs : Nat), accessOf s m page ofs = .reach →
    ∃ t, exec (.registerCrossingTimeout m wr page ofs) s = .next t ∧
      (wr = false → t.out.head? = some (.data (leBytes 4 0xFFFFFFFF))) ∧
      tgetD (blk t 0x000).cnt 1 0 = satInc (tgetD (blk s 0x000).cnt 1 0) ∧
      tgetD t.regs (rkey 0x000 0x110) 0 =
        word (b2n wr <<< 31 ||| masterCode m <<< 28 ||| 2 <<< 24 ||| rkey page ofs / 4 % 2 ^ 24) ∧
      (∀ q r, r < 0x10000 → q ≠ 0x202 → ¬ (q = 0x000 ∧ r = 0x110) → getR t q r = getR s q r) ∧
      t = { s with blks := t.blks, regs := t.regs, pcie := t.pcie, out := t.out }

/-- POWER_ON_RESET with the always-on domain unpowered leaves the module waiting for phase B with memory cleared, the
timebase at 0 and RESET_CAUSE 1 (6 after a thermal trip); without a valid image the security page is FAILED and the
recovery responder runs. PERST_N_ASSERT of an up module leaves it waiting with RESET_CAUSE 2, training values and
active profile dropped, device memory cleared, the timebase at 0, and Tocsin's log kept. PHASE_B_START samples
PROFILE_SEL and MOD_ID and activates the selected slot's record with SOURCE 0 when it is valid, and otherwise no
profile, SOURCE 3. (R57, R58, R59, R60, R61, R72, R74) -/
def Obligations.PowerOnAndPerstResets : Prop :=
(∀ (s : State) (f : BootFact), s.life.phase = .off →
    ∃ t, exec (.powerOnReset f) s = .next t ∧ t.life.phase = .waitPerst ∧ t.mem = [] ∧ t.tb.t = 0 ∧
      tgetD t.regs (rkey 0x004 0x100) 0 = word (if s.gong.trip then 6 else 1) ∧
      (imageLeft s.sec = none → t.life.recovery = true ∧ t.life.secReady = false ∧ (blk t 0x1C0).st = .failed)) ∧
  (∀ s : State, s.life.phase = .up →
    ∃ t, exec .perstNAssert s = .next t ∧ t.life.phase = .waitPerst ∧ t.mem = [] ∧ t.tb.t = 0 ∧
      tgetD t.regs (rkey 0x004 0x100) 0 = 2 ∧ t.life.trained = [] ∧ t.life.profile = none ∧ t.toc.log = s.toc.log) ∧
  (∀ (s : State) (sel modId : Nat), s.life.phase = .waitPerst → s.life.secReady = true → sel < 4 → modId < 16 →
    ∃ t, exec (.phaseBStart sel modId) s = .next t ∧ t.life.phase = .up ∧ t.life.sel = sel ∧ t.life.modId = modId ∧
      t.life.profile = profOf s sel ∧ t.life.source = (if (profOf s sel).isSome then 0 else 3) ∧ t.life.index = sel)

/-- RESET_REQ_WARM_CHIP by a privileged master, and ROOT_LOCK_LOSS, in service, outside a low event, with a valid image
and FLEET_EN 0, reset the chip: RESET_CAUSE 3 or 8 with TRAINING_KEPT, phase B to start, contexts and streams gone,
and the timebase, the active profile, the kept training values and every GDDR6 byte unchanged while scratchpads read
0. ROOT_LOCK_LOSS adds one to BLK_EVT_CNT0 of page 0x003. RESET_REQ_PARTITION naming partitions without two resets in
the last 60 s leaves every byte of their cores' scratchpads 0 and the phase unchanged. (R55, R57, R58, R500, R504) -/
def Obligations.WarmAndPartitionResets : Prop :=
(∀ (s : State) (m : Master), reaches s m 0x004 0x104 = true → warmFree s = true →
    ∃ t, exec (.resetReqWarmChip m) s = .next t ∧ t.life.phase = .waitB ∧ t.tb = s.tb ∧
      t.life.profile = s.life.profile ∧ t.life.trained = s.life.trained ∧
      tgetD t.regs (rkey 0x004 0x100) 0 = 0x103#32 ∧ t.ctxs = [] ∧ t.stms = [] ∧ t.pending = s.pending ∧
      (∀ a, memRd t.mem a = if a < 0x000E00000000 then memRd s.mem a else 0)) ∧
  (∀ (s : State) (e : Bool), (s.life.phase = .up ∨ s.life.phase = .waitPerst ∨ s.life.phase = .waitB) → warmFree s = true →
    ∃ t, exec (.rootLockLoss e) s = .next t ∧ t.life.phase = .waitB ∧ t.tb = s.tb ∧
      t.life.profile = s.life.profile ∧ tgetD t.regs (rkey 0x004 0x100) 0 = 0x108#32 ∧ t.ctxs = [] ∧
      tgetD (blk t 0x003).cnt 0 0 = satInc (tgetD (blk s 0x003).cnt 0 0)) ∧
  (∀ (s : State) (m : Master) (parts : Nat), parts < 16 → parts ≠ 0 → reaches s m 0x004 0x104 = true →
    s.toc.oos = false → lowEvent s = false →
    (∀ q, q < 4 → parts.testBit q = true → (recentTimes s (tgetD s.toc.hist3 q []) (60 * Config.tSec)).length < 2) →
    ∃ t, exec (.resetReqPartition m parts) s = .next t ∧ t.life.phase = s.life.phase ∧
      (∀ c o, c < 48 → o < 0x400000 → parts.testBit (c / 12) = true → memRd t.mem (scratchAddr c o) = 0))

/-- With nothing held for any target: FUNCTION_READY of a page in INIT or SELFTEST whose domain is on (a quad, PCIe and
Gong apart) leaves its block in RUN; of a quad whose training passes likewise with its training values kept, and of
one whose full training has a lane under 16 steps FAILED; of the management block it sets READY_MAP bit 1.
BRINGUP_BOUND_EXPIRY of a block coming up leaves it FAILED. CORE_GROUP_POWER_ON with Carillon and Gong ready takes the
next group of four. PE_REFCLK_PRESENT records the reference clock and a PCIe domain that is on starts link training
from RESET. (R61, R64, R66, R423, R424) -/
def Obligations.BringUp : Prop :=
(∀ (s : State) (p : Nat) (f : ReadyFact), heldIdle s = true → comingUp s p = true → pageOn s p = true →
    ¬ (0x130 ≤ p ∧ p ≤ 0x133) → ¬ (p = 0x180 ∨ p = 0x181) → p ≠ 0x1B0 →
    ∃ t, exec (.functionReady (.page p) f) s = .next t ∧ (blk t p).st = .run) ∧
  (∀ (s : State) (q : Nat) (f : ReadyFact), q < 4 → heldIdle s = true → comingUp s (0x130 + q) = true →
    pageOn s (0x130 + q) = true →
    ∃ t, exec (.functionReady (.page (0x130 + q)) f) s = .next t ∧
      (quadFails s q f = false → (blk t (0x130 + q)).st = .run ∧ q ∈ t.life.trained) ∧
      (quadFails s q f = true → (blk t (0x130 + q)).st = .failed)) ∧
  (∀ (s : State) (f : ReadyFact), heldIdle s = true → s.life.phase = .up → s.life.secReady = true →
    s.life.mgtReady = false →
    ∃ t, exec (.functionReady .mgmt f) s = .next t ∧ fnReady t 1 = true) ∧
  (∀ (s : State) (p : Nat), heldIdle s = true → comingUp s p = true → pageOn s p = true →
    ∃ t, exec (.bringupBoundExpiry (.page p)) s = .next t ∧ (blk t p).st = .failed) ∧
  (∀ (s : State) (room : Bool), s.life.phase = .up → s.life.groups < 12 → fnReady s 8 = true → fnReady s 102 = true →
    ∃ t, exec (.coreGroupPowerOn room) s = .next t ∧ t.life.groups = s.life.groups + 1) ∧
  (∀ s : State, ∃ t, exec .peRefclkPresent s = .next t ∧ t.life.refclk = true ∧
    (s.life.phase = .up → (blk s 0x180).st = .reset → pdOn s 60 = true → t.pcie.link = 1 ∧ (blk t 0x180).st = .init))

/-- QUIESCE_SET by a privileged master sets QUIESCE and leaves the state; BLOCK_QUIESCED of a block in RUN with QUIESCE
set and no work in flight leaves it QUIESCED; QUIESCE_CLEAR of a QUIESCED block, with nothing held, leaves it in RUN
with QUIESCE 0. FENCE_SET of a block in RUN, UPDATING, RETRAINING or QUIESCED leaves it FENCED with FENCE 1, logs a
fence record and starts its 100 us; FENCE_DRAIN_COMPLETE with nothing in flight ends that; FENCE_CUT from 100 us on
ends it too, and a live context with a read open is torn down with FAULT_FENCED. FENCE_CLEAR of a fenced block in
service leaves it in SELFTEST with FENCE 0. (R65, R499, R562) -/
def Obligations.QuiesceAndFence : Prop :=
(∀ (s : State) (m : Master) (p : Nat), hasHeader p = true → reaches s m p 0x014 = true →
    ∃ t, exec (.quiesceSet m p) s = .next t ∧ quiesceOf (blk t p) = true ∧ (blk t p).st = (blk s p).st ∧
      t = { s with blks := t.blks, regs := t.regs, pcie := t.pcie, out := t.out }) ∧
  (∀ (s : State) (p : Nat), (blk s p).st = .run → quiesceOf (blk s p) = true → inFlight s p = false → pageOn s p = true →
    ¬ (p = 0x170 ∨ p = 0x171) → ∃ t, exec (.blockQuiesced p) s = .next t ∧ (blk t p).st = .quiesced) ∧
  (∀ (s : State) (m : Master) (p : Nat), hasHeader p = true → reaches s m p 0x014 = true → heldIdle s = true →
    (blk s p).st = .quiesced →
    ∃ t, exec (.quiesceClear m p) s = .next t ∧ (blk t p).st = .run ∧ quiesceOf (blk t p) = false) ∧
  (∀ (s : State) (m : Master) (p : Nat), hasHeader p = true → reaches s m p 0x018 = true → heldIdle s = true →
    (blk s p).st ∈ [BlkSt.run, .updating, .retraining, .quiesced] →
    ∃ t, exec (.fenceSet m p) s = .next t ∧ (blk t p).st = .fenced ∧ bit (blk t p).fence.maj 0 = true ∧
      tget t.toc.fences p = some (now s) ∧
      byteAt (tgetD t.toc.log ((getR s 0x1A0 0x100).toNat % 1024) []) 0 = 2) ∧
  (∀ (s : State) (p : Nat), (tget s.toc.fences p).isSome = true → inFlight s p = false →
    exec (.fenceDrainComplete p) s = .next { s with toc := { s.toc with fences := tdel s.toc.fences p } }) ∧
  (∀ (s : State) (p t0 n : Nat) (f : CutFact), tget s.toc.fences p = some t0 → t0 + 100 * Config.tUs ≤ now s →
    f.ctxs = [n] → (ctx s n).st.live = true → inReset s n = false →
    ∃ t, exec (.fenceCut p f) s = .next t ∧ tget t.toc.fences p = none ∧ (ctx t n).st = .teardown ∧ (ctx t n).code = 0x16) ∧
  (∀ (s : State) (m : Master) (p : Nat), hasHeader p = true → reaches s m p 0x018 = true → s.toc.oos = false →
    (blk s p).st = .fenced →
    ∃ t, exec (.fenceClear m p) s = .next t ∧ (blk t p).st = .selftest ∧ bit (blk t p).fence.maj 0 = false ∧
      tget t.toc.fences p = none)

/-- A POOL_READ that reaches an empty Kettle port answers NOT_READY (0xA, detail 0x17) and is counted while Kettle is
FAILED, answers FENCED (0xB, detail 0x16) while it is FENCED, and waits PENDING in the queue, counted as held, while
Kettle initialises; with 256 commands waiting it is dropped and counted. While a low event lasts a command whose
target would take it is held, and no other is refused for the event. HELD_COMMAND_TIMEOUT of the only waiting command
of a port whose target holds it, at an age of 2 s or more, answers NOT_READY, empties the queue and counts the
refusal. (R67, R68, R70, R104) -/
def Obligations.HeldCommands : Prop :=
(∀ (s : State) (m : Master) (tag idx : Nat), reaches s m (portPage s .ket) 0x400 = true → portQ s .ket = [] →
    ∃ t, exec (.poolRead m tag idx) s = .next t ∧
      (portDisp s .ket 4 idx (staged s .ket) = .notReady → resultAt t .ket tag = resultWord 0xA 0x17 ∧
        tgetD (blk t 0x001).cnt 3 0 = satInc (tgetD (blk s 0x001).cnt 3 0)) ∧
      (portDisp s .ket 4 idx (staged s .ket) = .fenced → resultAt t .ket tag = resultWord 0xB 0x16) ∧
      (portDisp s .ket 4 idx (staged s .ket) = .held → resultAt t .ket tag = resultWord 0xF 0 ∧
        portQ t .ket = [⟨4, tag, idx, staged s .ket, now s⟩] ∧
        tgetD (blk t 0x001).cnt 2 0 = satInc (tgetD (blk s 0x001).cnt 2 0))) ∧
  (∀ (s : State) (m : Master) (tag idx : Nat), reaches s m (portPage s .ket) 0x400 = true → (portQ s .ket).length = 256 →
    ∃ t, exec (.poolRead m tag idx) s = .next t ∧ portQ t .ket = portQ s .ket ∧
      tgetD t.regs (rkey 0x160 0x408) 0 = satAdd (getR s 0x160 0x408) 1) ∧
  (∀ (s : State) (p : Port) (op idx : Nat) (o : List Byte), stopping s = false → lowEvent s = true →
    (targetDisp s p op idx o = .run → portDisp s p op idx o = .held) ∧
    (switchHolds s p op = false → targetDisp s p op idx o ≠ .run → portDisp s p op idx o = targetDisp s p op idx o)) ∧
  (∀ (s : State) (k : Nat) (p : Port) (c : PCmd), allPorts[k]? = some p → portQ s p = [c] →
    portDisp s p c.op c.idx c.operand = .held → switchHolds s p c.op = false →
    c.arrival + 2 * Config.tSec ≤ now s → (∀ q, q ≠ p → portQ s q = []) →
    s.ctxs.all (fun (q : Nat × Ctx) => q.2.heldTails.isEmpty) = true →
    ∃ t, exec (.heldCommandTimeout (.port k)) s = .next t ∧ resultAt t p c.tag = resultWord 0xA 0x17 ∧ portQ t p = [] ∧
      tgetD (blk t 0x001).cnt 3 0 = satInc (tgetD (blk s 0x001).cnt 3 0))

/-- PROFILE_SWITCH by a privileged master: during a switch it is refused with RESULT 6 and counted; with an invalid record
RESULT 2; with a valid record that passes Table 03-9 the switch awaits the boundary from now on.
PROFILE_SWITCH_DECODER_ABANDON 45 ms after GO puts the frame of a decoder to be disabled back at the head of its
stream's queue uninterrupted, and counts it. PROFILE_SWITCH_APPLY at the boundary, with nothing held, makes the record
the active profile with SOURCE 1 and notes the timebase value. (R75, R76, R77) -/
def Obligations.ProfileSwitching : Prop :=
(∀ (s : State) (m : Master) (target : Nat), target < 4 → reaches s m 0x002 0x104 = true →
    ∃ t, exec (.profileSwitch m target) s = .next t ∧ t.life.profile = s.life.profile ∧
      (s.life.switchTo.isSome = true → tgetD t.regs (rkey 0x002 0x108) 0 = word (target <<< 16 ||| 6 <<< 8 ||| 3) ∧
        t.life.switchTo = s.life.switchTo ∧ tgetD (blk t 0x002).cnt 1 0 = satInc (tgetD (blk s 0x002).cnt 1 0)) ∧
      (s.life.switchTo = none → profOf s target = none →
        tgetD t.regs (rkey 0x002 0x108) 0 = word (target <<< 16 ||| 2 <<< 8) ∧ t.life.switchTo = none) ∧
      (∀ r, s.life.switchTo = none → profOf s target = some r → switchCheck s r = 1 →
        t.life.switchTo = some r ∧ t.life.switchAt = now s)) ∧
  (∀ (s : State) (d : Nat) (r : List Byte) (j : Job), s.life.switchTo = some r → (dec s d).job = some j →
    (byteAt r 0x103).testBit (d / 8) = false → s.life.switchAt + 45 * Config.tMs ≤ now s →
    ∃ t, exec (.profileSwitchDecoderAbandon d) s = .next t ∧ (dec t d).job = none ∧
      (stm t j.stm).queue = j.au :: (stm s j.stm).queue ∧ (stm t j.stm).moveWait = true ∧ (stm t j.stm).dec = none ∧
      tgetD (blk t 0x002).cnt 2 0 = satInc (tgetD (blk s 0x002).cnt 2 0)) ∧
  (∀ (s : State) (r : List Byte), s.life.switchTo = some r → atBoundary s r = true → heldIdle s = true →
    ∃ t, exec .profileSwitchApply s = .next t ∧ t.life.profile = some r ∧ t.life.source = 1 ∧ t.life.switchTo = none ∧
      tgetD t.regs (rkey 0x002 0x10C) 0 = word (now s) ∧ tgetD t.regs (rkey 0x002 0x110) 0 = word (now s / 0x100000000))

/-- With the flow port taking the command: OPEN of a closed flow with a record whose fields are all in range, a key no
open flow has, a filled key slot where a cipher needs one, the port's own or a multicast destination, and room under
ADMIT_FLOWS answers DONE and the flow is OPEN with the record, its keys and switch index, learning its SSRC as
flagged; a field out of range answers ILLEGAL_FIELD with its offset and changes no flow. CLOSE of an open flow that
writes no access unit answers DONE and leaves it closed with nothing held. READ_STATUS answers DONE with the flow's
96-byte record in FLOW_STATUS. SET_SR of an open flow sets its mapping. Every other flow is unchanged. (R88, R89, R97,
R100, R104, R105) -/
def Obligations.FlowCommands : Prop :=
(∀ (s : State) (m : Master) (tag n : Nat), portTakes s .flow m 1 n = true → n < 4096 →
    (flow s n).st = 0 → flowBad s (staged s .flow) = none →
    (openFlows s).find? (fun q => keysEqual (flowKey7 (staged s .flow)) (leAt (staged s .flow) 0x2C 4)
      ((byteAt (staged s .flow) 0).testBit 2) q.2) = none →
    (byteAt (staged s .flow) 3 = 0 ∨ (tget s.keys (leAt (staged s .flow) 0x32 2)).isSome = true) →
    (isMcast ((byteAt (staged s .flow) 0).testBit 1) (slice (staged s .flow) 0x18 16) = true ∨
      portIp (portAddr s (byteAt (staged s .flow) 1)) ((byteAt (staged s .flow) 0).testBit 1) =
        slice (staged s .flow) 0x18 16) →
    (openFlows s).length + 1 ≤ profF s 0x106 2 0 →
    ∃ t, exec (.flowOpen m tag n) s = .next t ∧ resultAt t .flow tag = resultWord 1 0 ∧
      (flow t n).st = 1 ∧ (flow t n).recd = (staged s .flow).take 128 ∧ (flow t n).keyA = leAt (staged s .flow) 0x32 2 ∧
      (flow t n).keyB = leAt (staged s .flow) 0x34 2 ∧ (flow t n).sw = leAt (staged s .flow) 0x40 8 ∧
      (flow t n).learnt = !(byteAt (staged s .flow) 0).testBit 2 ∧ (flow t n).held = [] ∧
      (∀ k, k ≠ n → flow t k = flow s k) ∧ t = { s with flows := t.flows, regs := t.regs }) ∧
  (∀ (s : State) (m : Master) (tag n f : Nat), portTakes s .flow m 1 n = true → n < 4096 →
    flowBad s (staged s .flow) = some f →
    ∃ t, exec (.flowOpen m tag n) s = .next t ∧ resultAt t .flow tag = resultWord 2 f ∧ t.flows = s.flows) ∧
  (∀ (s : State) (m : Master) (tag n : Nat), portTakes s .flow m 2 n = true → n < 4096 → (flow s n).st ≠ 0 →
    (flow s n).writing = [] →
    ∃ t, exec (.flowClose m tag n) s = .next t ∧ resultAt t .flow tag = resultWord 1 0 ∧ (flow t n).st = 0 ∧
      (flow t n).held = [] ∧ (∀ k, k ≠ n → flow t k = flow s k) ∧ t.keys = s.keys) ∧
  (∀ (s : State) (m : Master) (tag n : Nat), portTakes s .flow m 3 n = true → n < 4096 →
    ∃ t, exec (.flowReadStatus m tag n) s = .next t ∧ resultAt t .flow tag = resultWord 1 0 ∧
      (∀ k, k < 24 → tgetD t.regs (rkey 0x172 (0x300 + 4 * k)) 0 = word (leAt (flowRecord (flow s n)) (4 * k) 4)) ∧
      t = { s with regs := t.regs }) ∧
  (∀ (s : State) (m : Master) (tag n : Nat), portTakes s .flow m 4 n = true → n < 4096 → (flow s n).st ≠ 0 →
    ∃ t, exec (.setSr m tag n) s = .next t ∧ resultAt t .flow tag = resultWord 1 0 ∧
      flow t n = { flow s n with sr := some (leAt (staged s .flow) 0 4, leAt (staged s .flow) 8 8) } ∧
      (∀ k, k ≠ n → flow t k = flow s k) ∧ t = { s with flows := t.flows, regs := t.regs })

/-- With the flow port taking the command: KEY_LOAD of an entry in range answers DONE, fills the slot with the staged 64
bytes and leaves FLOW_STAGE all zero, every other slot unchanged. KEY_ERASE empties a slot that no open flow names and
answers KEY_IN_USE with the flow, slots unchanged, for one that a flow names. RELEARN_SSRC of an open flow with no
other open flow of its seven fields makes it learn. SET_KEYS of an open flow with a filled or no KEY_B replaces KEY_B
and SWITCH_INDEX, and promotes KEY_B first exactly when the highest accepted index has reached the current
SWITCH_INDEX. (R87, R90, R92, R93) -/
def Obligations.KeyCommands : Prop :=
(∀ (s : State) (m : Master) (tag n : Nat), portTakes s .flow m 5 n = true → n < 8192 →
    keyBad (staged s .flow) = none →
    ∃ t, exec (.keyLoad m tag n) s = .next t ∧ resultAt t .flow tag = resultWord 1 0 ∧
      tget t.keys n = some ((staged s .flow).take 64) ∧ (∀ k, k ≠ n → tget t.keys k = tget s.keys k) ∧
      (∀ k, k < 32 → tgetD t.regs (rkey 0x172 (0x200 + 4 * k)) 0 = 0) ∧
      t = { s with keys := t.keys, regs := t.regs }) ∧
  (∀ (s : State) (m : Master) (tag n : Nat), portTakes s .flow m 6 n = true → n < 8192 → keyUser s n = none →
    ∃ t, exec (.keyErase m tag n) s = .next t ∧ resultAt t .flow tag = resultWord 1 0 ∧ tget t.keys n = none ∧
      (∀ k, k ≠ n → tget t.keys k = tget s.keys k) ∧ t = { s with keys := t.keys, regs := t.regs }) ∧
  (∀ (s : State) (m : Master) (tag n f : Nat), portTakes s .flow m 6 n = true → n < 8192 → keyUser s n = some f →
    ∃ t, exec (.keyErase m tag n) s = .next t ∧ resultAt t .flow tag = resultWord 6 f ∧ t.keys = s.keys) ∧
  (∀ (s : State) (m : Master) (tag n : Nat), portTakes s .flow m 7 n = true → n < 4096 → (flow s n).st ≠ 0 →
    (openFlows s).find? (fun q => q.1 != n && flowKey7 q.2.recd == flowKey7 (flow s n).recd) = none →
    ∃ t, exec (.relearnSsrc m tag n) s = .next t ∧ resultAt t .flow tag = resultWord 1 0 ∧
      flow t n = { flow s n with learnt := false, relearn := true } ∧ (∀ k, k ≠ n → flow t k = flow s k)) ∧
  (∀ (s : State) (m : Master) (tag n : Nat), portTakes s .flow m 8 n = true → n < 4096 → (flow s n).st ≠ 0 →
    leAt (staged s .flow) 8 8 < 2 ^ 48 →
    (leAt (staged s .flow) 0 2 = 0xFFFF ∨
      (leAt (staged s .flow) 0 2 < 8192 ∧ (tget s.keys (leAt (staged s .flow) 0 2)).isSome = true)) →
    ∃ t, exec (.setKeys m tag n) s = .next t ∧ resultAt t .flow tag = resultWord 1 0 ∧
      (flow t n).keyB = leAt (staged s .flow) 0 2 ∧ (flow t n).sw = leAt (staged s .flow) 8 8 ∧
      (((flow s n).keyB ≠ 0xFFFF ∧ ∃ h, (flow s n).hi = some h ∧ (flow s n).sw ≤ trueIdx h) →
        (flow t n).keyA = (flow s n).keyB) ∧
      (¬ ((flow s n).keyB ≠ 0xFFFF ∧ ∃ h, (flow s n).hi = some h ∧ (flow s n).sw ≤ trueIdx h) →
        (flow t n).keyA = (flow s n).keyA) ∧
      (∀ k, k ≠ n → flow t k = flow s k) ∧ t = { s with flows := t.flows, regs := t.regs })

/-- PORT_MODE_WRITE by a privileged master keeps the written MODE and FEC25 in the register, and they come into force at
once only while the cage's page is QUIESCED. LINK_UP on a present port of a READY cage with an active module sets that
port's UP bit and FEC bit and no other port's UP bit; LINK_DOWN of an up port clears them and counts it. QSFP_INSERT
shows a readable module of class 1 to 4 active, another class refused and an unreadable one as such; QSFP_REMOVE
clears PORT_MOD and takes every present link of the cage down. (R80, R558) -/
def Obligations.LinksAndCages : Prop :=
(∀ (s : State) (m : Master) (cage : Nat) (v : Word), cage < 2 → reaches s m (0x170 + cage) 0x100 = true →
    ∃ t, exec (.portModeWrite m cage v) s = .next t ∧ getR t (0x170 + cage) 0x100 = v &&& 0x3D#32 ∧
      ((blk s (0x170 + cage)).st = .quiesced → tgetD t.portMode cage 0 = v &&& 0x3D#32) ∧
      ((blk s (0x170 + cage)).st ≠ .quiesced → t.portMode = s.portMode ∧ t.flows = s.flows)) ∧
  (∀ (s : State) (p : Nat) (fec : Bool), lportPresent s p = true → ready s (lportPage p) = true → modState s (p / 4) = 2 →
    ∃ t, exec (.linkUp p fec) s = .next t ∧ bit (rawR t (lportPage p) 0x104) (p % 4) = true ∧
      bit (rawR t (lportPage p) 0x104) (8 + p % 4) = fec ∧
      (∀ k, k < 4 → k ≠ p % 4 → bit (rawR t (lportPage p) 0x104) k = bit (getR s (lportPage p) 0x104) k) ∧
      t = { s with regs := t.regs }) ∧
  (∀ (s : State) (p : Nat), linkUp s p = true →
    ∃ t, exec (.linkDown p) s = .next t ∧ bit (rawR t (lportPage p) 0x104) (p % 4) = false ∧
      bit (rawR t (lportPage p) 0x104) (8 + p % 4) = false ∧
      tgetD (blk t (lportPage p)).cnt 7 0 = satInc (tgetD (blk s (lportPage p)).cnt 7 0)) ∧
  (∀ (s : State) (cage cls temp : Nat) (readable : Bool), cage < 2 → cls < 16 → temp < 256 →
    ready s (0x170 + cage) = true →
    ∃ t, exec (.qsfpInsert cage cls temp readable) s = .next t ∧
      bits (rawR t (0x170 + cage) 0x108) 3 0 = (if readable then (if 1 ≤ cls ∧ cls ≤ 4 then 2 else 3) else 4) ∧
      bits (rawR t (0x170 + cage) 0x108) 19 16 = (if readable then cls else 0) ∧
      bits (rawR t (0x170 + cage) 0x108) 31 24 = temp ∧ t = { s with regs := t.regs }) ∧
  (∀ (s : State) (cage : Nat), cage < 2 → tget s.rvs (rkey (0x170 + cage) 0x104) = none →
    ∃ t, exec (.qsfpRemove cage) s = .next t ∧ rawR t (0x170 + cage) 0x108 = 0 ∧
      ∀ l, l < 4 → linkUp t (4 * cage + l) = false)

/-- PACKET_RECEIVE on an up port counts the frame, and one with a bad FCS in CNT1 as well, touching no flow. A candidate
of an open plain-RTP flow whose sequence number is not stray, replayed or late, with no window over, within
JITTER_PKTS and granted its blocks, is stored: the flow's accepted count rises by one, its last arrival is the
packet's stamp, and ingest CNT0 adds one. EXCEPTION_RATE_WINDOW starts a port's count anew. JITTER_WINDOW_EXPIRY at
the window's end releases the head frame: its missing numbers are added to CUM_LOST and fewer packets are held.
ACCESS_UNIT_WRITTEN of a flow's oldest released frame, with no migration, takes it off and hands its block to the open
stream's queue with the capture stamp. (R80, R84, R94, R95, R98) -/
def Obligations.PacketIntake : Prop :=
(∀ (s : State) (p : Packet), linkUp s p.lport = true → ready s (lportPage p.lport) = true → ready s 0x172 = true →
    stopping s = false → p.fcsOk = false →
    ∃ t, exec (.packetReceive p) s = .next t ∧ t.flows = s.flows ∧
      tgetD (blk t (lportPage p.lport)).cnt 0 0 = satInc (tgetD (blk s (lportPage p.lport)).cnt 0 0) ∧
      tgetD (blk t (lportPage p.lport)).cnt 1 0 = satInc (tgetD (blk s (lportPage p.lport)).cnt 1 0)) ∧
  (∀ (s : State) (p : Packet) (n : Nat) (pay : List Byte) (pl : KPool),
    rtpCandidate s p = true → flowHit s p = some n →
    (flow s n).cipher = 0 → (flow s n).learnt = true → (flow s n).stray = none →
    isStray (flow s n) (be16 (udpPayload p.frame (etherOf p.frame)) 2) = false →
    (flow s n).seen.contains (estIdx (flow s n) (be16 (udpPayload p.frame (etherOf p.frame)) 2)) = false →
    (∀ h, (flow s n).hi = some h → h < estIdx (flow s n) (be16 (udpPayload p.frame (etherOf p.frame)) 2) + 512) →
    jitterExpired s (flow s n) = false →
    isLate (flow s n) (estIdx (flow s n) (be16 (udpPayload p.frame (etherOf p.frame)) 2))
      (be32 (udpPayload p.frame (etherOf p.frame)) 4) = false →
    (flow s n).held.length < (flow s n).jpkts →
    depad (udpPayload p.frame (etherOf p.frame)) ((udpPayload p.frame (etherOf p.frame)).drop
      (rtpHdrLen (udpPayload p.frame (etherOf p.frame)))) = some pay →
    pool s (flow s n).jbPool = some pl → poolUsable s (flow s n).jbPool = true →
    s.ecc = [] → pl.broken = false → quotaRule s pl 3 n 0 (cdiv (pay.length + 32) pl.bsize) = .ok [] →
    ∃ t, exec (.packetReceive p) s = .next t ∧ (flow t n).accepted = (flow s n).accepted + 1 ∧
      (flow t n).lastArr = now s - p.latency) ∧
  (∀ (s : State) (p : Nat), exec (.exceptionRateWindow p) s = .next { s with excWin := tdel s.excWin p }) ∧
  (∀ (s : State) (n : Nat), (flow s n).st ≠ 0 → jitterExpired s (flow s n) = true →
    ∃ t, exec (.jitterWindowExpiry n) s = .next t ∧
      (flow t n).lost = (flow s n).lost +
        headMissing (flow s n) ∧
      (flow t n).held.length < (flow s n).held.length) ∧
  (∀ (s : State) (n : Nat) (std : List Byte) (r : Rel) (rest : List Rel), (flow s n).writing = r :: rest →
    (flow s n).closing = none → s.peal.migIn = none → s.peal.migOut = none → (stm s r.stm).st ≠ 0 →
    (stm s r.stm).host = false →
    ∃ t, exec (.accessUnitWritten n std) s = .next t ∧ (flow t n).writing = rest ∧
      ∃ a ∈ (stm t r.stm).queue, a.addr = r.blk ∧ a.stamp = r.stamp ∧ a.src = r.src)

/-- TB_SRC_WRITE by a privileged master with SOURCE 3 is dropped; a change of SOURCE to 1 or 2 sets STATE 1 and to 0 sets
STATE 0; a write that keeps SOURCE keeps STATE. PTP_MESSAGE_RECEIVE on the selected up port and domain with an offset,
and PTM_UPDATE with PTM enabled on an up link, leave STATE 2: in STATE 1, or at an offset of 1 ms or more, the
timebase steps by the offset and STEPS adds one, and otherwise only the frequency correction changes, within 500 ppm.
PTP_SYNC_TIMEOUT 10 s after the last Sync leaves STATE 3 and the correction unchanged. (R102, R103, R445) -/
def Obligations.TimebaseDiscipline : Prop :=
(∀ (s : State) (m : Master) (v : Word), reaches s m 0x1F0 0x100 = true →
    (bits v 1 0 = 3 → exec (.tbSrcWrite m v) s = .next s) ∧
    (bits v 1 0 ≠ 3 → ∃ t, exec (.tbSrcWrite m v) s = .next t ∧ getR t 0x1F0 0x100 = v &&& 0x7F73#32 ∧ t.tb.t = s.tb.t ∧
      (bits v 1 0 = bits (getR s 0x1F0 0x100) 1 0 → t.regs = s.regs) ∧
      (bits v 1 0 ≠ bits (getR s 0x1F0 0x100) 1 0 →
        bits (rawR t 0x1F0 0x104) 3 0 = if bits v 1 0 = 0 then 0 else 1))) ∧
  (∀ (s : State) (f : TbFact) (d : Int), ready s 0x1F0 = true → bits (getR s 0x1F0 0x100) 1 0 = 1 →
    bits (getR s 0x1F0 0x100) 6 4 = f.port → bits (getR s 0x1F0 0x100) 14 8 = f.domain →
    bit (getR s (0x170 + f.port / 4) 0x104) (f.port % 4) = true → f.offset = some d →
    ∃ t, exec (.ptpMessageReceive f) s = .next t ∧ bits (rawR t 0x1F0 0x104) 3 0 = 2 ∧
      ((tbState s = 1 ∨ Config.tMs ≤ d.natAbs) → t.tb.t = BitVec.ofNat 64 (((now s : Int) + d).toNat)) ∧
      (¬ (tbState s = 1 ∨ Config.tMs ≤ d.natAbs) → t.tb.t = s.tb.t ∧ -500000000 ≤ t.tb.freq ∧ t.tb.freq ≤ 500000000)) ∧
  (∀ (s : State) (f : TbFact) (d : Int), ready s 0x1F0 = true → bits (getR s 0x1F0 0x100) 1 0 = 2 → fnReady s 2 = true →
    s.pcie.link = 2 → s.pcie.ptmEn = true → f.offset = some d →
    ∃ t, exec (.ptmUpdate f) s = .next t ∧ bits (rawR t 0x1F0 0x104) 3 0 = 2 ∧
      ((tbState s = 1 ∨ Config.tMs ≤ d.natAbs) → t.tb.t = BitVec.ofNat 64 (((now s : Int) + d).toNat))) ∧
  (∀ s : State, ready s 0x1F0 = true → bits (getR s 0x1F0 0x100) 1 0 = 1 →
    s.tb.lastSync + 10 * Config.tSec ≤ now s →
    ∃ t, exec .ptpSyncTimeout s = .next t ∧ bits (rawR t 0x1F0 0x104) 3 0 = 3 ∧ t.tb = s.tb ∧ t = { s with regs := t.regs })

/-- With the stream port taking the command: OPEN of a closed stream whose record is in range, under ADMIT_STREAMS and the
decode rate limit, answers DONE and leaves the stream open with that record and its PRIORITY; a field out of range
answers ILLEGAL_FIELD with its offset, and past the rate limit ADMISSION with detail 1, no stream changed. CLOSE of an
open stream with no frame in decode and no migration answers DONE and leaves it closed, with no frame of it at the
scaler; with a frame in decode it answers PENDING and waits for it with an empty queue. READ_STATUS answers DONE with
the 64-byte record. SET_PRIORITY sets the effective priority. RESYNC sets STATE 3 and counts one event 6 when the
stream was in another state. (R111, R113, R123, R134) -/
def Obligations.StreamCommands : Prop :=
(∀ (s : State) (m : Master) (tag n : Nat), portTakes s .stm m 1 n = true → n < 1024 → (stm s n).st = 0 →
    stmBad s (staged s .stm) = none → (openStms s).length + 1 ≤ profF s 0x104 2 0 →
    ∃ t, exec (.stmOpen m tag n) s = .next t ∧
      (stmRate s + leAt (staged s .stm) 0x10 4 ≤ rateLimit s → resultAt t .stm tag = resultWord 1 0 ∧
        stm t n = { st := 1, recd := (staged s .stm).take 64, prio := byteAt (staged s .stm) 2 } ∧
        (∀ k, k ≠ n → stm t k = stm s k) ∧ t = { s with stms := t.stms, regs := t.regs }) ∧
      (rateLimit s < stmRate s + leAt (staged s .stm) 0x10 4 → resultAt t .stm tag = resultWord 9 1 ∧
        t = { s with regs := t.regs })) ∧
  (∀ (s : State) (m : Master) (tag n f : Nat), portTakes s .stm m 1 n = true → n < 1024 →
    stmBad s (staged s .stm) = some f →
    ∃ t, exec (.stmOpen m tag n) s = .next t ∧ resultAt t .stm tag = resultWord 2 f ∧ t = { s with regs := t.regs }) ∧
  (∀ (s : State) (m : Master) (tag n : Nat), portTakes s .stm m 2 n = true → n < 1024 → (stm s n).st ≠ 0 →
    s.peal.migIn = none → s.peal.migOut = none →
    ∃ t, exec (.stmClose m tag n) s = .next t ∧
      ((stm s n).dec = none → resultAt t .stm tag = resultWord 1 0 ∧ stm t n = {} ∧
        ∀ f ∈ t.sframes, f.stm ≠ n) ∧
      ((stm s n).dec.isSome = true → resultAt t .stm tag = resultWord 0xF 0 ∧
        stm t n = { stm s n with ending := some (2, tag), queue := [] } ∧ (∀ k, k ≠ n → stm t k = stm s k))) ∧
  (∀ (s : State) (m : Master) (tag n : Nat), portTakes s .stm m 3 n = true → n < 1024 →
    ∃ t, exec (.stmReadStatus m tag n) s = .next t ∧ resultAt t .stm tag = resultWord 1 0 ∧
      (∀ k, k < 16 → tgetD t.regs (rkey 0x100 (0x600 + 4 * k)) 0 = word (leAt (stmRecord (stm s n)) (4 * k) 4)) ∧
      t = { s with regs := t.regs }) ∧
  (∀ (s : State) (m : Master) (tag n : Nat), portTakes s .stm m 7 n = true → n < 1024 → (stm s n).st ≠ 0 →
    byteAt (staged s .stm) 0 < 8 →
    ∃ t, exec (.setPriority m tag n) s = .next t ∧ resultAt t .stm tag = resultWord 1 0 ∧
      (stm t n).prio = byteAt (staged s .stm) 0 ∧ byteAt (stm t n).recd 2 = byteAt (staged s .stm) 0 ∧
      (stm t n).queue = (stm s n).queue ∧ (stm t n).st = (stm s n).st ∧ (∀ k, k ≠ n → stm t k = stm s k) ∧
      t = { s with stms := t.stms, regs := t.regs }) ∧
  (∀ (s : State) (m : Master) (tag n : Nat), portTakes s .stm m 8 n = true → n < 1024 → (stm s n).st ≠ 0 →
    ∃ t, exec (.resync m tag n) s = .next t ∧ resultAt t .stm tag = resultWord 1 0 ∧ (stm t n).st = 3 ∧
      tgetD (stm t n).cnt 5 0 = (if (stm s n).st = 3 then tgetD (stm s n).cnt 5 0 else satInc (tgetD (stm s n).cnt 5 0)) ∧ (stm t n).queue = (stm s n).queue ∧
      (∀ k, k ≠ n → stm t k = stm s k))

/-- With the stream port taking the command: SUBMIT to an open host stream of an access unit within MAX_AU answers DONE
and enters it at the end of a queue of under 16, with its capture stamp and the time of entry, no other queue changed.
SET_PARAMS of 1 to 16,384 readable bytes not above the maxima answers DONE and adds them to what is applied before the
next access unit; above the maxima it answers result 0xC and adds nothing. FLUSH with no frame in decode empties queue
and DPB and waits for a random access point; what the scaler holds stays. DECODER_DISPATCH of a free decoder takes the
first ready stream in the order of R118; a head access unit that is neither discarded, rejected nor stale goes into
decode with the stream's FRAME_NO, which advances. (R114, R115, R116, R118, R119, R134) -/
def Obligations.DecodeQueue : Prop :=
(∀ (s : State) (m : Master) (tag n : Nat), portTakes s .stm m 5 n = true → n < 1024 → (stm s n).st ≠ 0 →
    (stm s n).host = true → leAt (staged s .stm) 8 4 ≤ leAt (stm s n).recd 0x18 2 * 1024 → (stm s n).queue.length < 16 →
    ∃ t, exec (.submit m tag n) s = .next t ∧ resultAt t .stm tag = resultWord 1 0 ∧
      (stm t n).queue = (stm s n).queue ++
        [{ addr := leAt (staged s .stm) 0 8, len := leAt (staged s .stm) 8 4,
           stamp := leAt (staged s .stm) 0x10 8, entry := now s, sample := leAt (staged s .stm) 0x18 4 }] ∧
      (∀ k, k ≠ n → (stm t k).queue = (stm s k).queue)) ∧
  (∀ (s : State) (m : Master) (tag n : Nat) (above : Bool),
    portTakes s .stm m (if above then 0x104 else 4) n = true → n < 1024 →
    (stm s n).st ≠ 0 → 1 ≤ leAt (staged s .stm) 8 4 → leAt (staged s .stm) 8 4 ≤ 16384 → s.ecc = [] →
    (unitRead s (leAt (staged s .stm) 0 8) (leAt (staged s .stm) 8 4)).2.2 = true →
    locate (leAt (staged s .stm) 0 8) = .gddr →
    ∃ t, exec (.setParams m tag n above) s = .next t ∧
      resultAt t .stm tag = (if above then resultWord 0xC 0 else resultWord 1 0) ∧
      (stm t n).params = (stm s n).params ++
        (if above then [] else [rdMem s (leAt (staged s .stm) 0 8) (leAt (staged s .stm) 8 4)]) ∧
      (∀ k, k ≠ n → stm t k = stm s k)) ∧
  (∀ (s : State) (m : Master) (tag n : Nat), portTakes s .stm m 6 n = true → n < 1024 → (stm s n).st ≠ 0 →
    (stm s n).dec = none → s.peal.migIn = none → s.peal.migOut = none →
    ∃ t, exec (.stmFlush m tag n) s = .next t ∧ resultAt t .stm tag = resultWord 1 0 ∧ (stm t n).st = 1 ∧
      (stm t n).queue = [] ∧ (stm t n).dpb = [] ∧ (stm t n).recd = (stm s n).recd ∧
      (stm t n).frameNo = (stm s n).frameNo ∧ t.sframes = s.sframes) ∧
  (∀ (s : State) (d n : Nat) (h : AuHdr) (a : Au) (rest : List Au), decFree s d = true →
    decPick s d = some (n, stm s n) → (stm s n).queue = a :: rest → shedLevel s n ≠ 2 →
    h.rap = true → h.rasl = false → h.unsupported = false → overMaxima (stm s n) h = false →
    (stm s n).limitBad = false → h.parses = true → h.existing = none →
    (aged s a.stamp (stm s n).stale = false ∨ (stm s n).adapt = true) →
    ∃ t, exec (.decoderDispatch d h) s = .next t ∧ (stm t n).queue = rest ∧ (stm t n).dec = some d ∧ (stm t n).st = 2 ∧
      (stm t n).frameNo = (stm s n).frameNo + 1 ∧ (∀ k, k ≠ n → stm t k = stm s k) ∧
      ∃ j, (dec t d).job = some j ∧ j.stm = n ∧ j.au = a ∧ j.hdr = h ∧ j.frameNo = (stm s n).frameNo ∧
        some j.pic = (stm s n).picBlk ∧ some j.map = (stm s n).mapBlk) ∧
  (∀ (s : State) (d n : Nat) (h : AuHdr) (a : Au) (rest : List Au), decFree s d = true →
    decPick s d = some (n, stm s n) → (stm s n).queue = a :: rest → a.intr = 0 → (stm s n).st = 1 → h.rap = false →
    (stm s n).adapt = false →
    ∃ t, exec (.decoderDispatch d h) s = .next t ∧ (stm t n).queue = rest ∧
      (stm t n).frameNo = (stm s n).frameNo + 1 ∧ (stm t n).consumed = satInc (stm s n).consumed ∧
      (stm t n).frames = (stm s n).frames ∧ (stm t n).dec = none ∧ t.decs = s.decs)

/-- DECODE_WRITEBACK_COMPLETE of a frame whose stream waits for no CLOSE or FLUSH frees the decoder, counts the frame for
stream and decoder, and a reference picture enters the DPB with its blocks. DECODE_BUDGET_EXPIRY before the window's
end less the copy time changes nothing; at it, the frame of a stream that is no adaptation stream leaves the decoder,
its expiry counts in decoder CNT6 and as event 3, and demotes the stream one level, no lower than 7.
CODING_BLOCK_CYCLE_BOUND counts in CNT2 and marks the frame damaged. DECODER_HANG_WATCHDOG on a frame not yet
interrupted resets the decoder, counted as a level-2 reset, and puts the access unit back at the head of its queue,
interrupted once. (R121, R122, R126, R127, R502) -/
def Obligations.DecodeEnds : Prop :=
(∀ (s : State) (d : Nat) (j : Job) (f : DecFact), d < 32 → (dec s d).job = some j → (stm s j.stm).ending = none →
    ∃ t, exec (.decodeWritebackComplete d f) s = .next t ∧ (dec t d).job = none ∧ (stm t j.stm).dec = none ∧
      (stm t j.stm).frames = satInc (stm s j.stm).frames ∧ (stm t j.stm).consumed = satInc (stm s j.stm).consumed ∧
      tgetD (blk t (0x100 + d)).cnt 0 0 = satInc (tgetD (blk s (0x100 + d)).cnt 0 0) ∧
      (j.hdr.isRef = true → ∃ p ∈ (stm t j.stm).dpb, p.blk = j.pic ∧ p.map = j.map ∧ p.frameNo = j.frameNo ∧
        p.stamp = j.au.stamp)) ∧
  (∀ (s : State) (d n : Nat) (j : Job) (h : AuHdr) (f : DecFact), d < 32 → (stm s n).dec = some d →
    (dec s d).job = some j → j.stm = n → (stm s n).adapt = false → (stm s n).ending = none →
    (now s + copyTicks (stm s n) < j.au.entry + (stm s n).budget →
      exec (.decodeBudgetExpiry n h f) s = .next s) ∧
    (j.au.entry + (stm s n).budget ≤ now s + copyTicks (stm s n) →
      ∃ t, exec (.decodeBudgetExpiry n h f) s = .next t ∧ (dec t d).job = none ∧ (stm t n).dec = none ∧
        (stm t n).prio = min 7 ((stm s n).prio + 1) ∧
        tgetD (stm t n).cnt 2 0 = satInc (tgetD (stm s n).cnt 2 0) ∧
        tgetD (blk t (0x100 + d)).cnt 6 0 = satInc (tgetD (blk s (0x100 + d)).cnt 6 0))) ∧
  (∀ (s : State) (d : Nat) (j : Job), (dec s d).job = some j →
    ∃ t, exec (.codingBlockCycleBound d) s = .next t ∧ (dec t d).job = some { j with bound := true } ∧
      tgetD (blk t (0x100 + d)).cnt 2 0 = satInc (tgetD (blk s (0x100 + d)).cnt 2 0) ∧ t.stms = s.stms ∧
      (∀ k, k ≠ d → dec t k = dec s k)) ∧
  (∀ (s : State) (d : Nat) (j : Job), d < 32 → (dec s d).job = some j → j.au.intr = 0 → (stm s j.stm).ending = none →
    unitResets s (0x100 + d) = true → heldIdle s = true →
    ∃ t, exec (.decoderHangWatchdog d true) s = .next t ∧ (blk t (0x100 + d)).st = .run ∧ (dec t d).job = none ∧
      (stm t j.stm).dec = none ∧ (stm t j.stm).queue = { j.au with intr := 1 } :: (stm s j.stm).queue ∧
      tgetD (blk t 0x1A0).cnt 2 0 = satInc (tgetD (blk s 0x1A0).cnt 2 0))

/-- With the scaler port taking the command and the stream open: GATE_SET of a record in range answers DONE and installs
it at GATE_NO 0 with its next frame whole; a field out of range answers ILLEGAL_FIELD with its offset. GATE_READ
answers DONE with the 64-byte gate status record. GATE_RESET sets every AGE to 0 and forces the next frame whole.
RING_RESET of ring 0 to 31 answers DONE, ends every job of the ring and sets RING_CONS to the producer counter.
GATING_DECIDE of a gated stream's oldest undecided picture counts the frame and advances GATE_NO; an intra picture has
every tile processed and none carried. (R147, R148, R149, R150, R159) -/
def Obligations.GateCommands : Prop :=
(∀ (s : State) (m : Master) (tag n : Nat), portTakes s .scl m 1 n = true → n < 1024 → (stm s n).st ≠ 0 →
    gateBad s (stm s n) (staged s .scl) = none →
    ∃ t, exec (.gateSet m tag n) s = .next t ∧ resultAt t .scl tag = resultWord 1 0 ∧
      gate t n = { gate s n with recd := (staged s .scl).take 64, no := 0, whole := true, age := [] } ∧
      (∀ k, k ≠ n → gate t k = gate s k) ∧ t = { s with gates := t.gates, regs := t.regs }) ∧
  (∀ (s : State) (m : Master) (tag n f : Nat), portTakes s .scl m 1 n = true → n < 1024 → (stm s n).st ≠ 0 →
    gateBad s (stm s n) (staged s .scl) = some f →
    ∃ t, exec (.gateSet m tag n) s = .next t ∧ resultAt t .scl tag = resultWord 2 f ∧ t = { s with regs := t.regs }) ∧
  (∀ (s : State) (m : Master) (tag n : Nat), portTakes s .scl m 3 n = true → n < 1024 → (stm s n).st ≠ 0 →
    ∃ t, exec (.gateRead m tag n) s = .next t ∧ resultAt t .scl tag = resultWord 1 0 ∧
      (∀ k, k < 16 → tgetD t.regs (rkey 0x128 (0x600 + 4 * k)) 0 = word (leAt (gateStatus (gate s n)) (4 * k) 4)) ∧
      t = { s with regs := t.regs }) ∧
  (∀ (s : State) (m : Master) (tag n : Nat), portTakes s .scl m 4 n = true → n < 1024 → (stm s n).st ≠ 0 →
    ∃ t, exec (.gateReset m tag n) s = .next t ∧ resultAt t .scl tag = resultWord 1 0 ∧
      gate t n = { gate s n with age := [], whole := true } ∧ (∀ k, k ≠ n → gate t k = gate s k) ∧
      t = { s with gates := t.gates, regs := t.regs }) ∧
  (∀ (s : State) (m : Master) (tag i : Nat), portTakes s .scl m 5 i = true → i < 32 →
    ∃ t, exec (.ringReset m tag i) s = .next t ∧ resultAt t .scl tag = resultWord 1 0 ∧
      tget t.rjobs i = none ∧ tget t.ringAt i = none ∧
      tgetD t.regs (rkey (sclPage (i / 8)) (ringOfs (i % 8) + 12)) 0 =
        clv s (bits (getR s (sclPage (i / 8)) (ringOfs (i % 8) + 8)) 15 8) ∧
      (∀ k, k ≠ i → tget t.rjobs k = tget s.rjobs k) ∧ t.pipes = s.pipes) ∧
  (∀ (s : State) (n : Nat) (f : SFrame), s.sframes.find? (fun g => g.stm == n && g.phase == 0) = some f →
    (gate s n).gated = true →
    ∃ t, exec (.gatingDecide n) s = .next t ∧ (gate t n).no = (gate s n).no + 1 ∧ (gate t n).last = (gate s n).no ∧
      (gate t n).prev = some f.frameNo ∧ (gate t n).frames = satInc (gate s n).frames ∧ (gate t n).whole = false ∧
      (rdLe s (f.map + 5) 1 = 0 →
        (gate t n).procd = cdiv (rdLe s (f.map + 0xC) 2) (gate s n).tileW * cdiv (rdLe s (f.map + 0xE) 2) (gate s n).tileH ∧
        (gate t n).carried = 0 ∧ (gate t n).wholes = satInc (gate s n).wholes))

/-- With the scaler port taking the command and the stream open: SCALE_SET of 1 to 8 readable entries answers DONE and
keeps their 128-byte records as they stand in memory then, whatever their fields; count 0 removes the list; if the
entries cannot be read it answers ILLEGAL_FIELD with DETAIL 0 and the previous list stays. A standing entry runs from
the frame's kept copy and is checked when a pipe takes it: a field that fails refuses that entry and counts it, and no
pipe takes it. (R564) -/
def Obligations.ScaleListKept : Prop :=
(∀ (s : State) (m : Master) (tag n : Nat), portTakes s .scl m 2 n = true → n < 1024 → (stm s n).st ≠ 0 →
    leAt (staged s .scl) 8 4 ≤ 8 →
    ∃ t, exec (.scaleSet m tag n) s = .next t ∧ (∀ k, k ≠ n → gate t k = gate s k) ∧
      (leAt (staged s .scl) 8 4 = 0 → resultAt t .scl tag = resultWord 1 0 ∧ gate t n = { gate s n with list := [] }) ∧
      (1 ≤ leAt (staged s .scl) 8 4 →
        (unitRead s (leAt (staged s .scl) 0 8) (128 * leAt (staged s .scl) 8 4)).2.2 = true →
        resultAt t .scl tag = resultWord 1 0 ∧
        gate t n = { gate s n with list := (List.range (leAt (staged s .scl) 8 4)).map (fun i =>
          ((unitRead s (leAt (staged s .scl) 0 8) (128 * leAt (staged s .scl) 8 4)).2.1.drop (128 * i)).take 128) }) ∧
      (1 ≤ leAt (staged s .scl) 8 4 →
        (unitRead s (leAt (staged s .scl) 0 8) (128 * leAt (staged s .scl) 8 4)).2.2 = false →
        resultAt t .scl tag = resultWord 2 0 ∧ gate t n = gate s n)) ∧
  (∀ (s : State) (n : Nat) (f : SFrame), s.sframes = [f] → f.stm = n → f.phase = 0 → (gate s n).gated = false →
    aged s f.stamp (stm s n).stale = false → shedLevel s n = 0 → (gate s n).list ≠ [] →
    ∃ t, exec (.gatingDecide n) s = .next t ∧
      t.sframes = [{ f with phase := 1, runAt := now s, list := (gate s n).list }]) ∧
  (∀ (s : State) (p pipe f : Nat) (c : Cand), takesEntry s p pipe = true → firstCand s p = some c → c.ring = none →
    entryBad (c.fr.list.getD c.idx []) false c.fr.w c.fr.h = some f →
    ∃ t, exec (.pipeTakeEntry p) s = .next t ∧ t.pipes = s.pipes ∧
      tgetD (blk t (sclPage p)).cnt 1 0 = satInc (tgetD (blk s (sclPage p)).cnt 1 0))

/-- PIPE_TAKE_ENTRY of a cluster that may take entries, whose first candidate in the order of R138 is a standing entry
with legal fields, a device destination allowed by R140 and no keep copy, holds that entry with its destination in the
first free pipe and in no other. CROP_ENTRY_COMPLETE of a pipe that holds an entry, outside a low event, frees the
pipe, leaves every other pipe as it was and counts the entry. SCALER_CLAIM_STALE_EXPIRY of a stream that is no
adaptation stream leaves the scaler no frame of it at or past STALE_LIMIT. SCALER_PIPE_WATCHDOG resets the cluster,
counted as a level-2 reset, and every entry stays in its pipe. (R138, R140, R147, R502) -/
def Obligations.CropEntries : Prop :=
(∀ (s : State) (p pipe : Nat) (c : Cand), takesEntry s p pipe = true → firstCand s p = some c → c.ring = none →
    entryBad (c.fr.list.getD c.idx []) false c.fr.w c.fr.h = none → cPool (c.fr.list.getD c.idx []) = false →
    byteAt (c.fr.list.getD c.idx []) 0x50 = 0 →
    entryBad2 (c.fr.list.getD c.idx []) (destBad s (c.fr.list.getD c.idx []) (consumerOf s c)) (consumerOf s c).isNone =
      none →
    ∃ t x, exec (.pipeTakeEntry p) s = .next t ∧ tget t.pipes (8 * p + pipe) = some x ∧
      x.recd = c.fr.list.getD c.idx [] ∧ x.dest = leAt (c.fr.list.getD c.idx []) 0x40 8 ∧ x.keep = none ∧
      x.idx = c.idx ∧ x.fr = c.fr ∧ (∀ k, k ≠ 8 * p + pipe → tget t.pipes k = tget s.pipes k) ∧ t.mem = s.mem) ∧
  (∀ (s : State) (k : Nat) (x : PipeEnt), k < 32 → tget s.pipes k = some x → lowEvent s = false →
    ∃ t, exec (.cropEntryComplete k) s = .next t ∧ tget t.pipes k = none ∧
      (∀ j, j ≠ k → tget t.pipes j = tget s.pipes j) ∧
      tgetD (blk t (sclPage (k / 8))).cnt 0 0 = satInc (tgetD (blk s (sclPage (k / 8))).cnt 0 0)) ∧
  (∀ (s : State) (n : Nat), (stm s n).adapt = false →
    ∃ t, exec (.scalerClaimStaleExpiry n) s = .next t ∧
      (∀ f ∈ t.sframes, f.stm = n → aged s f.stamp (stm s n).stale = false) ∧ t.pipes = s.pipes) ∧
  (∀ (s : State) (p : Nat), p < 4 → (s.pipes.any fun q => q.1 / 8 == p) = true → unitResets s (sclPage p) = true →
    heldIdle s = true →
    ∃ t, exec (.scalerPipeWatchdog p true) s = .next t ∧ (blk t (sclPage p)).st = .run ∧ t.pipes = s.pipes ∧
      tgetD (blk t 0x1A0).cnt 2 0 = satInc (tgetD (blk s 0x1A0).cnt 2 0))

/-- For a depth of 8 or 10 bits, a bound E of 0, 1, 2 or 4 and any 64 samples of that depth: the encoded slot has
tile_bytes bytes, it decodes, every decoded sample is of that depth and differs from the sample encoded by at most E,
the sample at (0, 0) is exact, and with E = 0 the samples are those encoded. (R154, R155, R156, R158) -/
def Obligations.TambourRoundTrip : Prop :=
∀ (b e : Nat) (smp : List Nat), (b = 8 ∨ b = 10) → (e = 0 ∨ e = 1 ∨ e = 2 ∨ e = 4) → smp.length = 64 →
    (∀ v ∈ smp, v < 2 ^ b) →
    (encodeTile b e smp).length = tileBytes b ∧
    ∃ l, decodeTile b (encodeTile b e smp) = some l ∧ l.length = 64 ∧ l.getD 0 0 = smp.getD 0 0 ∧
      (∀ k, k < 64 → l.getD k 0 < 2 ^ b ∧ ((l.getD k 0 : Int) - (smp.getD k 0 : Int)).natAbs ≤ e) ∧
      (e = 0 → l = smp)

/-- When the next descriptor of a stream passes the checks of R225: MPASS, PPASS and CPASS issue while the engine holds
fewer than four passes (a PPASS with a DRAIN on the same engine next), DRAIN when no PPASS awaits it and it does not
predicate its own tag, RESHARD on a part with no other layout under its RS_ID, and DMA while its engine holds fewer
than eight (a tagged DMA that writes outside the scratchpad goes to the held list instead). VEC whose PROG is in range
issues while an earlier VEC waits. Each joins the end of its list with its address and bytes, the PC moves on by 64,
no other sequencer changes and no byte of memory changes. (R165, R225, R227, R231, R236, R242, R245, R281, R294) -/
def Obligations.IssueOfWork : Prop :=
(∀ (s : State) (n lc : Nat) (i : Iss), issues s n lc i = true → i.kind = 1 →
    passesOf s (seq s n lc).core i.engine < 4 → ∃ t, exec (.mpass n lc) s = .next t ∧ Issued s t n lc i) ∧
  (∀ (s : State) (n lc : Nat) (i : Iss), issues s n lc i = true → i.kind = 2 →
    passesOf s (seq s n lc).core i.engine < 4 → (seq s n lc).pc + 64 < (seq s n lc).stop →
    byteAt (rdMem s ((seq s n lc).pc + 64) 64) 0 = 4 → byteAt (rdMem s ((seq s n lc).pc + 64) 64) 8 % 4 = i.engine →
    ∃ t, exec (.ppass n lc) s = .next t ∧ Issued s t n lc i) ∧
  (∀ (s : State) (n lc : Nat) (i : Iss), issues s n lc i = true → i.kind = 3 →
    passesOf s (seq s n lc).core i.engine < 4 → ∃ t, exec (.cpass n lc) s = .next t ∧ Issued s t n lc i) ∧
  (∀ (s : State) (n lc : Nat) (i : Iss), issues s n lc i = true → i.kind = 4 → (seq s n lc).ppass = none →
    ¬((byteAt i.d 8).testBit 3 = true ∧ i.tag = some (byteAt i.d 0xC / 32)) →
    ∃ t, exec (.drain n lc) s = .next t ∧ Issued s t n lc i) ∧
  (∀ (s : State) (n lc : Nat) (i : Iss), issues s n lc i = true → i.kind = 9 → (partsOf i.d).contains lc = true →
    ((partsOf i.d).any fun l => (seq s n l).issued.any fun j =>
      j.kind == 9 && leAt j.d 0xA 2 == leAt i.d 0xA 2 && reshardKey j.d != reshardKey i.d) = false →
    ∃ t, exec (.reshard n lc) s = .next t ∧ Issued s t n lc i) ∧
  (∀ (s : State) (n lc : Nat) (i : Iss), issues s n lc i = true → i.kind = 8 → (seq s n lc).held.length < 16 →
    (dmaOf s (seq s n lc).core (byteAt i.d 8 % 2)).length < 8 →
    ∃ t, (i.fill = true → exec (.dmaFill n lc) s = .next t) ∧
      (i.fill = false → i.transp = true → exec (.dmaTranspose n lc) s = .next t) ∧
      (i.fill = false → i.transp = false → exec (.dmaCopy n lc) s = .next t) ∧
      ((i.tag.isSome && dmaHeldDst s n lc i) = false → Issued s t n lc i) ∧
      ((i.tag.isSome && dmaHeldDst s n lc i) = true →
        descs (seq t n lc).held = descs (seq s n lc).held ++ [(i.addr, i.d)] ∧
        (seq t n lc).issued = (seq s n lc).issued ∧ t.mem = s.mem)) ∧
  (∀ (s : State) (n lc : Nat) (i v : Iss) (f : VecFact), issues s n lc i = true → i.kind = 0x20 → i.prog' < vprogN s n →
    (seq s n lc).issued.find? (fun j => j.kind == 0x20) = some v → vecClear s n lc v f.prog = false →
    ∃ t, exec (.vec n lc f) s = .next t ∧ Issued s t n lc i)

/-- A write of an engine's PAUSE by a privileged master sets or clears BLK_CTRL bit 8 and changes no logical engine.
ENG_INJECT with ARM arms one injection; KIND 0 drops the write. PASS_COMPLETE of an engine that holds no pause, on its
oldest pass when nothing holds it back, whose run meets no fault, failed check or shadow-slot wait, leaves the logical
engine as the run does, counts the pass in CNT0, and either moves the descriptor to its next pass or retires it.
DRAIN_COMPLETE whose run meets no fault retires the DRAIN behind its last group. CROSSED_TENSOR_COMMIT with every
group at or above the final level closes every group, re-runs none and changes no memory. (R168, R186, R188, R212,
R226, R242) -/
def Obligations.EngineEvents : Prop :=
(∀ (s : State) (m : Master) (page : Nat) (on : Bool), isEngine page = true → reaches s m page 0x014 = true →
    ∃ t, exec (.enginePauseWrite m page on) s = .next t ∧ bit (blk t page).ctrl.maj 8 = on ∧
      (blk t page).st = (blk s page).st ∧ t.engs = s.engs ∧ t.mem = s.mem ∧
      ∀ k, (tgetD t.seqs k {}).engs = (tgetD s.seqs k {}).engs ∧ (tgetD t.seqs k {}).pc = (tgetD s.seqs k {}).pc) ∧
  (∀ (s : State) (m : Master) (page : Nat) (v : Word), isEngine page = true → reaches s m page 0x130 = true →
    bit v 31 = true →
    (bits v 30 29 = 0 → exec (.engInjectArm m page v) s = .next s) ∧
    (bits v 30 29 ≠ 0 → ∃ t, exec (.engInjectArm m page v) s = .next t ∧
      tget t.engs (page - 0x040) = some { inject := some (bits v 30 29, bits v 7 0) } ∧
      (∀ k, k ≠ page - 0x040 → tget t.engs k = tget s.engs k) ∧ t = { s with engs := t.engs })) ∧
  (∀ (s : State) (n lc e : Nat) (f : ExecFact) (i : Iss) (r : Run × Plan),
    (seq s n lc).issued.find? (fun j => j.isPass && j.engine == e) = some i → seqLive s n lc = true →
    (seq s n lc).clear i = true → gatesOf s n lc i = 0 → ppassMay (seq s n lc) i = true →
    engStops s (seq s n lc).core e = false → (∀ p ∈ ((seq s n lc).eng e).slots, p.2.badCols = []) →
    passRun s n lc i i.prog f = some r → r.1.fault = none → r.1.fails = [] →
    ∃ t, exec (.passComplete n lc e f) s = .next t ∧ (seq t n lc).eng e = r.1.e ∧
      tgetD (blk t (engPg (seq s n lc).core e)).cnt 0 0 = satInc (tgetD (blk s (engPg (seq s n lc).core e)).cnt 0 0) ∧
      (i.prog + 1 < i.passes → ∃ j ∈ (seq t n lc).issued, j.addr = i.addr ∧ j.iter = i.iter ∧ j.prog = i.prog + 1) ∧
      (i.passes ≤ i.prog + 1 → Retired s t n lc i)) ∧
  (∀ (s u : State) (n lc : Nat) (f : ExecFact) (i : Iss),
    (seq s n lc).issued.find? (fun j => j.kind == 4) = some i → drainMay s n lc i = true →
    (∀ p, i.pp = some p → cdiv (leAt p.2.1 0x10 2) (byteAt p.2.1 0x12) ≤ i.prog + 1) →
    drainRun s n lc i i.prog f = (u, none) →
    ∃ t, exec (.drainComplete n lc f) s = .next t ∧ Retired u t n lc i ∧ t.mem = u.mem) ∧
  (∀ (s : State) (n entry : Nat), crossedOpen s n entry ≠ [] → (ctx s n).st = .running →
    ((lcores s n).any fun l => (seq s n l).issued.any fun i => i.kind == 4 && leAt i.d 0xE 2 == entry) = false →
    (∀ x ∈ crossedOpen s n entry, levelOf (clv s (leAt (scaleEnt s n entry) 2 2)).toNat ≤ x.2.level) →
    ∃ t, exec (.crossedTensorCommit n entry) s = .next t ∧ crossedOpen t n entry = [] ∧ t.mem = s.mem ∧
      ((∃ x ∈ crossedOpen s n entry, x.2.iss.tag = none) → (tget (ctx t n).scaleUpd entry).isSome = true))

/-- For a row of an INT8 or INT4 pass that is not packed or diagonal, with no hardware error and no armed injection,
activations a and 256 weight columns w, all integers: every one of the 256 target entries of the row becomes the sum
over k of a[k] w[c][k] modulo 2^32, added to its old value when the pass accumulates; no other row of the slot and no
other slot changes; no product check fails and no fault ends the pass. (R162, R163, R173, R179, R197) -/
def Obligations.MatrixRow : Prop :=
∀ (p : Plan) (who : Option Nat) (ws : List (List Int)) (a : List Int) (chk : Bool) (pg m : Nat) (u : Run),
    p.mode ≤ 1 → p.diag = none → p.pack = 1 → p.nprob = 1 → u.inj = none →
    (runRow p who (ws.map (·.map Fl.ofInt)) (a.map Fl.ofInt) (fun _ x => x) [] chk pg m u).fails = u.fails ∧
    (runRow p who (ws.map (·.map Fl.ofInt)) (a.map Fl.ofInt) (fun _ x => x) [] chk pg m u).fault = u.fault ∧
    (∀ c, c < 256 →
      ((runRow p who (ws.map (·.map Fl.ofInt)) (a.map Fl.ofInt) (fun _ x => x) [] chk pg m u).e.slot
        (u.e.phys who (p.base + m / 16))).get (m % 16) c =
      toTwos 32 ((if p.acc then sext 32 ((u.e.slot (u.e.phys who (p.base + m / 16))).get (m % 16) c) else 0) +
        ((a.zip (ws.getD c [])).map (fun q => q.1 * q.2)).sum)) ∧
    (∀ r c, r < 16 → c < 256 → r ≠ m % 16 →
      ((runRow p who (ws.map (·.map Fl.ofInt)) (a.map Fl.ofInt) (fun _ x => x) [] chk pg m u).e.slot
        (u.e.phys who (p.base + m / 16))).get r c = (u.e.slot (u.e.phys who (p.base + m / 16))).get r c) ∧
    (∀ k, k ≠ u.e.phys who (p.base + m / 16) →
      (runRow p who (ws.map (·.map Fl.ofInt)) (a.map Fl.ofInt) (fun _ x => x) [] chk pg m u).e.slot k = u.e.slot k)

/-- DMA_COMPLETE of an engine's oldest descriptor, when nothing holds it back, its reads have arrived and its move meets
no fault, retires it and leaves memory as the move does. A one-row FILL to a local scratchpad handle that contains it
writes the four pattern bytes in turn from the handle's byte, and every other byte of device memory is unchanged.
RESHARD_COMPLETE with every partner issued and no fault in its pushes retires the part's descriptor. RESHARD_WATCHDOG
faults the context with 0x09 when a partner is missing for the context's budget, and changes nothing before. VEC of
the top-k program writes the k pairs of R350 to its output handle, changes no other byte, and retires. (R246, R247,
R281, R282, R283, R350, R356) -/
def Obligations.DataMovement : Prop :=
(∀ (s u : State) (n lc e k : Nat) (i : Iss) (f : ExecFact),
    (seq s n lc).issued.find? (fun j => j.kind == 8 && byteAt j.d 8 % 2 == e) = some i → seqLive s n lc = true →
    (seq s n lc).clear i = true → gatesOf s n lc i = 0 → dmaWaits s n lc i = false → dmaArrived s n lc i = true →
    f.par = false → f.hz = [] → dmaRun s n lc i i.prog i.dmaBytes = (u, k, none) →
    ∃ t, exec (.dmaComplete n lc e f) s = .next t ∧ Retired u t n lc i ∧ t.mem = u.mem ∧ t.pcieMem = u.pcieMem) ∧
  (∀ (s : State) (n lc e o : Nat) (i : Iss) (f : ExecFact) (h : HRef),
    (seq s n lc).issued.find? (fun j => j.kind == 8 && byteAt j.d 8 % 2 == e) = some i → seqLive s n lc = true →
    (seq s n lc).clear i = true → gatesOf s n lc i = 0 → dmaWaits s n lc i = false → dmaArrived s n lc i = true →
    f.par = false → f.hz = [] → i.fill = true → i.transp = false → i.prog = 0 → leAt i.d 0xC 4 = 1 → i.dst.isH = true →
    href s n lc (i.dst.hb % 64) = some h → h.scr = true → h.ro = false →
    o = (i.dst.base + iselOf i i.dst.hb) % 2 ^ 32 → o + leAt i.d 0x20 4 ≤ h.ext → o + leAt i.d 0x20 4 ≤ 2 ^ 32 →
    ∃ t, exec (.dmaComplete n lc e f) s = .next t ∧
      (∀ k, k < leAt i.d 0x20 4 →
        memRd t.mem (scratchAddr h.core (h.base + o + k)) = (i.d.drop 0x2C).getD (k % 4) 0) ∧
      (∀ a, (a < scratchAddr h.core (h.base + o) ∨ scratchAddr h.core (h.base + o) + leAt i.d 0x20 4 ≤ a) →
        memRd t.mem a = memRd s.mem a)) ∧
  (∀ (s u : State) (n lc : Nat) (i : Iss) (f : ExecFact), reshardMet s n lc i = true → f.par = false → f.hz = [] →
    reshardPushes n i.d ((partsOf i.d).takeWhile (· != lc)).length s = (u, none) →
    ∃ t, exec (.reshardComplete n lc f) s = .next t ∧ Retired u t n lc i ∧ t.mem = u.mem) ∧
  (∀ (s : State) (n lc : Nat) (i : Iss), (seq s n lc).issued.find? (fun j => j.kind == 9) = some i →
    seqLive s n lc = true → inReset s n = false →
    ((partners i.d ((partsOf i.d).takeWhile (· != lc)).length).any fun k =>
      (partsOf i.d).getD k 64 != lc && !i.got.contains ((partsOf i.d).getD k 64) &&
        (reshardAt s n ((partsOf i.d).getD k 64) i.d).isNone) = true →
    (now s < i.since + wdogTicks s n → exec (.reshardWatchdog n lc) s = .next s) ∧
    (i.since + wdogTicks s n ≤ now s → ∃ t, exec (.reshardWatchdog n lc) s = .next t ∧ Faulted t n 9 ∧ t.mem = s.mem)) ∧
  (∀ (s : State) (n lc first m k o0 o1 : Nat) (i : Iss) (f : VecFact) (h0 h1 : HRef), f.prog = .topK first m k →
    f.par = false → vecReady s n lc f.prog = some i → vecGates s n lc i f.prog = 0 → i.tag = none →
    href s n lc (i.h 0 % 64) = some h0 → href s n lc (i.h 1 % 64) = some h1 → h0.scr = true → h1.scr = true →
    h1.ro = false → o0 = iselOf i (i.h 0) % 2 ^ 32 → o1 = iselOf i (i.h 1) % 2 ^ 32 → o0 + 4 * m ≤ h0.ext →
    o1 + 8 * k ≤ h1.ext →
    ∃ t, exec (.vec n lc f) s = .next t ∧ (∀ j ∈ (seq t n lc).issued, ¬(j.addr = i.addr ∧ j.iter = i.iter)) ∧
      rdMem t (scratchAddr h1.core (h1.base + o1)) (8 * k) = pairBytes (topPairs k ((List.range m).map (fun j =>
        (first + j, leAt (rdMem s (scratchAddr h0.core (h0.base + o0)) (4 * m)) (4 * j) 4)))) ∧
      (∀ a, (a < scratchAddr h1.core (h1.base + o1) ∨ scratchAddr h1.core (h1.base + o1) + 8 * k ≤ a) →
        memRd t.mem a = memRd s.mem a))

/-- When the next descriptor passes the checks of R225: a WAIT on an owned or row-ready counter puts the sequencer in
state WAITING with its threshold. WAIT_SATISFIED with the counter at or past the threshold, as a difference modulo
2^32 under 2^31, lets the stream go on; below it nothing changes. WAIT_WATCHDOG_EXPIRY faults the context with 0x09 at
the end of the window, and changes nothing before. An untagged SIGNAL with nothing else issued adds its value to the
row-ready counter or the owned Clave counter, or sets the Clave counter, modulo 2^32; a tagged one is held instead,
changing no counter. CLAVE_VAL_WRITE sets a counter. (R249, R250, R251, R253, R294) -/
def Obligations.WaitsAndSignals : Prop :=
(∀ (s : State) (n lc : Nat) (i : Iss), issues s n lc i = true → i.kind = 0x10 →
    ∃ t w, (seq t n lc).st = 2 ∧ (seq t n lc).wait = some w ∧ (seq t n lc).pc = (seq s n lc).pc ∧
      w.thresh = word ((leAt i.d 0xC 4 + (if byteAt i.d 8 / 4 % 4 = 0 then 0 else i.idx.getD (byteAt i.d 8 / 4 % 4 - 1) 0)) %
        2 ^ 32) ∧ w.ctr = leAt i.d 0xA 2 ∧ w.since = now s ∧
      w.budget = (if leAt i.d 0x10 4 = 0 then wdogTicks s n else leAt i.d 0x10 4) ∧ SeqOnly s t n lc ∧ t.mem = s.mem ∧
      ((byteAt i.d 8).testBit 0 = false → exec (.waitRowReady n lc) s = .next t ∧ w.lc = byteAt i.d 9 ∧ w.clave = false) ∧
      ((byteAt i.d 8).testBit 0 = true → clvOwned s (leAt i.d 0xA 2) n = true →
        exec (.waitClave n lc) s = .next t ∧ w.clave = true)) ∧
  (∀ (s : State) (n lc : Nat) (w : Wait), (seq s n lc).wait = some w → seqLive s n lc = true →
    ((waitValue s n w - w.thresh).toNat < 2 ^ 31 → ∃ t, exec (.waitSatisfied n lc) s = .next t ∧
      (seq t n lc).wait = none ∧ (seq t n lc).st = 1 ∧ Passed s t n lc ∧ SeqOnly s t n lc ∧ t.mem = s.mem) ∧
    (2 ^ 31 ≤ (waitValue s n w - w.thresh).toNat → exec (.waitSatisfied n lc) s = .next s)) ∧
  (∀ (s : State) (n lc : Nat) (w : Wait), (seq s n lc).wait = some w → seqLive s n lc = true → inReset s n = false →
    (now s < w.since + w.budget → exec (.waitWatchdogExpiry n lc) s = .next s) ∧
    (w.since + w.budget ≤ now s → ∃ t, exec (.waitWatchdogExpiry n lc) s = .next t ∧ Faulted t n 9 ∧ t.mem = s.mem)) ∧
  (∀ (s : State) (n lc : Nat) (i : Iss), issues s n lc i = true → i.kind = 0x11 → i.tag = none →
    (seq s n lc).issued = [] →
    ((byteAt i.d 8).testBit 0 = false → ∃ t, exec (.signalRowReady n lc) s = .next t ∧ Passed s t n lc ∧
      tgetD (seq t n lc).rrc (leAt i.d 0xA 2) 0 = tgetD (seq s n lc).rrc (leAt i.d 0xA 2) 0 + word (leAt i.d 0xC 4) ∧
      (∀ k, k ≠ leAt i.d 0xA 2 → tgetD (seq t n lc).rrc k 0 = tgetD (seq s n lc).rrc k 0) ∧ t.clave = s.clave ∧
      t.mem = s.mem) ∧
    (byteAt i.d 8 % 4 = 1 → clvOwned s (leAt i.d 0xA 2) n = true → ∃ t, exec (.signalClave n lc) s = .next t ∧
      Passed s t n lc ∧ clv t (leAt i.d 0xA 2) = clv s (leAt i.d 0xA 2) + word (leAt i.d 0xC 4) ∧
      (∀ k, k ≠ leAt i.d 0xA 2 → clv t k = clv s k)) ∧
    (byteAt i.d 8 % 4 = 3 → clvOwned s (leAt i.d 0xA 2) n = true → ∃ t, exec (.signalClaveSet n lc) s = .next t ∧
      Passed s t n lc ∧ clv t (leAt i.d 0xA 2) = word (leAt i.d 0xC 4) ∧
      (∀ k, k ≠ leAt i.d 0xA 2 → clv t k = clv s k))) ∧
  (∀ (s : State) (n lc : Nat) (i : Iss), issues s n lc i = true → i.kind = 0x11 → i.tag.isSome = true →
    byteAt i.d 8 % 4 = 1 → clvOwned s (leAt i.d 0xA 2) n = true → (seq s n lc).held.length < 16 →
    ∃ t, exec (.signalClave n lc) s = .next t ∧ (seq t n lc).held = (seq s n lc).held ++ [i] ∧ t.clave = s.clave) ∧
  (∀ (s : State) (m : Master) (k : Nat) (v : Word), k < 256 → reaches s m 0x190 (0x800 + 16 * k) = true →
    ∃ t, exec (.claveValWrite m k v) s = .next t ∧ clv t k = v ∧ ∀ j, j ≠ k → clv t j = clv s j)

/-- When the next descriptor passes the checks of R225: CLAIM of an owned counter with a legal body and no loop open opens
the loop with its first take due. CLAIM_TAKE of a running stream below LIMIT runs the body with IDXj = value times
MULj modulo 2^32 and adds STEP to the counter; at or above LIMIT it goes on behind the body. FENCE LOCAL and MEMORY
complete when nothing is issued and otherwise leave the stream where it is. FENCE BARRIER with nothing issued and one
BARRIER_ID makes the core wait; BARRIER_RELEASE with every core there lets each go on. END as the last descriptor,
with nothing issued, ends the stream. (R248, R252, R253) -/
def Obligations.ClaimsAndFences : Prop :=
(∀ (s : State) (n lc : Nat) (i : Iss), issues s n lc i = true → i.kind = 0x12 → clvOwned s (leAt i.d 0xA 2) n = true →
    ((byteAt i.d 8).testBit 0 = true → bit (getR s 0x190 (0x804 + 16 * leAt i.d 0xA 2)) 30 = true) →
    (seq s n lc).pc + 64 * (leAt i.d 0xC 2 + 1) ≤ (seq s n lc).stop →
    bodyOk s ((seq s n lc).pc + 64) (leAt i.d 0xC 2) = true → (seq s n lc).claim = none →
    ∃ t c, exec (.claim n lc) s = .next t ∧ (seq t n lc).claim = some c ∧ c.due = true ∧ c.ctr = leAt i.d 0xA 2 ∧
      c.body = (seq s n lc).pc + 64 ∧ c.stop = (seq s n lc).pc + 64 * (leAt i.d 0xC 2 + 1) ∧ c.step = leAt i.d 0xE 2 ∧
      c.limit = leAt i.d 0x10 4 ∧ c.mul = [leAt i.d 0x14 4, leAt i.d 0x18 4, leAt i.d 0x1C 4] ∧ Passed s t n lc ∧
      t.clave = s.clave) ∧
  (∀ (s : State) (n lc v : Nat) (c : Claim), (seq s n lc).claim = some c → c.due = true → seqLive s n lc = true →
    (seq s n lc).st = 1 → (c.lease = true → s.leases.length < 1024) →
    v = (tgetD s.returns c.ctr []).headD (clv s c.ctr).toNat →
    ∃ t, exec (.claimTake n lc) s = .next t ∧ (∀ k, k ≠ c.ctr → clv t k = clv s k) ∧
      (v < c.limit → (seq t n lc).pc = c.body ∧ (seq t n lc).idx = c.mul.map (fun m => v * m % 2 ^ 32) ∧
        (tgetD s.returns c.ctr [] = [] → clv t c.ctr = clv s c.ctr + word c.step) ∧
        (tgetD s.returns c.ctr [] ≠ [] → clv t c.ctr = clv s c.ctr) ∧
        t.leases = (if c.lease then s.leases ++ [(c.ctr, v, n, lc)] else s.leases) ∧
        ∃ c', (seq t n lc).claim = some c' ∧ c'.due = false ∧ c'.val = some v) ∧
      (c.limit ≤ v → (seq t n lc).claim = none ∧ clv t c.ctr = clv s c.ctr ∧ t.leases = s.leases ∧
        ((seq s n lc).skip = [] → (seq t n lc).pc = c.stop))) ∧
  (∀ (s : State) (n lc : Nat) (i : Iss), issues s n lc i = true → i.kind = 0x30 → byteAt i.d 8 ≤ 1 →
    ∃ t, (byteAt i.d 8 = 0 → exec (.fenceLocal n lc) s = .next t) ∧ (byteAt i.d 8 = 1 → exec (.fenceMemory n lc) s = .next t) ∧
      t.mem = s.mem ∧ SeqOnly s t n lc ∧ ((seq s n lc).issued = [] → Passed s t n lc) ∧
      ((seq s n lc).issued ≠ [] → t.seqs = s.seqs ∧ t.regs = s.regs)) ∧
  (∀ (s : State) (n lc : Nat) (i : Iss), issues s n lc i = true → i.kind = 0x30 → byteAt i.d 8 = 2 →
    (seq s n lc).issued = [] →
    (∀ l x y, (seq s n l).barrier = some (x, y) → x = leAt i.d 0xA 2) →
    ∃ t, exec (.fenceBarrier n lc) s = .next t ∧ (seq t n lc).barrier = some (leAt i.d 0xA 2, now s) ∧
      (seq t n lc).st = 2 ∧ (seq t n lc).pc = (seq s n lc).pc ∧ SeqOnly s t n lc ∧ t.mem = s.mem) ∧
  (∀ (s : State) (n : Nat), (ctx s n).st = .running → (ctx s n).cores.length ≤ 48 → lcores s n ≠ [] →
    (∀ l ∈ lcores s n, (seq s n l).barrier.isSome = true) →
    ∃ t, exec (.barrierRelease n) s = .next t ∧ t.mem = s.mem ∧
      ∀ l ∈ lcores s n, (seq t n l).barrier = none ∧ (seq t n l).st = 1 ∧
        ((seq s n l).skip = [] → (seq t n l).pc = (seq s n l).pc + 64)) ∧
  (∀ (s : State) (n lc : Nat) (i : Iss), issues s n lc i = true → i.kind = 0x30 → byteAt i.d 8 = 3 →
    (seq s n lc).issued = [] → (seq s n lc).pc + 64 = (seq s n lc).stop →
    ∃ t, exec (.fenceEnd n lc) s = .next t ∧ (seq t n lc).ended = true ∧ (ctx t n).ended.contains lc = true ∧
      SeqOnly s t n lc ∧ t.mem = s.mem)

/-- When the next descriptor passes the checks of R225: SPEC of a FREE tag opens it and counts. COMMIT of an OPEN tag with
nothing of it in flight makes it COMMITTING; of a FAULTED one SQUASHING with its fault to surface; of a SQUASHED one
FREE. SQUASH of an OPEN or FAULTED tag makes it SQUASHING with no fault to surface, of a SQUASHED one FREE.
TAG_COMMIT_COMPLETE of a COMMITTING tag whose held DMAs can run leaves it FREE and no held entry of it.
TAG_SQUASH_COMPLETE of a SQUASHING tag leaves it SQUASHED when a predicate squashed it before its closing descriptor,
and FREE otherwise. (R289, R295, R296, R297, R298, R302) -/
def Obligations.SpeculationTags : Prop :=
(∀ (s : State) (n lc : Nat) (i : Iss), issues s n lc i = true → i.kind = 0x18 →
    ((seq s n lc).tag (byteAt i.d 8 % 8)).st = 0 →
    ∃ t, exec (.spec n lc) s = .next t ∧ (seq t n lc).tag (byteAt i.d 8 % 8) = { st := 1 } ∧ Passed s t n lc ∧
      tgetD t.regs (rkey (lcPg s n lc) 0x530) 0 = satAdd (getR s (lcPg s n lc) 0x530) 1 ∧
      (∀ k, k ≠ byteAt i.d 8 % 8 → (seq t n lc).tag k = (seq s n lc).tag k) ∧ t.mem = s.mem) ∧
  (∀ (s : State) (n lc : Nat) (i : Iss) (x : STag), issues s n lc i = true → i.kind = 0x19 →
    (seq s n lc).tag (byteAt i.d 8 % 8) = x → x.st ∈ [1, 2, 3] →
    closeReady (seq s n lc) (byteAt i.d 8 % 8) (x.st == 1) = true →
    ∃ t, exec (.commit n lc) s = .next t ∧ Passed s t n lc ∧ t.mem = s.mem ∧
      (x.st = 1 → (seq t n lc).tag (byteAt i.d 8 % 8) = { x with st := 4, closed := true }) ∧
      (x.st = 2 → (seq t n lc).tag (byteAt i.d 8 % 8) = { x with st := 5, closed := true, surface := true }) ∧
      (x.st = 3 → (seq t n lc).tag (byteAt i.d 8 % 8) = {}) ∧
      (∀ k, k ≠ byteAt i.d 8 % 8 → (seq t n lc).tag k = (seq s n lc).tag k)) ∧
  (∀ (s : State) (n lc : Nat) (i : Iss) (x : STag), issues s n lc i = true → i.kind = 0x1A →
    (seq s n lc).tag (byteAt i.d 8 % 8) = x → x.st ∈ [1, 2, 3] →
    closeReady (seq s n lc) (byteAt i.d 8 % 8) false = true →
    ∃ t, exec (.squash n lc) s = .next t ∧ Passed s t n lc ∧ t.mem = s.mem ∧
      (x.st ≠ 3 → (seq t n lc).tag (byteAt i.d 8 % 8) = { x with st := 5, closed := true, surface := false }) ∧
      (x.st = 3 → (seq t n lc).tag (byteAt i.d 8 % 8) = {}) ∧
      (∀ k, k ≠ byteAt i.d 8 % 8 → (seq t n lc).tag k = (seq s n lc).tag k)) ∧
  (∀ (s : State) (n lc k : Nat), k < 8 → seqLive s n lc = true → ((seq s n lc).tag k).st = 4 →
    (∀ i ∈ (seq s n lc).held, i.tag = some k → i.kind = 8 → dmaWaits s n lc i = false ∧ dmaArrived s n lc i = true) →
    ∃ t, exec (.tagCommitComplete n lc k) s = .next t ∧ (seq t n lc).tag k = {} ∧
      ∀ i ∈ (seq t n lc).held, i.tag ≠ some k) ∧
  (∀ (s : State) (n lc k : Nat), k < 8 → ((seq s n lc).tag k).st = 5 →
    ∃ t, exec (.tagSquashComplete n lc k) s = .next t ∧
      (((seq s n lc).tag k).verdict = 2 → ((seq s n lc).tag k).closed = false →
        (seq t n lc).tag k = { (seq s n lc).tag k with st := 3 }) ∧
      (¬(((seq s n lc).tag k).verdict = 2 ∧ ((seq s n lc).tag k).closed = false) → (seq t n lc).tag k = {}))

/-- KILL_SCRUB_COMPLETE of a core in a kill scrub ends it with nothing PENDING and counts it; of a core of a context in
TEARDOWN that has not acknowledged, without retention, the core acknowledges, its sequencer is gone and every row of
the context there reads 0. PENDING_SCRUB_DEADLINE 64 us after marking leaves no row PENDING and changes no byte.
SP_DEBUG with RETAIN by a privileged master arms retention for a context; with RELEASE a core with retained rows
begins its scrub. (R285, R286, R287, R308) -/
def Obligations.ScratchpadScrubs : Prop :=
(∀ (s : State) (c n : Nat), (coreSt s c).st = 1 →
    ∃ t, exec (.killScrubComplete c n) s = .next t ∧ (coreSt t c).st = 0 ∧ (coreSt t c).pend = [] ∧
      tgetD t.regs (rkey (corePg c) 0x40C) 0 = satAdd (getR s (corePg c) 0x40C) 1 ∧
      (∀ k, k ≠ c → coreSt t k = coreSt s k)) ∧
  (∀ (s : State) (c n : Nat), (coreSt s c).st = 0 → (ctx s n).st = .teardown → (ctx s n).cores.contains c = true →
    (ctx s n).acked.contains c = false → bit (getR s (corePg c) 0x408) 31 = false →
    ∃ t, exec (.killScrubComplete c n) s = .next t ∧ (ctx t n).acked.contains c = true ∧
      tget t.seqs (64 * n + ((ctx s n).cores.takeWhile (· != c)).length) = none ∧
      ∀ r ∈ localRows s n ((ctx s n).cores.takeWhile (· != c)).length, ∀ a, scratchAddr c (64 * r.1) ≤ a →
        a < scratchAddr c (64 * r.2) → memRd t.mem a = 0) ∧
  (∀ (s : State) (c : Nat), (coreSt s c).pend ≠ [] → (coreSt s c).pendAt + 64 * Config.tUs ≤ now s →
    ∃ t, exec (.pendingScrubDeadline c) s = .next t ∧ (coreSt t c).pend = [] ∧ (∀ k, k ≠ c → coreSt t k = coreSt s k) ∧
      t = { s with cores := t.cores }) ∧
  (∀ (s : State) (m : Master) (c : Nat) (v : Word), c < 48 → reaches s m (corePg c) 0x408 = true → bit v 31 = true →
    bits v 11 0 ≠ 0 →
    ∃ t, exec (.spDebugRetain m c v) s = .next t ∧ getR t (corePg c) 0x408 = v &&& 0x80000FFF#32 ∧ t.mem = s.mem) ∧
  (∀ (s : State) (m : Master) (c : Nat) (v : Word), c < 48 → reaches s m (corePg c) 0x408 = true → bit v 30 = true →
    bit v 31 = false → (coreSt s c).st = 3 →
    ∃ t, exec (.spDebugRelease m c v) s = .next t ∧ (coreSt t c).st = 1 ∧ (∀ k, k ≠ c → coreSt t k = coreSt s k) ∧
      t.mem = s.mem)

/-- With Carillon's port taking the command on a context 1 to 4095: CTX_OPEN of a closed context with a legal record under
ADMIT_CTX answers DONE and leaves it IDLE with that record and nothing else of it; a field out of range answers
ILLEGAL_FIELD with its offset and at ADMIT_CTX the answer is ADMISSION with that limit, no context changed. CTX_CLOSE
of an IDLE, HELD or FAULTED context with nothing queued, while no stream waits for a block, answers DONE, advances its
epoch and closes it. CTX_READ answers DONE with the 64-byte record of Table 13-14. CTX_KILL of a live context starts
its teardown. CTX_RESUME of a FAULTED context leaves it IDLE, or WAITING with invocations queued. MODEL_LOAD of a
legal record replaces the model entry; MODEL_UNLOAD of an entry that no busy context names deletes it. (R311, R323,
R334, R437) -/
def Obligations.ContextPort : Prop :=
(∀ (s : State) (m : Master) (tag n : Nat), portTakes s .car m 1 n = true → 0 < n → n < 4096 →
    ((ctx s n).st = .closed → ctxBad (staged s .car) = none → ctxsOpen s < admitCtx s →
      ∃ t, exec (.ctxOpen m tag n) s = .next t ∧ resultAt t .car tag = resultWord 1 0 ∧
        ctx t n = { st := .idle, recd := (staged s .car).take 64, epoch := (ctx s n).epoch } ∧
        (∀ k, k ≠ n → ctx t k = ctx s k) ∧ t.mem = s.mem ∧ t.models = s.models) ∧
    ((ctx s n).st = .closed → ctxBad (staged s .car) = none → admitCtx s ≤ ctxsOpen s →
      ∃ t, exec (.ctxOpen m tag n) s = .next t ∧ resultAt t .car tag = resultWord 9 (admitCtx s) ∧
        t = { s with regs := t.regs }) ∧
    (∀ f, ctxBad (staged s .car) = some f →
      ∃ t, exec (.ctxOpen m tag n) s = .next t ∧ resultAt t .car tag = resultWord 2 f ∧ t = { s with regs := t.regs })) ∧
  (∀ (s : State) (m : Master) (tag n : Nat), portTakes s .car m 2 n = true → 0 < n → n < 4096 →
    ((ctx s n).st = .idle ∨ (ctx s n).st = .held ∨ (ctx s n).st = .faulted) → (ctx s n).queue = [] → (ctx s n).cur = none →
    (∀ q ∈ s.stms, ∀ p, q.2.waits p = false) →
    ∃ t, exec (.ctxClose m tag n) s = .next t ∧ resultAt t .car tag = resultWord 1 0 ∧
      ctx t n = { epoch := ((ctx s n).epoch + 1) % 256 } ∧ ∀ k, k ≠ n → ctx t k = ctx s k) ∧
  (∀ (s : State) (m : Master) (tag n : Nat), portTakes s .car m 3 n = true → 0 < n → n < 4096 → (ctx s n).st ≠ .closed →
    ∃ t, exec (.ctxRead m tag n) s = .next t ∧ resultAt t .car tag = resultWord 1 0 ∧
      (∀ k, k < 16 → tgetD t.regs (rkey 0x190 (0x600 + 4 * k)) 0 = word (leAt (ctxStatus s n) (4 * k) 4)) ∧
      t = { s with regs := t.regs }) ∧
  (∀ (s : State) (m : Master) (tag n : Nat), portTakes s .car m 4 n = true → 0 < n → n < 4096 → (ctx s n).st.live = true →
    ∃ t, exec (.ctxKill m tag n) s = .next t ∧ resultAt t .car tag = resultWord 1 0 ∧ (ctx t n).st = .teardown ∧
      (ctx t n).killed = true ∧ (ctx t n).cores = (ctx s n).cores ∧ (∀ k, k ≠ n → ctx t k = ctx s k) ∧ t.mem = s.mem) ∧
  (∀ (s : State) (m : Master) (tag n : Nat), portTakes s .car m 5 n = true → 0 < n → n < 4096 → (ctx s n).st = .faulted →
    ∃ t, exec (.ctxResume m tag n) s = .next t ∧ resultAt t .car tag = resultWord 1 0 ∧
      ctx t n = { ctx s n with st := if (ctx s n).queue = [] then .idle else .waiting } ∧
      (∀ k, k ≠ n → ctx t k = ctx s k) ∧ t = { s with ctxs := t.ctxs, regs := t.regs, batches := t.batches }) ∧
  (∀ (s : State) (m : Master) (tag n : Nat), portTakes s .car m 6 n = true → n < 256 → modelBad (staged s .car) = none →
    ∃ t, exec (.modelLoad m tag n) s = .next t ∧ resultAt t .car tag = resultWord 1 0 ∧
      (byteAt (staged s .car) 0 = 1 → tget t.models n = some ((staged s .car).take 64)) ∧
      (byteAt (staged s .car) 0 = 0 → tget t.models n = none) ∧ (∀ k, k ≠ n → tget t.models k = tget s.models k) ∧
      t = { s with models := t.models, regs := t.regs }) ∧
  (∀ (s : State) (m : Master) (tag n : Nat), portTakes s .car m 7 n = true → n < 256 → (tget s.models n).isSome = true →
    (∀ q ∈ s.ctxs, leAt q.2.recd 4 2 = n → q.2.st = .closed ∨ q.2.st = .idle ∨ q.2.st = .faulted) →
    ∃ t, exec (.modelUnload m tag n) s = .next t ∧ resultAt t .car tag = resultWord 1 0 ∧ tget t.models n = none ∧
      (∀ k, k ≠ n → tget t.models k = tget s.models k) ∧ t = { s with models := t.models, regs := t.regs })

/-- DB_TAIL of a whole dword, taken by Carillon, that names one new entry of an open ring in GDDR6 queues that record with
its arrival and moves the producer index; a tail outside the ring's range only adds one to CAR_DB_BAD. DB_CPL_CONS
sets the consumer index. INVOCATION_GRANT on a waiting context whose head is neither stale nor refused, with nothing
before it in the order of R318 and cores that Carillon prefers, makes it RUNNING on them with its sequencers at the
start of their streams, all row-ready counters 0, and the window now plus slice less debt. INVOCATION_COMPLETE with
every stream ended writes the 32-byte record with STATUS 0 to the next entry of the completion ring and frees the
cores. SLICE_EXPIRY evicts for a waiter of the class, and otherwise opens the next window; before the end nothing
changes. (R313, R314, R318, R319, R321, R324) -/
def Obligations.InvocationsRun : Prop :=
(∀ (s : State) (n : Nat) (v : Word), 0 < n → n < 4096 → s.pcie.frozen = false → s.pcie.dstate = 0 → s.pcie.memEn = true →
    tailDisp s = .run → (ctx s n).heldTails = [] → (ctx s n).st ≠ .closed → batchOf s n = none →
    jobOf s n = none → (ctx s n).ringProd = (ctx s n).ringCons → s.ecc = [] →
    locate (leAt (ctx s n).recd 8 8 + 64 * ((ctx s n).ringProd.toNat % 2 ^ byteAt (ctx s n).recd 0x18)) = .gddr →
    (v = (ctx s n).ringProd + 1 → ∃ t i, exec (.dbTail n 0xF v) s = .next t ∧ (ctx t n).queue = (ctx s n).queue ++ [i] ∧
      i.recd = rdMem s (leAt (ctx s n).recd 8 8 + 64 * ((ctx s n).ringProd.toNat % 2 ^ byteAt (ctx s n).recd 0x18)) 64 ∧
      i.arrival = now s ∧ i.ring = true ∧ i.seq = (ctx s n).seqNo ∧ (ctx t n).ringProd = v ∧
      (ctx t n).ringCons = (ctx s n).ringCons ∧ (invOk i.recd = false → i.checked = 4) ∧
      ((ctx s n).st = .idle → (ctx t n).st = .waiting) ∧ ((ctx s n).st ≠ .idle → (ctx t n).st = (ctx s n).st) ∧
      (∀ k, k ≠ n → ctx t k = ctx s k) ∧ t.seqs = s.seqs) ∧
    (2 ^ byteAt (ctx s n).recd 0x18 < (v - (ctx s n).ringCons).toNat →
      ∃ t, exec (.dbTail n 0xF v) s = .next t ∧
        tgetD t.regs (rkey 0x190 0x134) 0 = satAdd (getR s 0x190 0x134) 1 ∧ t = { s with regs := t.regs })) ∧
  (∀ (s : State) (n : Nat) (v : Word), 0 < n → n < 4096 → s.pcie.frozen = false → s.pcie.dstate = 0 → s.pcie.memEn = true →
    (ctx s n).st ≠ .closed → (ctx s n).cplWait = [] →
    ∃ t, exec (.dbCplCons n 0xF v) s = .next t ∧ ctx t n = { ctx s n with cplCons := v } ∧
      (∀ k, k ≠ n → ctx t k = ctx s k) ∧ t = { s with ctxs := t.ctxs }) ∧
  (∀ (s : State) (n a : Nat) (place : List Nat) (i : Inv) (rest : List Inv), (ctx s n).st = .waiting →
    (ctx s n).queue = i :: rest → grantsNow s = true → selectable s n = true → selBefore s n = [] → invStale s i = false →
    invCode s n i = 0 → place.length ≤ 48 → placeOk s n (shapeOf s n i) place (fun _ c => coreFree s n c) = true →
    placeBest s n (shapeOf s n i) place = true → a = leAt i.recd 0 8 →
    ∃ t, exec (.invocationGrant n place) s = .next t ∧ (ctx t n).st = .running ∧ (ctx t n).cur = some i ∧
      (ctx t n).queue = rest ∧ (ctx t n).cores = place ∧ (ctx t n).grantAt = now s ∧ (ctx t n).debt = 0 ∧
      (ctx t n).sliceEnd = now s + (sliceTicks s n - (ctx s n).debt) ∧
      (∀ lc, lc < place.length → (seq t n lc).core = place.getD lc 0 ∧ (seq t n lc).st = 1 ∧
        (seq t n lc).pc = a + hdrOfs (peek s a 512) lc ∧
        (seq t n lc).stop = a + hdrOfs (peek s a 512) lc + 64 * hdrCount (peek s a 512) lc ∧ (seq t n lc).rrc = [] ∧
        (seq t n lc).tags = [] ∧ (seq t n lc).issued = []) ∧
      (∀ k, k ≠ n → ctx t k = ctx s k)) ∧
  (∀ (s : State) (n p : Nat) (i : Inv), (ctx s n).st = .running → (ctx s n).cur = some i → (ctx s n).cores ≠ [] →
    (ctx s n).ended.length = (ctx s n).cores.length → (ctx s n).scaleUpd = [] → (ctx s n).evict = none →
    (ctx s n).want = [] → i.special = 0 → i.block = 0 → (ctx s n).cplWait = [] →
    ((ctx s n).cplProd - (ctx s n).cplCons).toNat < 2 ^ byteAt (ctx s n).recd 0x19 → s.ecc = [] →
    p = leAt (ctx s n).recd 0x10 8 + 32 * ((ctx s n).cplProd.toNat % 2 ^ byteAt (ctx s n).recd 0x19) →
    p + 32 ≤ 0x000E00000000 → (∀ q ∈ s.ctxs, q.2.want.length ≤ 48) →
    ∃ t, exec (.invocationComplete n) s = .next t ∧
      (ctx t n).st = (if (ctx s n).queue = [] then .idle else .waiting) ∧ (ctx t n).cores = [] ∧ (ctx t n).cur = none ∧
      (ctx t n).cplProd = (ctx s n).cplProd + 1 ∧ (ctx t n).nDone = satInc (ctx s n).nDone ∧
      (ctx t n).ringCons = (ctx s n).ringCons + (if i.ring then 1 else 0) ∧
      (∀ lc, lc < 64 → tget t.seqs (64 * n + lc) = none) ∧
      rdMem t p 8 = leBytes 8 (leAt i.recd 0x10 8) ∧ memRd t.mem (p + 8) = 0 ∧ memRd t.mem (p + 9) = 0 ∧
      rdMem t (p + 12) 20 = leBytes 4 i.seq ++ leBytes 8 (ctx s n).grantAt ++ leBytes 8 (now s) ∧
      ∀ x, (x < p ∨ p + 32 ≤ x) → memRd t.mem x = memRd s.mem x) ∧
  (∀ (s : State) (n : Nat), (ctx s n).st = .running → clsOf s n ≠ 0 →
    (now s < (ctx s n).sliceEnd → exec (.sliceExpiry n) s = .next s) ∧
    ((ctx s n).sliceEnd ≤ now s → sliceWaiter s n = none → ∃ t, exec (.sliceExpiry n) s = .next t ∧
      ctx t n = { ctx s n with sliceEnd := now s + sliceTicks s n, debt := 0 } ∧ t = { s with ctxs := t.ctxs }) ∧
    ((ctx s n).sliceEnd ≤ now s → (sliceWaiter s n).isSome = true → ∃ t, exec (.sliceExpiry n) s = .next t ∧
      (ctx t n).st = .evicting ∧ (ctx t n).evict = some .slice ∧ (ctx t n).cores = (ctx s n).cores ∧
      t = { s with ctxs := t.ctxs }))

/-- PARK_COMPLETE of a running context at its pause, with cores that a class 0 context waits for, parks it on exactly
those as well as before. UNPARK_RESTORE with no urgent work left on its cores makes it RUNNING again, parked nowhere.
CTX_SAVE of a running context with room for its image answers PENDING and asks the pause. EVICTION_COMPLETE at the
pause with a place for the image frees the cores and leaves the context SUSPENDED, or HELD with result DONE after
CTX_SAVE, its debt the time past the request where a slice ended inside a non-preemptible unit and 0 for a slice
otherwise. CTX_RESTORE of an image that passes R333 answers DONE and leaves the context SUSPENDED with the image's
invocation, record and debt. RESTORE_COMPLETE with every core ready makes it RUNNING; from an image in mid-invocation
logical core 0 resumes at the PC and indexes of its section. (R322, R325, R328, R330, R332, R333) -/
def Obligations.ContextsMoveOffCores : Prop :=
(∀ (s : State) (n : Nat), (ctx s n).st = .running → parkCores s n ≠ [] → pausedAll s n = true →
    ∃ t, exec (.parkComplete n []) s = .next t ∧ (ctx t n).st = .parked ∧ (ctx t n).cores = (ctx s n).cores ∧
      (∀ c, c ∈ parkCores s n → tget t.car.parkedOn c = some n) ∧
      (∀ c, c ∉ parkCores s n → tget t.car.parkedOn c = tget s.car.parkedOn c)) ∧
  (∀ (s : State) (n : Nat), (ctx s n).st = .parked →
    (∀ q ∈ s.car.parkedOn, q.2 = n → coreUsers s q.1 = [] ∧ (coreSt s q.1).st = 0 ∧ reservedOther s n q.1 = false) →
    ∃ t, exec (.unparkRestore n) s = .next t ∧ (ctx t n).st = .running ∧ (ctx t n).pausedAt = none ∧
      (ctx t n).progress = now s ∧ (∀ q ∈ t.car.parkedOn, q.2 ≠ n) ∧ (∀ k, k ≠ n → ctx t k = ctx s k) ∧ t.mem = s.mem) ∧
  (∀ (s : State) (m : Master) (tag n : Nat), portTakes s .car m 8 n = true → 0 < n → n < 4096 → (ctx s n).st = .running →
    leAt (staged s .car) 0 8 % 64 = 0 → imageLen s n ≤ leAt (staged s .car) 8 4 →
    ∃ t, exec (.ctxSave m tag n) s = .next t ∧ resultAt t .car tag = resultWord 0xF 0 ∧ (ctx t n).st = .evicting ∧
      (ctx t n).evict = some (.save (leAt (staged s .car) 0 8) (leAt (staged s .car) 8 4) tag) ∧
      (ctx t n).pausedAt.isSome = true ∧ t = { s with ctxs := t.ctxs, regs := t.regs }) ∧
  (∀ (s : State) (n a : Nat) (why : EvictWhy), (ctx s n).st = .evicting → (ctx s n).evict = some why →
    (ctx s n).cores ≠ [] → (∀ q ∈ s.car.parkedOn, q.2 ≠ n) → pausedAll s n = true →
    (imagePlace (overrun (pauseCtx s n []) n) n why (imageLen (pauseCtx s n []) n)).2 = some a →
    (∀ x room tag, why = .save x room tag → imageLen (pauseCtx s n []) n ≤ room) →
    (ctx s n).want = [] →
    ∃ t, exec (.evictionComplete n []) s = .next t ∧ (ctx t n).cores = [] ∧ (ctx t n).image = a ∧ (ctx t n).evict = none ∧
      (ctx t n).queue = (ctx s n).queue ∧ (ctx t n).cur = (ctx s n).cur ∧
      (why = .slice → (ctx t n).st = .suspended ∧ (ctx t n).debt =
        (if (ctx s n).np then now s - (ctx s n).pausedAt.getD (now s) else 0)) ∧
      (why = .displaced → (ctx t n).st = .suspended ∧ (ctx t n).debt = (ctx s n).debt) ∧
      (∀ x room tag, why = .save x room tag → (ctx t n).st = .held ∧ a = x ∧ resultAt t .car tag = resultWord 1 0)) ∧
  (∀ (s : State) (m : Master) (tag n a : Nat), portTakes s .car m 9 n = true → 0 < n → n < 4096 →
    a = leAt (staged s .car) 0 8 → a % 64 = 0 → leAt (staged s .car) 8 8 = 0 → (ctx s n).st = .closed →
    imageCheck s a = 0 → ctxBad ((peek s a 512).drop 0x40 |>.take 64) = none → ctxsOpen s < admitCtx s →
    ∃ t i, exec (.ctxRestore m tag n) s = .next t ∧ resultAt t .car tag = resultWord 1 0 ∧ (ctx t n).st = .suspended ∧
      (ctx t n).image = a ∧ (ctx t n).recd = ((peek s a 512).drop 0x40).take 64 ∧ (ctx t n).cur = some i ∧
      i.recd = ((peek s a 512).drop 0x80).take 64 ∧ (ctx t n).debt = leAt (peek s a 512) 0x14 4 ∧
      (∀ k, k ≠ n → ctx t k = ctx s k) ∧ t.mem = s.mem) ∧
  (∀ (s : State) (n : Nat) (i : Inv), (ctx s n).st = .restoring → (ctx s n).cur = some i →
    (∀ k ∈ (ctx s n).cores, ready s (corePg k) = true) → (ctx s n).cores ≠ [] → (ctx s n).cores.length ≤ 48 →
    ∃ t, exec (.restoreComplete n) s = .next t ∧ (ctx t n).st = .running ∧ (ctx t n).cur = some i ∧ (ctx t n).image = 0 ∧
      (ctx t n).cores = (ctx s n).cores ∧ (∀ k, k ≠ n → ctx t k = ctx s k) ∧
      (imgMid s n = true → ∀ q,
        q = (ctx s n).image + 64 * leAt (peek s (ctx s n).image 512) 0x100 4 →
        (seq t n 0).pc = leAt (peek s q 4096) 0 8 ∧ (seq t n 0).core = (ctx s n).cores.getD 0 0 ∧
        (seq t n 0).idx = [leAt (peek s q 4096) 0x10 4, leAt (peek s q 4096) 0x14 4, leAt (peek s q 4096) 0x18 4]) ∧
      (imgMid s n = false → (seq t n 0).pc = leAt i.recd 0 8 + hdrOfs (peek s (leAt i.recd 0 8) 512) 0))

/-- CONTEXT_FAULT with a code of Table 21-1 on a live context outside a reset puts it in TEARDOWN with that code and
changes no other context and no memory; on one already in teardown it changes no context. TEARDOWN_COMPLETE once every
core is scrubbed frees the cores, writes STATUS 2 for a kill and STATUS 1 with the code otherwise for the invocation
it held, advances its epoch, and leaves it FAULTED, or where it was killed or AUTO_RESUME is set IDLE or WAITING.
TEARDOWN_WATCHDOG changes nothing before 50 us; then with work left it resets the partitions of the cores that have
not answered. CONTEXT_PROGRESS_WATCHDOG changes nothing before the budget and then faults a context that is not paused
on every core with 0x09. (R334, R335, R437, R491, R497, R498) -/
def Obligations.ContextsFault : Prop :=
(∀ (s : State) (n code page desc detail : Nat), 1 ≤ n → n ≤ 4095 → 1 ≤ code → code ≤ 0x17 → code ≠ 0x11 →
    pageReserved page = false → page < 0x200 → inReset s n = false →
    ∃ t, exec (.contextFault n code page desc detail) s = .next t ∧ t.mem = s.mem ∧ (∀ k, k ≠ n → ctx t k = ctx s k) ∧
      ((ctx s n).st.live = true → Faulted t n code ∧ (ctx t n).killed = false ∧ (ctx t n).tearAt = now s) ∧
      ((ctx s n).st = .teardown → ctx t n = ctx s n)) ∧
  (∀ (s : State) (n : Nat), (ctx s n).st = .teardown → (∀ k ∈ (ctx s n).cores, k ∈ (ctx s n).acked) →
    (∀ q ∈ s.ctxs, q.2.want.length ≤ 48) →
    ∃ t, exec (.teardownComplete n) s = .next t ∧ (ctx t n).cores = [] ∧ (ctx t n).cur = none ∧
      (ctx t n).epoch = ((ctx s n).epoch + 1) % 256 ∧
      (((ctx s n).killed = false ∧ (ctx s n).flag 0 = false) → (ctx t n).st = .faulted) ∧
      (((ctx s n).killed = true ∨ (ctx s n).flag 0 = true) →
        (ctx t n).st = (if (ctx t n).queue = [] then .idle else .waiting)) ∧
      ((ctx s n).cur.isSome = true → (ctx s n).killed = true → (ctx t n).lastStatus = 2 ∧ (ctx t n).lastCode = 0) ∧
      ((ctx s n).cur.isSome = true → (ctx s n).killed = false →
        (ctx t n).lastStatus = 1 ∧ (ctx t n).lastCode = (ctx s n).code) ∧
      (∀ lc, lc < 64 → tget t.seqs (64 * n + lc) = none)) ∧
  (∀ (s : State) (n c : Nat) (ok : Bool), (ctx s n).st = .teardown → c ∈ (ctx s n).cores → c ∉ (ctx s n).acked → c < 48 →
    s.toc.oos = false → lowEvent s = false →
    (∀ q, q < 4 → (recentTimes s (tgetD s.toc.hist3 q []) (60 * Config.tSec)).length < 2) →
    (now s < (ctx s n).tearAt + 50 * Config.tUs → exec (.teardownWatchdog n [] ok) s = .next s) ∧
    ((ctx s n).tearAt + 50 * Config.tUs ≤ now s → ∃ t, exec (.teardownWatchdog n [] ok) s = .next t ∧
      (∀ o, o < 0x400000 → memRd t.mem (scratchAddr c o) = 0) ∧ t.life.phase = s.life.phase)) ∧
  (∀ (s : State) (n k : Nat), (ctx s n).st = .running → k ∈ (ctx s n).cores → corePaused s n k = false → inReset s n = false →
    (now s < (ctx s n).progress + wdogTicks s n → exec (.contextProgressWatchdog n) s = .next s) ∧
    ((ctx s n).progress + wdogTicks s n ≤ now s →
      ∃ t, exec (.contextProgressWatchdog n) s = .next t ∧ Faulted t n 9 ∧ t.mem = s.mem))

/-- With Carillon's port taking the command: BATCH_OPEN of a closed batch with a legal record on an IDLE context of class
1 or 2 whose pools grant the blocks answers DONE and opens it, no other batch changed. BATCH_CLOSE answers PENDING
while a step is in flight and otherwise DONE with the batch closed and no slot occupied. SEQ_READ answers the slot's
state; SEQ_END marks the slot to leave. TOKEN_POLL gives each waiting slot the answer whose entry names its last step,
and no other slot one. TOKEN_WAIT_EXPIRY and STEP_CADENCE_EXPIRY end their windows at their time, not before.
STEP_PLAN plans nothing before the cadence; with every slot free and one legal join that fits, slot 0 takes it, the
plan starts with the step number and the step's invocation is queued. INVOCATION_COMPLETE of a step commits it: STEP
advances by one. (R339, R342, R343, R344, R345, R348, R351, R353) -/
def Obligations.StepModels : Prop :=
(∀ (s : State) (m : Master) (tag b n : Nat) (pb nb : List Nat) (r : State × List Byte × Bool),
    portTakes s .car m 0xA b = true → b < 64 → n = leAt (staged s .car) 0 2 →
    r = unitRead s (leAt (staged s .car) 0x18 8) (32 * byteAt (staged s .car) 5) →
    batchBad s ((staged s .car).take 64) r.2.1 = none → (batch s b).st = 0 → (ctx s n).st = .idle →
    (ctx s n).flag 1 = false → (clsOf s n = 1 ∨ clsOf s n = 2) →
    batchOf s n = none →
    (takeBlocks r.1 (byteAt (staged s .car) 0x15) n 2 2).2 = some pb →
    (takeBlocks (takeBlocks r.1 (byteAt (staged s .car) 0x15) n 2 2).1 (byteAt (staged s .car) 0x14)
      n 2 1).2 = some nb →
    ∃ t, exec (.batchOpen m tag b) s = .next t ∧ resultAt t .car tag = resultWord 1 0 ∧ (batch t b).st = 1 ∧
      (batch t b).recd = (staged s .car).take 64 ∧ (batch t b).slots = [] ∧ (batch t b).plan = pb.getD 0 0 ∧
      (batch t b).out = pb.getD 1 0 ∧ (batch t b).null = nb.getD 0 0 ∧ (∀ k, k ≠ b → batch t k = batch s k) ∧
      t.ctxs = s.ctxs) ∧
  (∀ (s : State) (m : Master) (tag b : Nat), portTakes s .car m 0xB b = true → b < 64 → (batch s b).st ≠ 0 →
    ∃ t, exec (.batchClose m tag b) s = .next t ∧ (∀ k, k ≠ b → batch t k = batch s k) ∧
      ((batch s b).st = 3 → resultAt t .car tag = resultWord 0xF 0 ∧
        batch t b = { batch s b with closing := some tag } ∧ t = { s with batches := t.batches, regs := t.regs }) ∧
      ((batch s b).st ≠ 3 → resultAt t .car tag = resultWord 1 0 ∧ (batch t b).st = 0 ∧ (batch t b).slots = [])) ∧
  (∀ (s : State) (m : Master) (tag b : Nat) (q : SeqSlot), portTakes s .car m 0xC b = true → b < 64 →
    tget (batch s b).slots (byteAt (staged s .car) 0) = some q →
    ∃ t, exec (.seqRead m tag b) s = .next t ∧ resultAt t .car tag = resultWord 1 0 ∧
      tgetD t.regs (rkey 0x190 0x600) 0 = word ((if q.ended = true ∨ q.last ≠ 0 then 4 else if q.parked then 3 else
        if q.wait then 2 else 1) + 65536 * (q.len % 65536)) ∧
      tgetD t.regs (rkey 0x190 0x604) 0 = word q.joinStep ∧
      tgetD t.regs (rkey 0x190 0x608) 0 = word (q.logits % 65536 + 65536 * (q.pages.length % 65536)) ∧
      t = { s with regs := t.regs }) ∧
  (∀ (s : State) (m : Master) (tag b : Nat) (q : SeqSlot), portTakes s .car m 0xD b = true → b < 64 →
    tget (batch s b).slots (byteAt (staged s .car) 0) = some q →
    ∃ t, exec (.seqEnd m tag b) s = .next t ∧ resultAt t .car tag = resultWord 1 0 ∧
      tget (batch t b).slots (byteAt (staged s .car) 0) = some { q with ended := true } ∧
      (∀ k, k ≠ byteAt (staged s .car) 0 → tget (batch t b).slots k = tget (batch s b).slots k) ∧
      (batch t b).st = (if (batch s b).st = 5 then 2 else (batch s b).st) ∧
      t = { s with batches := t.batches, regs := t.regs }) ∧
  (∀ (s : State) (b k : Nat) (q : SeqSlot) (e : List Byte), b < 64 → ((batch s b).st = 1 ∨ (batch s b).st = 2) →
    s.ecc = [] → leAt (batch s b).recd 0x20 8 + 16 * (batch s b).maxSeq ≤ 0x000E00000000 →
    joinsWaiting s (batch s b) ≤ 2 ^ byteAt (batch s b).recd 0x38 → k < (batch s b).maxSeq →
    tget (batch s b).slots k = some q → e = rdMem s (leAt (batch s b).recd 0x20 8 + 16 * k) 16 →
    ∃ t q', exec (.tokenPoll b) s = .next t ∧ tget (batch t b).slots k = some q' ∧
      (q.logits ≠ 0 → q.ans = none → leAt e 0 4 = q.lastStep % 2 ^ 32 →
        q'.ans = some (leAt e 4 4, (byteAt e 8).testBit 0)) ∧
      (leAt e 0 4 ≠ q.lastStep % 2 ^ 32 → q' = q) ∧ (batch t b).st = (batch s b).st ∧
      t = { s with batches := t.batches, chans := t.chans }) ∧
  (∀ (s : State) (b : Nat), (batch s b).st ≠ 0 →
    (now s < (batch s b).commitAt + leAt (batch s b).recd 0x3C 2 * Config.tUs → exec (.tokenWaitExpiry b) s = .next s) ∧
    ((batch s b).commitAt + leAt (batch s b).recd 0x3C 2 * Config.tUs ≤ now s →
      ∃ t, exec (.tokenWaitExpiry b) s = .next t ∧ batch t b = { batch s b with tokOver := true } ∧
        t = { s with batches := t.batches }) ∧
    (now s < (batch s b).startAt + leAt (batch s b).recd 0x3E 2 * Config.tUs → exec (.stepCadenceExpiry b) s = .next s) ∧
    ((batch s b).startAt + leAt (batch s b).recd 0x3E 2 * Config.tUs ≤ now s →
      ∃ t, exec (.stepCadenceExpiry b) s = .next t ∧ batch t b = { batch s b with cadOver := true } ∧
        t = { s with batches := t.batches })) ∧
  (∀ (s : State) (b n pl : Nat) (x : Batch) (e : List Byte) (pg : List Nat), b < 64 → x = batch s b → x.st = 1 → n = x.ctx →
    (ctx s n).st = .idle → ready s 0x190 = true → 2 * x.maxSeq + 16 ≤ logitFree s x → s.ecc = [] → x.slots = [] →
    x.full = false → leAt x.recd 0x20 8 < 0x000E00000000 → leAt x.recd 0x28 8 < 0x000E00000000 → x.plan < 0x000E00000000 →
    joinsWaiting s x = 1 →
    e = rdMem s (leAt x.recd 0x28 8 + 64 * (x.joinCons % 2 ^ byteAt x.recd 0x38)) 64 →
    leAt x.recd 0x28 8 + 64 * (x.joinCons % 2 ^ byteAt x.recd 0x38) + 64 ≤ 0x000E00000000 → joinOk x e = true →
    pl = leAt e 0x10 2 → 1 ≤ x.maxSeq → 1 ≤ x.lastCap.1 → pl ≤ x.lastCap.2 →
    cdiv pl x.pageTok + leAt x.recd 0x16 2 ≤ pagesAvail s x.kvPool n →
    (takeBlocks s x.kvPool n 3 (cdiv pl x.pageTok)).2 = some pg →
    (x.cadOver = false → exec (.stepPlan b) s = .next s) ∧
    (x.cadOver = true → x.tokOver = true → ∃ t i q, exec (.stepPlan b) s = .next t ∧ (batch t b).st = 3 ∧
      (batch t b).step = x.step ∧ (batch t b).startAt = now s ∧ (batch t b).rows = [⟨0, true⟩] ∧
      (batch t b).joinCons = x.joinCons + 1 ∧ tget (batch t b).slots 0 = some q ∧ q.tag = leAt e 0 8 ∧ q.plen = pl ∧
      q.joinStep = x.step + 1 ∧ q.pages = pg ∧ (ctx t n).st = .waiting ∧ (ctx t n).queue = (ctx s n).queue ++ [i] ∧
      i.special = 1 ∧ i.owner = b ∧ i.arrival = now s ∧ rdMem t x.plan 4 = leBytes 4 (x.step + 1))) ∧
  (∀ (s : State) (n : Nat) (i : Inv), (ctx s n).st = .running → (ctx s n).cur = some i → (ctx s n).cores ≠ [] →
    (ctx s n).ended.length = (ctx s n).cores.length → (ctx s n).scaleUpd = [] → (ctx s n).evict = none →
    i.special = 1 → (batch s i.owner).closing = none →
    ∃ t, exec (.invocationComplete n) s = .next t ∧ (batch t i.owner).step = (batch s i.owner).step + 1 ∧
      (batch t i.owner).st = 1 ∧ (batch t i.owner).commitAt = now s ∧ (batch t i.owner).rows = [] ∧
      (∀ k, k ≠ i.owner → batch t k = batch s k))

/-- With the adaptation port taking the command on jobs 0 to 3: ADAPT_OPEN of a closed job with a legal record, an IDLE
class 3 context and two blocks answers DONE with the job RUNNING and step 0 in load. ADAPT_STOP answers PENDING while
a step runs; between steps it answers DONE with the job STOPPED, cause 2, and one more log record. ADAPT_READ answers
the job's state and step. ADAPT_CLOSE of a job that does not run closes it. ADAPT_STEP_LOAD_DONE with every position
final queues the step's invocation under R404's conditions and otherwise leaves the job HELD with the load discarded.
ADAPT_CONDITION_CHANGE between steps makes a RUNNING job HELD when a condition fails and a HELD one RUNNING when all
hold. RNG_TEST_GO with bit 0 set writes the draw of SEED, STREAM and CTR, with all three 0 the last row of Table 17-1;
with bit 0 clear it writes nothing. (R393, R394, R403, R404, R405, R410, R411, R563) -/
def Obligations.SiteAdaptation : Prop :=
(∀ (s u : State) (m : Master) (tag j n a b : Nat), portTakes s .adapt m 1 j = true → j < 4 →
    n = leAt (staged s .adapt) 0 2 → adaptBad s ((staged s .adapt).take 64) = none → (ajob s j).st = 0 →
    (ctx s n).st = .idle → (ctx s n).flag 1 = false → clsOf s n = 3 → batchOf s n = none → jobOf s n = none →
    ketAlloc s (byteAt (staged s .adapt) 0x3D) 4 6 2 2 = (u, .ok [a, b]) →
    ∃ t, exec (.adaptOpen m tag j) s = .next t ∧ resultAt t .adapt tag = resultWord 1 0 ∧ (ajob t j).st = 1 ∧
      (ajob t j).recd = (staged s .adapt).take 64 ∧ (ajob t j).blks = [a, b] ∧ (ajob t j).step = 0 ∧
      (ajob t j).loading = true ∧ (ajob t j).loadStep = 0 ∧ (ajob t j).pos.length = (ajob t j).batch ∧
      ∀ k, k ≠ j → ajob t k = ajob s k) ∧
  (∀ (s : State) (m : Master) (tag j : Nat), portTakes s .adapt m 2 j = true → j < 4 →
    ((ajob s j).st = 1 ∨ (ajob s j).st = 2) →
    ∃ t, exec (.adaptStop m tag j) s = .next t ∧ (∀ k, k ≠ j → ajob t k = ajob s k) ∧
      ((ajob s j).run = true → resultAt t .adapt tag = resultWord 0xF 0 ∧
        ajob t j = { ajob s j with stopReq := some tag } ∧ t = { s with ajobs := t.ajobs, regs := t.regs }) ∧
      ((ajob s j).run = false → resultAt t .adapt tag = resultWord 1 0 ∧ (ajob t j).st = 3 ∧ (ajob t j).stop = 2 ∧
        (ajob t j).loading = false ∧ (ajob t j).step = (ajob s j).step ∧
        tgetD t.regs (rkey 0x1D0 (0x208 + 0x10 * j)) 0 = getR s 0x1D0 (0x208 + 0x10 * j) + 1)) ∧
  (∀ (s : State) (m : Master) (tag j : Nat), portTakes s .adapt m 3 j = true → j < 4 → (ajob s j).st ≠ 0 →
    ∃ t, exec (.adaptRead m tag j) s = .next t ∧ resultAt t .adapt tag = resultWord 1 0 ∧
      tgetD t.regs (rkey 0x1D0 0x600) 0 = word ((ajob s j).st % 256) ∧
      tgetD t.regs (rkey 0x1D0 0x604) 0 = word (ajob s j).step ∧ t = { s with regs := t.regs }) ∧
  (∀ (s : State) (m : Master) (tag j : Nat), portTakes s .adapt m 4 j = true → j < 4 → (ajob s j).st ≠ 0 →
    (ajob s j).st ≠ 1 → (ajob s j).run = false →
    ∃ t, exec (.adaptClose m tag j) s = .next t ∧ resultAt t .adapt tag = resultWord 1 0 ∧ ajob t j = {} ∧
      ∀ k, k ≠ j → ajob t k = ajob s k) ∧
  (∀ (s : State) (j : Nat), j < 4 → s.adaptIn = [] → ((ajob s j).st = 1 ∨ (ajob s j).st = 2) → (ajob s j).loading = true →
    (ajob s j).run = false → (∀ p ∈ (ajob s j).pos, 2 ≤ p.st) →
    ∃ t i, exec (.adaptStepLoadDone j) s = .next t ∧ (ajob t j).loading = false ∧ (ajob t j).step = (ajob s j).step ∧
      (adaptMay s j = true → (ajob t j).st = 1 ∧ (ajob t j).run = true ∧ (ajob t j).runPos = (ajob s j).pos ∧
        (ctx t (ajob s j).ctx).queue = (ctx s (ajob s j).ctx).queue ++ [i] ∧ i.special = 2 ∧ i.owner = j) ∧
      (adaptMay s j = false → (ajob t j).st = 2 ∧ (ajob t j).run = false ∧ (ajob t j).pos = [] ∧ t.ctxs = s.ctxs)) ∧
  (∀ (s : State) (j : Nat), j < 4 → (ajob s j).run = false →
    ((ajob s j).st = 1 → adaptMay s j = false → ∃ t, exec (.adaptConditionChange j) s = .next t ∧ (ajob t j).st = 2 ∧
      tgetD (blk t 0x1D0).cnt 4 0 = satInc (tgetD (blk s 0x1D0).cnt 4 0) ∧ t.mem = s.mem) ∧
    ((ajob s j).st = 1 → adaptMay s j = true → exec (.adaptConditionChange j) s = .next s) ∧
    ((ajob s j).st = 2 → adaptMay s j = true →
      ∃ t, exec (.adaptConditionChange j) s = .next t ∧ (ajob t j).st = 1 ∧ (ajob t j).step = (ajob s j).step)) ∧
  (∀ (s : State) (m : Master) (v : Word), reaches s m 0x1D0 0x120 = true → (v.getLsbD 0 = false →
      exec (.rngTestGo m v) s = .next s) ∧
    (v.getLsbD 0 = true → ∃ t, exec (.rngTestGo m v) s = .next t ∧ (∀ k, k < 4 →
        tgetD t.regs (rkey 0x1D0 (0x130 + 4 * k)) 0 = word (draw ((getR s 0x1D0 0x100).toNat + 2 ^ 32 *
          (getR s 0x1D0 0x104).toNat) (getR s 0x1D0 0x108).toNat (leNat (getRec s 0x1D0 0x110 4)) >>> (32 * k))) ∧
      t.mem = s.mem ∧ t.ajobs = s.ajobs ∧
      ((∀ k, k < 3 → getR s 0x1D0 (0x100 + 4 * k) = 0) → (∀ k, k < 4 → getR s 0x1D0 (0x110 + 4 * k) = 0) →
        (List.range 4).map (fun k => tgetD t.regs (rkey 0x1D0 (0x130 + 4 * k)) 0) = [0x55DF6778#32, 0x3AD8F6AE#32, 0xA96E16F3#32, 0x0BA64307#32])))

/-- With Carillon's port taking the command: TRACK_SET of a set that is off, with a legal record and a TRIGGERED context,
answers DONE and starts the set afresh, no other set changed; OUTLET_SET of a legal record with no datagram open
answers DONE, replaces the record and zeroes a ring's indices. TRACK_ORDER_RELEASE leaves an unresolved earliest entry
waiting; a resolved one whose depth has passed, on a context with fewer than 16 invocations queued, is posted to
TRACK_CTX with its post block. OUTLET_MOVE puts the head of the staging queue into a ring that has the space with its
sequence number, advances the index by its length, and drops it where the ring has no space. The IRQ and flush timers
act at their time and not before; the flush sends one frame. UDP_RATE_WINDOW clears the window. PTX_TAIL_WRITE of one
entry on an enabled ring with the link up transmits its frame. (R357, R360, R369, R370, R371, R372, R373) -/
def Obligations.TracksAndOutlets : Prop :=
(∀ (s : State) (m : Master) (tag n : Nat), portTakes s .car m 0xE n = true → n < 1024 →
    (∀ f, trackBad s n (staged s .car) = some f → ∃ t, exec (.trackSet m tag n) s = .next t ∧
      resultAt t .car tag = resultWord 2 f ∧ t = { s with regs := t.regs }) ∧
    (trackBad s n (staged s .car) = none → ctxTriggered s (leAt (staged s .car) 2 2) = true → (trkSet s n).on = false →
      ∃ t, exec (.trackSet m tag n) s = .next t ∧ resultAt t .car tag = resultWord 1 0 ∧
        trkSet t n = { recd := (staged s .car).take 64, size := (trkSet s n).size, reorder := (trkSet s n).reorder } ∧
        (∀ k, k ≠ n → trkSet t k = trkSet s k) ∧ t = { s with sets := t.sets, regs := t.regs })) ∧
  (∀ (s : State) (m : Master) (tag n : Nat), portTakes s .car m 0xF n = true → n < 256 →
    outletBad s (staged s .car) = none → (outlet s n).dgram = [] →
    ∃ t, exec (.outletSet m tag n) s = .next t ∧ resultAt t .car tag = resultWord 1 0 ∧
      outlet t n = { outlet s n with recd := (staged s .car).take 64, unsig := 0 } ∧
      (byteAt (staged s .car) 0 = 1 → tgetD t.regs (rkey 0x190 (outOfs n + 4)) 0 = 0 ∧
        tgetD t.regs (rkey 0x190 (outOfs n + 8)) 0 = 0) ∧
      (∀ k, k ≠ n → outlet t k = outlet s k) ∧ t = { s with outlets := t.outlets, regs := t.regs }) ∧
  (∀ (s : State) (n c : Nat) (e : TrkEnt), (trkSet s n).on = true → (trkSet s n).ending = false → (trkSet s n).busy = none →
    ready s 0x190 = true → c = leAt (trkSet s n).recd 2 2 → ctxTriggered s c = true → firstEnt (trkSet s n).ents = some e →
    (e.post = none → exec (.trackOrderRelease n) s = .next s) ∧
    (∀ b, e.post = some b → e.seq + 1 + (trkSet s n).reorder ≤ (trkSet s n).passed → (ctx s c).queue.length < 16 →
      ∃ t i, exec (.trackOrderRelease n) s = .next t ∧ (trkSet t n).busy = some e ∧
        (trkSet t n).since = (trkSet s n).since + 1 ∧ (ctx t c).queue = (ctx s c).queue ++ [i] ∧ i.special = 3 ∧
        i.owner = n ∧ i.block = b ∧ i.arrival = now s ∧ (∀ k, k ≠ n → trkSet t k = trkSet s k) ∧
        t = { s with sets := t.sets, ctxs := t.ctxs })) ∧
  (∀ (s : State) (n k a : Nat) (r : List Byte) (rest : List (Nat × List Byte)) (x : Outlet), n < 256 → x = outlet s n →
    s.staging = (n, r) :: rest → s.stageAt = none → x.kind = 1 → r.length = 64 * recLen r → 1 ≤ recLen r →
    getR s 0x190 (outOfs n + 0x18) = 0 → k = (getR s 0x190 (outOfs n + 4)).toNat % 2 ^ byteAt x.recd 4 →
    k + recLen r ≤ 2 ^ byteAt x.recd 4 → a = leAt x.recd 8 8 + 64 * k → s.ecc = [] → a + r.length ≤ 0x000E00000000 →
    (leAt x.recd 0x10 8 + 4 ≤ a ∨ a + r.length ≤ leAt x.recd 0x10 8) →
    ∃ t, exec .outletMove s = .next t ∧ t.staging = rest ∧
      ((getR s 0x190 (outOfs n + 4) - getR s 0x190 (outOfs n + 8)).toNat + recLen r ≤ 2 ^ byteAt x.recd 4 →
        tgetD t.regs (rkey 0x190 (outOfs n + 4)) 0 = getR s 0x190 (outOfs n + 4) + word (recLen r) ∧
        rdMem t a r.length = putAt r 8 (leBytes 4 x.seq) ∧ (outlet t n).seq = (x.seq + 1) % 2 ^ 32 ∧
        (∀ j, j ≠ n → outlet t j = outlet s j)) ∧
      (2 ^ byteAt x.recd 4 < (getR s 0x190 (outOfs n + 4) - getR s 0x190 (outOfs n + 8)).toNat + recLen r →
        tgetD t.regs (rkey 0x190 (outOfs n + 0x14)) 0 = satAdd (getR s 0x190 (outOfs n + 0x14)) 1 ∧
        t = { s with staging := rest, regs := t.regs })) ∧
  (∀ (s : State) (n : Nat), (outlet s n).kind = 1 → (outlet s n).unsig ≠ 0 →
    (now s < (outlet s n).unsigAt + leAt (outlet s n).recd 0x1A 2 * Config.tUs → exec (.outletIrqTimer n) s = .next s) ∧
    ((outlet s n).unsigAt + leAt (outlet s n).recd 0x1A 2 * Config.tUs ≤ now s →
      ∃ t, exec (.outletIrqTimer n) s = .next t ∧ outlet t n = { outlet s n with unsig := 0 } ∧ t.mem = s.mem)) ∧
  (∀ (s : State) (n : Nat), (outlet s n).kind = 2 →
    (∃ t, exec (.udpRateWindow n) s = .next t ∧ outlet t n = { outlet s n with rate := 0 } ∧
      t = { s with outlets := t.outlets }) ∧
    ((outlet s n).dgram ≠ [] → now s < (outlet s n).dgramAt + leAt (outlet s n).recd 0x26 2 * Config.tUs →
      exec (.udpFlushExpiry n) s = .next s) ∧
    ((outlet s n).dgram ≠ [] → (outlet s n).dgramAt + leAt (outlet s n).recd 0x26 2 * Config.tUs ≤ now s →
      ∃ t f, exec (.udpFlushExpiry n) s = .next t ∧ t.out = .frame (byteAt (outlet s n).recd 1) f :: s.out ∧
        (outlet t n).dgram = [] ∧ (outlet t n).dgramSeq = (outlet s n).dgramSeq + 1 ∧
        (outlet t n).rate = (outlet s n).rate + f.length ∧ t = { s with outlets := t.outlets, out := t.out })) ∧
  (∀ (s : State) (m : Master) (p g l a : Nat), p < 8 → g = 0x170 + p / 4 → l = laneOfs p →
    reaches s m g (0x20C + l) = true → bit (getR s g (0x208 + l)) 31 = true → ready s g = true → linkUp s p = true →
    s.ecc = [] →
    a = getR64 s g (0x200 + l) + 16 * ((getR s g (0x210 + l)).toNat % 2 ^ bits (getR s g (0x208 + l)) 3 0) →
    a + 16 ≤ 0x000E00000000 → 60 ≤ rdLe s (a + 8) 2 → rdLe s (a + 8) 2 ≤ 9212 →
    rdLe s a 8 + rdLe s (a + 8) 2 ≤ 0x000E00000000 →
    ∃ t, exec (.ptxTailWrite m p (getR s g (0x210 + l) + 1)) s = .next t ∧
      t.out = .frame p (rdMem s (rdLe s a 8) (rdLe s (a + 8) 2)) :: s.out ∧
      tgetD t.regs (rkey g (0x210 + l)) 0 = getR s g (0x210 + l) + 1 ∧ t = { s with out := t.out, regs := t.regs, chans := t.chans })

/-- With the encoder port taking the command: EVID_SET of an open stream with a legal record answers DONE and puts the
record in force; ENABLE 0 leaves no window and no clip. CLIP on an armed stream with ON_COMMAND, no clip and its
blocks granted starts one at the newest picture on the encoder with fewer clips; with no picture it does nothing. SNAP
of the newest picture with its block granted queues a snapshot of it. EVID_READ answers whether the stream is armed
and how many pictures its window has. ENCODER_TAKE_PICTURE of a free encoder takes the oldest snapshot, or the
earliest ready clip picture. ENCODER_PICTURE_COMPLETE of a clip picture within its cap that does not end the clip
writes its bytes and index entry and carries the difference. ENCODER_ROW_WATCHDOG resets the encoder: its work is gone
and it runs again. (R376, R380, R381, R382, R383, R385, R388, R391, R392) -/
def Obligations.EvidenceAndEncoders : Prop :=
(∀ (s : State) (m : Master) (tag n : Nat), portTakes s .enc m 1 n = true → n < 1024 → (stm s n).st ≠ 0 →
    (∀ f, evidBad s (stm s n) (staged s .enc) = some f → ∃ t, exec (.evidSet m tag n) s = .next t ∧
      resultAt t .enc tag = resultWord 2 f ∧ t = { s with regs := t.regs }) ∧
    (evidBad s (stm s n) (staged s .enc) = none → ∃ t, exec (.evidSet m tag n) s = .next t ∧
      resultAt t .enc tag = resultWord 1 0 ∧ (evid t n).recd = (staged s .enc).take 64 ∧
      (byteAt (staged s .enc) 0 = 0 → (evid t n).window = [] ∧ (evid t n).clip = none) ∧
      (∀ k, k ≠ n → evid t k = evid s k))) ∧
  (∀ (s : State) (m : Master) (tag n : Nat), portTakes s .enc m 2 n = true → n < 1024 → (stm s n).st ≠ 0 →
    (evid s n).armed = true →
    ((evid s n).window = [] → ∃ t, exec (.clip m tag n) s = .next t ∧ resultAt t .enc tag = resultWord 1 0 ∧
      t = { s with regs := t.regs }) ∧
    (∀ p o w, (evid s n).window.getLast? = some p → (byteAt (evid s n).recd 1).testBit 0 = true → (evid s n).clip = none →
      ((clipsOf s 0).length < 16 ∨ (clipsOf s 1).length < 16) →
      (encAlloc s (byteAt (evid s n).recd 0x26) 1).2 = [o] →
      (encAlloc (encAlloc s (byteAt (evid s n).recd 0x26) 1).1 (byteAt (evid s n).recd 0x27) 2).2 = w → w.length = 2 →
      ∃ t c, exec (.clip m tag n) s = .next t ∧ resultAt t .enc tag = resultWord 1 0 ∧ (evid t n).clip = some c ∧
        c.enc = encPick s ∧ c.out = o ∧ c.work = w ∧ c.trig = p.stamp ∧ c.trackId = 0 ∧ c.done = 0 ∧
        c.cfg = (evid s n).recd ∧ (evid t n).window = (evid s n).window ∧ (∀ k, k ≠ n → evid t k = evid s k))) ∧
  (∀ (s : State) (m : Master) (tag n o : Nat) (p : WinPic), portTakes s .enc m 3 n = true → n < 1024 → (stm s n).st ≠ 0 →
    (evid s n).recd ≠ [] → leAt (staged s .enc) 0 4 = 0xFFFFFFFF → (evid s n).window.getLast? = some p →
    (encAlloc s (byteAt (evid s n).recd 0x26) 1).2 = [o] →
    ∃ t sn, exec (.snap m tag n) s = .next t ∧ resultAt t .enc tag = resultWord 1 0 ∧ t.snaps = s.snaps ++ [sn] ∧
      sn.stm = n ∧ sn.pic = p ∧ sn.out = o ∧ sn.trackId = 0 ∧ sn.cap = leAt (evid s n).recd 0x20 4 ∧ t.evids = s.evids) ∧
  (∀ (s : State) (m : Master) (tag n : Nat), portTakes s .enc m 4 n = true → n < 1024 →
    ∃ t, exec (.evidRead m tag n) s = .next t ∧ resultAt t .enc tag = resultWord 1 0 ∧
      tgetD t.regs (rkey 0x120 0x600) 0 = (if (evid s n).armed then 1 else 0) ∧
      tgetD t.regs (rkey 0x120 0x604) 0 = word (evid s n).window.length ∧ t = { s with regs := t.regs }) ∧
  (∀ (s : State) (e : Nat),
    (encFree s e = false → exec (.encoderTakePicture e) s = .next s) ∧
    (∀ sn rest, encFree s e = true → s.snaps = sn :: rest → ∃ t, exec (.encoderTakePicture e) s = .next t ∧
      (enc t e).job = some (.snap sn) ∧ t.snaps = rest ∧ (∀ k, k ≠ e → enc t k = enc s k) ∧
      t = { s with snaps := t.snaps, encs := t.encs }) ∧
    (∀ n c p, encFree s e = true → s.snaps = [] → clipPick s e = some (n, c, p) →
      ∃ t, exec (.encoderTakePicture e) s = .next t ∧ (enc t e).job = some (.clip n p (clipTarget c p).toNat) ∧
        (∀ k, k ≠ e → enc t k = enc s k) ∧ t = { s with encs := t.encs })) ∧
  (∀ (s : State) (e n target a : Nat) (p : WinPic) (c : Clip) (f : EncFact) (body : List Byte), e < 2 → lowEvent s = false →
    (enc s e).job = some (.clip n p target) → (evid s n).clip = some c → body = f.rows.flatten →
    (1 < c.todo.length ∨ 0 < c.more) → s.ecc = [] → a = c.out + 64 + 32 * leAt c.cfg 6 2 + c.bytes → c.done < leAt c.cfg 6 2 →
    a + body.length ≤ 0x000E00000000 → (∃ q ∈ (evid s n).window, q.pic = p.pic) →
    ((if c.done = 0 then leAt c.cfg 0x1C 4 else leAt c.cfg 0x18 4) < body.length →
      exec (.encoderPictureComplete e f) s = .next s) ∧
    (body.length ≤ (if c.done = 0 then leAt c.cfg 0x1C 4 else leAt c.cfg 0x18 4) →
      ∃ t c', exec (.encoderPictureComplete e f) s = .next t ∧ (enc t e).job = none ∧ (evid t n).clip = some c' ∧
        c'.done = c.done + 1 ∧ c'.bytes = c.bytes + body.length ∧ c'.todo = c.todo.drop 1 ∧
        c'.carry = max (-(target : Int)) (min target ((target : Int) - body.length)) ∧ rdMem t a body.length = body ∧
        rdMem t (c.out + 64 + 32 * c.done) 8 = leBytes 4 c.bytes ++ leBytes 4 body.length ∧
        tgetD (blk t (0x120 + e)).cnt 0 0 = satInc (tgetD (blk s (0x120 + e)).cnt 0 0) ∧
        ∀ x, (x < c.out + 64 + 32 * c.done ∨ c.out + 64 + 32 * c.done + 32 ≤ x) → (x < a ∨ a + body.length ≤ x) →
          memRd t.mem x = memRd s.mem x)) ∧
  (∀ (s : State) (e : Nat), e < 2 → (enc s e).job.isSome = true → unitResets s (0x120 + e) = true → heldIdle s = true →
    ∃ t, exec (.encoderRowWatchdog e true) s = .next t ∧ (blk t (0x120 + e)).st = .run ∧ (enc t e).job = none ∧
      tgetD (blk t 0x1A0).cnt 2 0 = satInc (tgetD (blk s 0x1A0).cnt 2 0))

/-- With Kettle's port taking the command: POOL_CREATE of an unused number with a legal record answers DONE with a pool of
free blocks whose bitmap is all ones and writes no byte outside the metadata. POOL_DESTROY of a pool with nothing
allocated removes it, and otherwise answers BUSY with the number of blocks. POOL_QUOTA replaces the quota. POOL_READ
answers the record of Table 18-9. ALLOC that the admission rule grants takes the lowest free block for its owner,
answers its address and writes only metadata; one for want of blocks answers NO_BLOCK with the free count and takes
nothing. CLAIM adds an owner entry or one to its count; RELEASE takes one away and FREE empties the block; an owner
without a claim gets OWNER. KETTLE_SWEEP frees the next block when no entry of it is live and leaves it otherwise.
(R430, R431, R433, R434, R435, R437, R438, R442) -/
def Obligations.KettlePools : Prop :=
(∀ (s : State) (m : Master) (tag idx lg rg n base mt : Nat), portTakes s .ket m 1 idx = true → idx < 64 →
    lg = byteAt (staged s .ket) 0 → rg = byteAt (staged s .ket) 1 → n = leAt (staged s .ket) 4 4 →
    base = leAt (staged s .ket) 8 8 → mt = leAt (staged s .ket) 0x10 8 → 8 ≤ lg → lg ≤ 26 → rg ≤ 4 →
    zeroAt (staged s .ket) 2 2 = true → 1 ≤ n → n ≤ 16777216 → base % 2 ^ lg = 0 → inRegion rg base (n * 2 ^ lg) = true →
    hitsAny (usedRanges s idx) base (n * 2 ^ lg) = false → overlaps base (n * 2 ^ lg) mt (metaSize n) = false → mt % 64 = 0 →
    inRegion rg mt (metaSize n) = true → hitsAny (usedRanges s idx) mt (metaSize n) = false →
    zeroAt (staged s .ket) 0x18 8 = true →
    ((pool s idx).isSome = true → ∃ t, exec (.poolCreate m tag idx) s = .next t ∧ resultAt t .ket tag = resultWord 4 0 ∧
      t = { s with regs := t.regs }) ∧
    (pool s idx = none → ∃ t, exec (.poolCreate m tag idx) s = .next t ∧ resultAt t .ket tag = resultWord 1 0 ∧
      pool t idx = some { log2 := lg, region := rg, nblocks := n, base := base, metaAt := mt } ∧
      (∀ k, k ≠ idx → pool t k = pool s k) ∧ (∀ k, k < n / 8 → memRd t.mem (mt + 64 + k) = 0xFF) ∧
      ∀ a, (a < mt ∨ mt + metaSize n ≤ a) → memRd t.mem a = memRd s.mem a)) ∧
  (∀ (s : State) (m : Master) (tag idx : Nat) (p : KPool), portTakes s .ket m 2 idx = true → pool s idx = some p →
    p.broken = false → ∃ t, exec (.poolDestroy m tag idx) s = .next t ∧
      (p.owners = [] → resultAt t .ket tag = resultWord 1 0 ∧ pool t idx = none ∧ (∀ k, k ≠ idx → pool t k = pool s k) ∧
        t = { s with ket := t.ket, regs := t.regs }) ∧
      (p.owners ≠ [] → resultAt t .ket tag = resultWord 0xC p.owners.length ∧ t = { s with regs := t.regs })) ∧
  (∀ (s : State) (m : Master) (tag idx : Nat) (p : KPool), portTakes s .ket m 3 idx = true → pool s idx = some p →
    p.broken = false → quotaBad (staged s .ket) = none →
    ((((List.range 8).map (quotaAt (staged s .ket))).filter (fun q => q.space != 0)).map (·.reserve)).sum ≤ p.nblocks →
    ∃ t, exec (.poolQuota m tag idx) s = .next t ∧ resultAt t .ket tag = resultWord 1 0 ∧
      pool t idx = some { p with quota := (List.range 8).map (quotaAt (staged s .ket)) } ∧
      (∀ k, k ≠ idx → pool t k = pool s k) ∧ t = { s with ket := t.ket, regs := t.regs }) ∧
  (∀ (s : State) (m : Master) (tag idx : Nat) (p : KPool), portTakes s .ket m 4 idx = true → pool s idx = some p →
    ∃ t, exec (.poolRead m tag idx) s = .next t ∧ resultAt t .ket tag = resultWord 1 0 ∧
      tgetD t.regs (rkey 0x160 0x604) 0 = word p.nblocks ∧ tgetD t.regs (rkey 0x160 0x608) 0 = word p.free ∧
      t = { s with regs := t.regs }) ∧
  (∀ (s : State) (m : Master) (tag idx sp id : Nat) (p : KPool), portTakes s .ket m 5 idx = true → pool s idx = some p →
    p.broken = false → ownerAt (staged s .ket) 0 = some (sp, id) → s.ecc = [] →
    (∀ e b, quotaRule s p sp id 2 1 = .ok e → firstFree p 0 p.nblocks = some b →
      ∃ t, exec (.ketAlloc m tag idx) s = .next t ∧ resultAt t .ket tag = resultWord 1 0 ∧
        pool t idx = some { p with owners := tset p.owners b [⟨1, sp, if sp = 1 then (ctx s id).epoch else 0, id⟩] } ∧
        tgetD t.regs (rkey 0x160 0x600) 0 = word (p.addr b) ∧ tgetD t.regs (rkey 0x160 0x604) 0 = word (p.addr b / 2 ^ 32) ∧
        (∀ k, k ≠ idx → pool t k = pool s k) ∧
        ∀ a, (a < p.metaAt ∨ p.metaAt + metaSize p.nblocks ≤ a) → memRd t.mem a = memRd s.mem a) ∧
    (∀ f, quotaRule s p sp id 2 1 = .noBlock f → ∃ t, exec (.ketAlloc m tag idx) s = .next t ∧
      resultAt t .ket tag = resultWord 3 f ∧ t.ket = s.ket ∧ t.mem = s.mem)) ∧
  (∀ (s : State) (m : Master) (tag idx sp id pn b ptr : Nat) (p : KPool) (live : List Own),
    ptr = leAt (staged s .ket) 0 8 → ownerAt (staged s .ket) 8 = some (sp, id) → ptrInPool s idx ptr = true → s.ecc = [] →
    ketPtr s ptr = some (pn, p, b) → live = liveOwners s p b →
    (portTakes s .ket m 6 idx = true → ∃ t, exec (.ketClaim m tag idx) s = .next t ∧ (∀ k, k ≠ pn → pool t k = pool s k) ∧
      ((live.any fun e => e.space == sp && e.id == id) = false → live.length < 8 → resultAt t .ket tag = resultWord 1 0 ∧
        pool t pn = some { p with owners := tset p.owners b (live ++ [⟨1, sp, if sp = 1 then (ctx s id).epoch else 0, id⟩]) }) ∧
      ((live.any fun e => e.space == sp && e.id == id) = false → 8 ≤ live.length → resultAt t .ket tag = resultWord 7 7 ∧
        t.ket = s.ket) ∧
      (∀ e, live.find? (fun e => e.space == sp && e.id == id) = some e → e.count < 255 → resultAt t .ket tag = resultWord 1 0 ∧
        ∃ l, l = live.map (fun x => if x.space = sp ∧ x.id = id then { x with count := x.count + 1 } else x) ∧
          pool t pn = some { p with owners := tset p.owners b l })) ∧
    (portTakes s .ket m 7 idx = true → ∃ t, exec (.ketRelease m tag idx) s = .next t ∧ (∀ k, k ≠ pn → pool t k = pool s k) ∧
      ((live.any fun e => e.space == sp && e.id == id) = false → resultAt t .ket tag = resultWord 7 7 ∧ t.ket = s.ket) ∧
      (∀ e, live = [e] → e.space = sp → e.id = id → e.count = 1 → (∀ q ∈ s.stms, q.2.waits pn = false) →
        resultAt t .ket tag = resultWord 1 0 ∧ pool t pn = some { p with owners := tdel p.owners b }) ∧
      (∀ e, live = [e] → e.space = sp → e.id = id → 1 < e.count → resultAt t .ket tag = resultWord 1 0 ∧
        pool t pn = some { p with owners := tset p.owners b [{ e with count := e.count - 1 }] })) ∧
    (portTakes s .ket m 8 idx = true → ∃ t, exec (.ketFree m tag idx) s = .next t ∧ (∀ k, k ≠ pn → pool t k = pool s k) ∧
      (live ≠ [] → (live.all fun e => e.space == sp && e.id == id) = true → (∀ q ∈ s.stms, q.2.waits pn = false) →
        resultAt t .ket tag = resultWord 1 0 ∧ pool t pn = some { p with owners := tdel p.owners b }) ∧
      ((live.any fun e => !(e.space == sp && e.id == id)) = true → resultAt t .ket tag = resultWord 7 7 ∧ t.ket = s.ket))) ∧
  (∀ (s : State) (pn b : Nat) (rest : List (Nat × Nat)) (p : KPool) (es : List Own), s.ket.sweep = (pn, b) :: rest →
    rest ≠ [] → pool s pn = some p → tget p.owners b = some es → p.broken = false → (∀ q ∈ s.stms, q.2.waits pn = false) →
    ∃ t, exec .kettleSweep s = .next t ∧ t.ket.sweep = rest ∧ (∀ k, k ≠ pn → pool t k = pool s k) ∧
      ((es.any (ownLive s)) = false → pool t pn = some { p with owners := tdel p.owners b }) ∧
      ((es.any (ownLive s)) = true → t = { s with ket := t.ket } ∧ pool t pn = pool s pn))

/-- PATROL_SCRUB_READ of a channel of a READY quad with MQ_SCRUB.HOURS not 0 moves to the next granule, from the last to
the first with one more in CNT7, and an error of one to four bytes in a sector of the granule is gone; with HOURS 0 it
changes nothing. RECENTRE moves each delay of MC_EYE by at most one step and counts in CNT4, and changes nothing while
an urgent invocation is active. MC_RETRAIN puts the channel into RETRAINING, keeping its values. RETRAIN_SLICE that is
not the last keeps it there; the last takes the trained values, or returns to the previous ones and counts in the
quad's CNT2, and the channel is in RUN. BANK_IDLE_CLOSE and REFRESH close the bank's row, REFRESH noting the
temperature. SELF_REFRESH_ENTRY closes every row unless SR_IDLE is 0. None of the last three changes a byte. (R418,
R421, R425, R426, R427, R429) -/
def Obligations.MemoryChannels : Prop :=
(∀ (s : State) (c : Nat), chanReady s c = true →
    (bits (getR s (0x130 + c / 8) 0x104) 7 0 = 0 → exec (.patrolScrubRead c) s = .next s) ∧
    (bits (getR s (0x130 + c / 8) 0x104) 7 0 ≠ 0 → ∃ t, exec (.patrolScrubRead c) s = .next t ∧
      (chan t c).patrol = (if chanGranules ≤ (chan s c).patrol + 1 then 0 else (chan s c).patrol + 1) ∧
      (chanGranules ≤ (chan s c).patrol + 1 → tgetD (blk t (chanPage c)).cnt 7 0 = satInc (tgetD (blk s (chanPage c)).cnt 7 0)) ∧
      (∀ j errs, j < 4 → tget s.ecc (granAddr c (chan s c).patrol / 64 + j) = some errs → 1 ≤ errs.length →
        errs.length ≤ 4 → tget t.ecc (granAddr c (chan s c).patrol / 64 + j) = none) ∧
      (s.ecc = [] → t.mem = s.mem ∧ t.ecc = []))) ∧
  (∀ (s : State) (c : Nat) (mv : List (Nat × Nat)), chanReady s c = true → (chan s c).retrain = none →
    (urgentActive s = true → exec (.recentre c mv) s = .next s) ∧
    (urgentActive s = false → ∃ t, exec (.recentre c mv) s = .next t ∧
      tgetD (blk t (chanPage c)).cnt 4 0 = satInc (tgetD (blk s (chanPage c)).cnt 4 0) ∧ t.mem = s.mem ∧
      ∀ l, l < 20 → ∀ w v, w = getR s (chanPage c) (0x200 + 4 * l) → v = getR t (chanPage c) (0x200 + 4 * l) →
        bits v 23 16 ≤ bits w 23 16 + 1 ∧ bits w 23 16 ≤ bits v 23 16 + 1 ∧ bits v 7 0 ≤ bits w 7 0 + 1 ∧
        bits w 7 0 ≤ bits v 7 0 + 1 ∧ bits v 31 24 = bits w 31 24 ∧ bits v 15 8 = bits w 15 8)) ∧
  (∀ (s : State) (m : Master) (c : Nat), c < 32 → reaches s m (chanPage c) 0x104 = true →
    (blk s (chanPage c)).st ≠ .retraining →
    ∃ t, exec (.mcRetrain m c) s = .next t ∧ (blk t (chanPage c)).st = .retraining ∧ (chan t c).retrain = some 0 ∧
      (chan t c).prevEye = (List.range 20).map (fun l => getR s (chanPage c) (0x200 + 4 * l)) ∧ t.mem = s.mem) ∧
  (∀ (s : State) (c k : Nat), (chan s c).retrain = some k → urgentActive s = false →
    (∃ t, exec (.retrainSlice c none) s = .next t ∧ chan t c = { chan s c with retrain := some (k + 1) } ∧
      t = { s with chans := t.chans }) ∧
    (∀ eye, eye.length = 20 → ∃ t, exec (.retrainSlice c (some eye)) s = .next t ∧ (chan t c).retrain = none ∧
      (blk t (chanPage c)).st = .run ∧
      ((eye.all fun w => decide (16 ≤ bits w 31 24 ∧ 16 ≤ bits w 15 8)) = true →
        ∀ l, l < 20 → rawR t (chanPage c) (0x200 + 4 * l) = eye.getD l 0) ∧
      ((eye.all fun w => decide (16 ≤ bits w 31 24 ∧ 16 ≤ bits w 15 8)) = false → (chan s c).prevEye.length = 20 →
        (∀ l, l < 20 → rawR t (chanPage c) (0x200 + 4 * l) = (chan s c).prevEye.getD l 0) ∧
        tgetD (blk t (0x130 + c / 8)).cnt 2 0 = satInc (tgetD (blk s (0x130 + c / 8)).cnt 2 0)))) ∧
  (∀ (s : State) (c b temp : Nat), chanReady s c = true →
    (∃ t, exec (.bankIdleClose c b) s = .next t ∧ tget (chan t c).openRow b = none ∧
      (∀ k, k ≠ b → tget (chan t c).openRow k = tget (chan s c).openRow k) ∧ t = { s with chans := t.chans }) ∧
    ((chan s c).st ≠ 2 → ∃ t, exec (.refresh c b temp) s = .next t ∧ tget (chan t c).openRow b = none ∧
      (chan t c).temp = temp % 256 ∧ t = { s with chans := t.chans }) ∧
    ((chan s c).st ≠ 2 → bits (getR s (0x130 + c / 8) 0x100) 23 8 ≠ 0 →
      ∃ t, exec (.selfRefreshEntry c) s = .next t ∧ (chan t c).st = 2 ∧ (chan t c).openRow = [] ∧
        tgetD (blk t (0x130 + c / 8)).cnt 3 0 = satInc (tgetD (blk s (0x130 + c / 8)).cnt 3 0) ∧ t.mem = s.mem) ∧
    (bits (getR s (0x130 + c / 8) 0x100) 23 8 = 0 → exec (.selfRefreshEntry c) s = .next s))

/-- While memory requests are served: BAR2_WRITE of four enabled bytes of an aligned dword that a writable slot maps to
GDDR6 stores them and changes no other byte; through a read-only slot, or where no slot maps it, it stores nothing and
adds one to BLK_EVT_CNT0; with no byte enabled it changes nothing. BAR2_READ of a mapped dword returns its bytes, of
an unmapped one all ones with one more in BLK_EVT_CNT0. XLT_CFG_WRITE and OUTW_CFG_WRITE take a legal value and drop
and count an illegal one. PCIE_CONFIG_REQUEST is answered with Request Retry Status until READY_MAP bit 2 and then
carried out. PCIE_COMPLETION_RECEIVE of a live request stores its data and no other byte, of an abandoned one counts
and frees the tag, and of an unknown tag sets AER bit 16. PCIE_COMPLETION_TIMEOUT acts at the value's time and not
before: it frees the tag and records the failure in PCIE_CPL_LAST. (R447, R451, R452, R454, R456, R457, R461) -/
def Obligations.HostWindows : Prop :=
(∀ (s : State) (ofs a : Nat) (ro : Bool) (b0 b1 b2 b3 : Byte), memServed s = true → ofs % 4 = 0 →
    bar2At s ofs = .gddr a ro → s.ecc = [] →
    ∃ t, exec (.bar2Write ofs [some b0, some b1, some b2, some b3]) s = .next t ∧
      (ro = false → rdMem t a 4 = [b0, b1, b2, b3] ∧ ∀ x, (x < a ∨ a + 4 ≤ x) → memRd t.mem x = memRd s.mem x) ∧
      (ro = true → t.mem = s.mem ∧ tgetD (blk t 0x180).cnt 0 0 = satInc (tgetD (blk s 0x180).cnt 0 0)) ∧
      exec (.bar2Write ofs [none, none, none, none]) s = .next s) ∧
  (∀ (s : State) (ofs : Nat), memServed s = true → ofs % 4 = 0 →
    (∀ a ro, bar2At s ofs = .gddr a ro → s.ecc = [] → ∃ t, exec (.bar2Read ofs 1) s = .next t ∧
      t.out = .pcie 9 0 :: .data (rdMem s a 4) :: s.out ∧ t = { s with out := t.out, chans := t.chans }) ∧
    (bar2At s ofs = .miss → (∃ t, exec (.bar2Write ofs [some 1, some 2, some 3, some 4]) s = .next t ∧ t.mem = s.mem ∧
        tgetD (blk t 0x180).cnt 0 0 = satInc (tgetD (blk s 0x180).cnt 0 0)) ∧
      ∃ t l, exec (.bar2Read ofs 1) s = .next t ∧ t.out = .pcie 9 0 :: .data [0xFF, 0xFF, 0xFF, 0xFF] :: l ∧ t.mem = s.mem ∧
        tgetD (blk t 0x180).cnt 0 0 = satInc (tgetD (blk s 0x180).cnt 0 0))) ∧
  (∀ (s : State) (m : Master) (i size : Nat) (v : Word), i < 256 → reaches s m 0x181 (0x1008 + 16 * i) = true →
    size = bits v 12 0 →
    ((bit v 31 = false ∨ (1 ≤ size ∧ size ≤ 4096 ∧ xltBase s i % 0x10000 = 0 ∧ xltOk (xltBase s i) (size * 0x10000) = true)) →
      ∃ t, exec (.xltCfgWrite m i v) s = .next t ∧ getR t 0x181 (0x1008 + 16 * i) = v &&& 0xC0001FFF#32 ∧
        t = { s with rvs := t.rvs }) ∧
    (bit v 31 = true → (size = 0 ∨ 4096 < size ∨ xltBase s i % 0x10000 ≠ 0 ∨ xltOk (xltBase s i) (size * 0x10000) = false) →
      ∃ t, exec (.xltCfgWrite m i v) s = .next t ∧ t.rvs = s.rvs ∧
        tgetD (blk t 0x181).cnt 0 0 = satInc (tgetD (blk s 0x181).cnt 0 0))) ∧
  (∀ (s : State) (m : Master) (w : Nat) (v : Word), w < 64 → reaches s m 0x181 (0x3008 + 16 * w) = true →
    ((bit v 31 = false ∨ (getR64 s 0x181 (0x3000 + 16 * w) % 4096 = 0 ∧ getR64 s 0x181 (0x3000 + 16 * w) ≤ 0xFFFFFFFF00000000)) →
      ∃ t, exec (.outwCfgWrite m w v) s = .next t ∧ getR t 0x181 (0x3008 + 16 * w) = v &&& 0xC0000000#32 ∧
        t = { s with rvs := t.rvs }) ∧
    (bit v 31 = true → getR64 s 0x181 (0x3000 + 16 * w) % 4096 ≠ 0 → ∃ t, exec (.outwCfgWrite m w v) s = .next t ∧
      t.rvs = s.rvs ∧ tgetD (blk t 0x181).cnt 1 0 = satInc (tgetD (blk s 0x181).cnt 1 0))) ∧
  (∀ (s : State) (q : CfgReq),
    (fnReady s 2 = false → exec (.pcieConfigRequest q) s = .next { s with out := .pcie 5 0 :: s.out }) ∧
    (fnReady s 2 = true → ∃ t, exec (.pcieConfigRequest q) s = .next t ∧ (cfgIsRead q = true → t = { s with out := t.out }) ∧
      (q = .aerUnc → t.out = .pcie 9 s.pcie.aerUnc :: s.out) ∧ (q = .classCode → t.out = .pcie 9 0x120000 :: s.out) ∧
      (∀ on, q = .memEn on → t.pcie = { s.pcie with memEn := on }) ∧
      (∀ on, q = .msixEn on → t.pcie = { s.pcie with msixEn := on }) ∧ t = { s with pcie := t.pcie, out := t.out })) ∧
  (∀ (s : State) (tag : Nat) (c : CplSt),
    (tget s.pcie.np tag = none → ∃ t, exec (.pcieCompletionReceive tag c) s = .next t ∧ t.pcie.aerUnc.testBit 16 = true ∧
      (s.pcie.aerSev.testBit 16 = false → t.pcieMem = s.pcieMem ∧ t.ctxs = s.ctxs)) ∧
    (∀ r, tget s.pcie.np tag = some r → npLive s r = false → ∃ t, exec (.pcieCompletionReceive tag c) s = .next t ∧
      tget t.pcie.np tag = none ∧ t.pcieMem = s.pcieMem ∧
      tgetD (blk t 0x180).cnt 4 0 = satInc (tgetD (blk s 0x180).cnt 4 0)) ∧
    (∀ r d, tget s.pcie.np tag = some r → npLive s r = true → c = .ok d →
      ∃ t, exec (.pcieCompletionReceive tag c) s = .next t ∧ memRdL t.pcieMem r.addr r.bytes = fitBytes r.bytes d ∧
        ∀ x, (x < r.addr ∨ r.addr + r.bytes ≤ x) → memRd t.pcieMem x = memRd s.pcieMem x)) ∧
  (∀ (s : State) (tag : Nat) (r : NpReq), tget s.pcie.np tag = some r →
    (now s < r.issued + ctoTicks s.pcie.ctoVal → exec (.pcieCompletionTimeout tag) s = .next s) ∧
    (r.issued + ctoTicks s.pcie.ctoVal ≤ now s → ∃ t, exec (.pcieCompletionTimeout tag) s = .next t ∧
      tget t.pcie.np tag = none ∧
      (npLive s r = true → s.pcie.dstate = 0 → s.pcie.turnOff = false →
        tgetD t.regs (rkey 0x180 0x108) 0 = word (1 <<< 29 ||| r.ctx.getD 0) ∧ t.pcie.aerUnc.testBit 14 = true)))

/-- PCIE_LINK_LOSS of a link in use freezes the endpoint with CAUSE 0xFE, and after PME_Turn_Off does not.
PCIE_LINK_RETRAINED brings the link to L0. PCIE_TLP_ERROR sets its AER status bit and, where its severity is fatal,
freezes with that bit as CAUSE. FREEZE_RELEASE by a privileged master with the link in L0 and no fatal error left ends
the freeze. D_STATE_CHANGE sets D3hot or D0. PME_TURN_OFF is acknowledged. MSIX_PENDING_SEND of a pending vector that
nothing holds back clears its bit and sends; MSIX_HOLDOFF_EXPIRY removes the window at its end and not before.
LTR_UPDATE reports 10 or 1,000 us where that changed. PCIE_HOT_RESET puts the function's block into INIT with its
enables clear. ATTN_BUTTON_PRESS and RELEASE move bit 0 of the slot's status. SLOT_POWER_OFF accepted once begins an
orderly stop. MCTP_WAKE asserts WAKE_N in D3cold with PME_En, otherwise it does nothing. (R445, R448, R459, R460,
R461, R462, R463, R464, R465, R466, R467) -/
def Obligations.LinkAndMessages : Prop :=
(∀ s : State, 2 ≤ s.pcie.link → s.pcie.frozen = false →
    ∃ t, exec .pcieLinkLoss s = .next t ∧ t.pcie.link = 0 ∧ t.pcie.turnOff = s.pcie.turnOff ∧
      (s.pcie.turnOff = false → t.pcie.frozen = true ∧ t.pcie.cause = 0xFE) ∧ (s.pcie.turnOff = true → t.pcie.frozen = false)) ∧
  (∀ (s : State) (w v : Nat), s.pcie.link = 0 → ready s 0x180 = true → s.pcie.turnOff = false → w ∈ [1, 2, 4, 8, 16] → 1 ≤ v →
    v ≤ 5 → ∃ t, exec (.pcieLinkRetrained w v) s = .next t ∧ t.pcie = { s.pcie with link := 2, width := w, speed := v } ∧
      t = { s with pcie := t.pcie }) ∧
  (∀ (s : State) (k : Nat) (hdr : List Byte), (s.pcie.link = 2 ∨ s.pcie.link = 3) →
    (k ∈ [0, 6, 7, 8, 12, 14] → ∃ t, exec (.pcieTlpError (.correctable k) hdr) s = .next t ∧
      t.pcie.aerCor = s.pcie.aerCor ||| 2 ^ k ∧ t.pcie.frozen = s.pcie.frozen ∧ t = { s with pcie := t.pcie, out := t.out }) ∧
    (k ∈ [4, 13, 17, 18, 22] → ∃ t, exec (.pcieTlpError (.fatal k) hdr) s = .next t ∧
      t.pcie.aerUnc = s.pcie.aerUnc ||| 2 ^ k ∧
      (s.pcie.frozen = false → s.pcie.aerSev.testBit k = true → t.pcie.frozen = true ∧ t.pcie.cause = k) ∧
      (s.pcie.aerSev.testBit k = false → t.pcie.frozen = s.pcie.frozen))) ∧
  (∀ (s : State) (m : Master), fnReady s 2 = true → s.pcie.frozen = true → s.pcie.link = 2 →
    s.pcie.aerUnc &&& s.pcie.aerSev = 0 →
    (m ≠ .user → ∃ t, exec (.freezeRelease m) s = .next t ∧ t.pcie.frozen = false ∧ t.mem = s.mem ∧ t.ctxs = s.ctxs) ∧
    (m = .user → exec (.freezeRelease m) s = .next s)) ∧
  (∀ s : State, fnReady s 2 = true →
    (∃ t, exec (.dStateChange true) s = .next t ∧ t.pcie.dstate = 3 ∧ bit (blk t 0x180).status 9 = true ∧ t.mem = s.mem) ∧
    (s.pcie.turnOff = false → ∃ t, exec (.dStateChange false) s = .next t ∧ t.pcie.dstate = 0 ∧ t.pcie.waitWr = [] ∧
      bit (blk t 0x180).status 9 = false ∧ (∀ p b, s.pcie.waitWr = [(p, [b])] → memRd t.pcieMem p = b) ∧ t.mem = s.mem)) ∧
  (∀ s : State, (s.pcie.link = 2 ∨ s.pcie.link = 3) → ∃ t, exec .pmeTurnOff s = .next t ∧ t.pcie.turnOff = true ∧
    t.pcie.link = 4 ∧ t.out = .pcie 6 0 :: s.out ∧ t = { s with pcie := t.pcie, out := t.out }) ∧
  (∀ (s : State) (v : Nat), v < 2048 → s.pcie.msixEn = true → pbaGet s v = true →
    (msixHeld s v = true → exec (.msixPendingSend v) s = .next s) ∧
    (msixHeld s v = false → ∃ t, exec (.msixPendingSend v) s = .next t ∧
      bit (tgetD t.regs (rkey 0x202 (4 * (v / 32))) 0) (v % 32) = false ∧
      t.out = .msix v (getR64 s 0x200 (16 * v)) (getR s 0x200 (16 * v + 8)).toNat :: s.out ∧
      (∀ k, k < 2048 → k ≠ v → pbaGet t k = pbaGet s k) ∧
      t = { s with pcie := t.pcie, out := t.out, regs := t.regs })) ∧
  (∀ (s : State) (v e : Nat), tget s.pcie.hold v = some e →
    (now s < e → exec (.msixHoldoffExpiry v) s = .next s) ∧
    (e ≤ now s → pbaGet s v = false → ∃ t, exec (.msixHoldoffExpiry v) s = .next t ∧ tget t.pcie.hold v = none ∧
      (∀ k, k ≠ v → tget t.pcie.hold k = tget s.pcie.hold k) ∧ t = { s with pcie := t.pcie })) ∧
  (∀ (s : State) (v : Nat), (s.pcie.link = 2 ∨ s.pcie.link = 3) → s.pcie.frozen = false → s.pcie.dstate = 0 →
    v = (if s.pcie.hostSeen = true ∧ now s < s.pcie.hostTraffic + Config.tMs then 10 else 1000) →
    (s.pcie.ltr = v → exec .ltrUpdate s = .next s) ∧
    (s.pcie.ltr ≠ v → exec .ltrUpdate s = .next { s with pcie := { s.pcie with ltr := v }, out := .pcie 7 v :: s.out })) ∧
  (∀ s : State, s.life.phase = .up → ready s 0x180 = true → ∃ t, exec .pcieHotReset s = .next t ∧ (blk t 0x180).st = .init ∧
    (blk t 0x181).st = .init ∧ t.pcie.link = 1 ∧ t.pcie.memEn = false ∧ t.pcie.msixEn = false ∧ t.pcie.frozen = false ∧
    t.pcie.np = [] ∧ t.tb = s.tb ∧ t.life.profile = s.life.profile) ∧
  (∀ s : State, s.life.phase ≠ .off →
    (bit (getR s 0x1B2 0x100) 0 = false → ∃ t, exec .attnButtonPress s = .next t ∧
      bit (tgetD t.regs (rkey 0x1B2 0x100) 0) 0 = true ∧ t.mem = s.mem ∧ t.ctxs = s.ctxs ∧
      tgetD (blk t 0x1B2).cnt 0 0 = satInc (tgetD (blk s 0x1B2).cnt 0 0)) ∧
    ∃ t, exec .attnButtonRelease s = .next t ∧ bit (tgetD t.regs (rkey 0x1B2 0x100) 0) 0 = false ∧ t = { s with regs := t.regs }) ∧
  (∀ (s : State) (m : Master), reaches s m 0x1B2 0x104 = true →
    (bit (getR s 0x1B2 0x104) 8 = true → exec (.slotPowerOff m) s = .next s) ∧
    (bit (getR s 0x1B2 0x104) 8 = false → s.life.phase ≠ .stopped → heldIdle s = true → gongState s < 3 →
      tget s.rvs (rkey 0x1B0 0x108) = none → ∃ t, exec (.slotPowerOff m) s = .next t ∧
      bits (tgetD t.regs (rkey 0x1B0 0x108) 0) 31 28 = 3 ∧ t.gong.stopCause = 3 ∧ t.gong.stopAt = now s)) ∧
  (∀ s : State,
    (s.pcie.d3cold = true → s.pcie.pmeEn = true →
      exec .mctpWake s = .next { s with pcie := { s.pcie with pmeStatus := true, wake := true } }) ∧
    ((s.pcie.d3cold = false ∨ s.pcie.pmeEn = false) → exec .mctpWake s = .next s))

/-- GONG_SAMPLE of a working module shows VIN and IIN, adds VIN x IIN to the window and keeps the runs of low and high
samples. LOW_EVENT_START acts on four samples below S and not on fewer: STATE 1, duty 1/64, BLK_STATUS.RIDING.
LOW_EVENT_END with nothing held acts on 16 good samples before t0 + 8 ms: STATE 0, duty 64/64, an event whose lowest
sample lay below S but not below 20 V counted in BLK_EVT_CNT0 and logged as KIND 1; otherwise it does nothing.
RIDE_THROUGH_EXPIRY at t0 + 8 ms, and SWELL_TIMEOUT at 100 ms, begin the orderly stop with cause 1 and 2, and not
before. SWELL_START acts on four samples above 60 V; SWELL_END logs KIND 3 and adds one to CNT2. ORDERLY_STOP ends
with STATE 4, every switchable domain off and the report of the cause. SUPPLY_RESTART restarts with CAUSE 7 after 100
ms of good input. HOLD_UP_COLLAPSE, THERMAL_TRIP at 115 degrees and RAIL_FAULT take the power away; what flash holds
stays. (R470, R471, R472, R473, R474, R476, R477, R478, R484, R553) -/
def Obligations.SupplyEvents : Prop :=
(∀ (s : State) (vin iin : Nat) (pf : Bool), s.life.phase ≠ .stopped → ready s 0x1B0 = true → vin < 4096 → iin < 4096 →
    ∃ t, exec (.gongSample vin iin pf) s = .next t ∧ tgetD t.regs (rkey 0x1B0 0x100) 0 = word (iin <<< 16 ||| vin) ∧
      t.gong.sumP = s.gong.sumP + vin * iin ∧ t.gong.nP = s.gong.nP + 1 ∧
      (vin < sagS s → t.gong.lo.n = (if s.gong.lo.n = 0 then 1 else min (s.gong.lo.n + 1) 16)) ∧
      (sagS s ≤ vin → t.gong.lo = {}) ∧
      (2400 < vin → t.gong.hi.n = (if s.gong.hi.n = 0 then 1 else min (s.gong.hi.n + 1) 16)) ∧
      (vin ≤ 2400 → t.gong.hi = {}) ∧ t.mem = s.mem ∧ t.ctxs = s.ctxs ∧ t.stms = s.stms) ∧
  (∀ s : State, ready s 0x1B0 = true → s.gong.low = none → gongState s = 0 → pfOn s = false →
    (s.gong.lo.n < 4 → exec .lowEventStart s = .next s) ∧
    (4 ≤ s.gong.lo.n → tget s.rvs (rkey 0x1B0 0x108) = none → ∃ t e, exec .lowEventStart s = .next t ∧ t.gong.low = some e ∧
      e.t0 = s.gong.lo.t0 ∧ e.extreme = s.gong.lo.ext ∧ bits (tgetD t.regs (rkey 0x1B0 0x108) 0) 31 28 = 1 ∧
      bits (tgetD t.regs (rkey 0x1B0 0x108) 0) 13 7 = 1 ∧ bit (blk t 0x1B0).status 8 = true ∧ t.mem = s.mem)) ∧
  (∀ (s : State) (e : LowEv), s.gong.low = some e → gongState s = 1 →
    ((s.gong.fin.n < 16 ∨ e.t0 + 8 * Config.tMs ≤ now s) → exec .lowEventEnd s = .next s) ∧
    (16 ≤ s.gong.fin.n → now s < e.t0 + 8 * Config.tMs → heldIdle s = true → s.toc.waitRst = [] → tget s.rvs (rkey 0x1B0 0x108) = none →
      ∃ t, exec .lowEventEnd s = .next t ∧ t.gong.low = none ∧ t.gong.railShed = 0 ∧ t.gong.pdQueue = [] ∧
        bits (tgetD t.regs (rkey 0x1B0 0x108) 0) 31 28 = 0 ∧ bits (tgetD t.regs (rkey 0x1B0 0x108) 0) 13 7 = 64 ∧
        bit (blk t 0x1B0).status 8 = false ∧ t.mem = s.mem ∧
        (e.below = true → e.deep = false → (tgetD t.gong.log ((getR s 0x1B0 0x120).toNat % 256) []).take 1 = [1] ∧
          tgetD (blk t 0x1B0).cnt 0 0 = satInc (tgetD (blk s 0x1B0).cnt 0 0)))) ∧
  (∀ (s : State) (e : LowEv), s.gong.low = some e →
    (now s < e.t0 + 8 * Config.tMs → exec .rideThroughExpiry s = .next s) ∧
    (e.t0 + 8 * Config.tMs ≤ now s → heldIdle s = true → gongState s < 3 → tget s.rvs (rkey 0x1B0 0x108) = none →
      ∃ t, exec .rideThroughExpiry s = .next t ∧ bits (tgetD t.regs (rkey 0x1B0 0x108) 0) 31 28 = 3 ∧ t.gong.stopCause = 1 ∧
        t.gong.stopAt = now s ∧ t.gong.low = none)) ∧
  (∀ s : State, ready s 0x1B0 = true → s.gong.swell = none → gongState s < 3 →
    (s.gong.hi.n < 4 → exec .swellStart s = .next s) ∧
    (4 ≤ s.gong.hi.n → ∃ t e, exec .swellStart s = .next t ∧ t.gong.swell = some e ∧ e.t0 = s.gong.hi.t0 ∧
      t = { s with gong := t.gong })) ∧
  (∀ (s : State) (e : LowEv), s.gong.swell = some e →
    (16 ≤ s.gong.swFin.n → now s < e.t0 + 100 * Config.tMs → ∃ t, exec .swellEnd s = .next t ∧ t.gong.swell = none ∧
      (tgetD t.gong.log ((getR s 0x1B0 0x120).toNat % 256) []).take 1 = [3] ∧
      tgetD (blk t 0x1B0).cnt 2 0 = satInc (tgetD (blk s 0x1B0).cnt 2 0) ∧ t.mem = s.mem) ∧
    (s.gong.swFin.n < 16 → exec .swellEnd s = .next s) ∧
    (now s < e.t0 + 100 * Config.tMs → exec .swellTimeout s = .next s) ∧
    (e.t0 + 100 * Config.tMs ≤ now s → heldIdle s = true → gongState s < 3 → tget s.rvs (rkey 0x1B0 0x108) = none →
      ∃ t, exec .swellTimeout s = .next t ∧ bits (tgetD t.regs (rkey 0x1B0 0x108) 0) 31 28 = 3 ∧ t.gong.stopCause = 2 ∧
        t.gong.swell = none)) ∧
  (∀ s : State,
    (gongState s ≠ 3 → exec .orderlyStop s = .next s) ∧
    (gongState s = 3 → tget s.rvs (rkey 0x1B0 0x108) = none → ∃ t l, exec .orderlyStop s = .next t ∧ t.life.phase = .stopped ∧
      bits (tgetD t.regs (rkey 0x1B0 0x108) 0) 31 28 = 4 ∧ t.out = .mctp 5 s.gong.stopCause :: l ∧
      (∀ n, n < 69 → pdState s n = 0 ∨ bits (tgetD t.regs (rkey 0x1B1 (0x100 + 4 * n)) 0) 31 28 = 0))) ∧
  (∀ (s : State) (f : BootFact) (t0 : Nat), s.gong.okFrom = some t0 → s.life.phase = .stopped →
    ((3 ≤ s.gong.stopCause ∨ now s < t0 + 100 * Config.tMs) → exec (.supplyRestart f) s = .next s) ∧
    (s.gong.stopCause ≤ 2 → t0 + 100 * Config.tMs ≤ now s → ∃ t, exec (.supplyRestart f) s = .next t ∧
      t.life.phase = .waitPerst ∧ tgetD t.regs (rkey 0x004 0x100) 0 = 7 ∧ t.mem = [] ∧ t.tb.t = 0)) ∧
  (∀ s : State, s.life.phase = .up → ∃ t u v, exec .holdUpCollapse s = .next t ∧ exec (.thermalTrip 115) s = .next u ∧
    exec .railFault s = .next v ∧ exec (.thermalTrip 114) s = .next s ∧
    t.life.phase = .off ∧ u.life.phase = .tripped ∧ v.life.phase = .railOff ∧ u.gong.trip = true ∧ u.out = .mctp 4 0 :: s.out ∧
    v.out = .mctp 3 0 :: s.out ∧ t.mem = [] ∧ u.mem = [] ∧ v.mem = [] ∧ t.sec.ctrs = s.sec.ctrs ∧ t.sec.profs = s.sec.profs ∧
    t.gong.flashLog = s.gong.flashLog ∧ t.pcieMem = s.pcieMem)

/-- POWER_WINDOW with STATE 0 and a sample sets the duty by R481 and closes the window; without a sample it does nothing.
RIPPLE_WINDOW raises k at the third window in a row above GONG_RIPPLE_MV while k is below 4, and lowers it at the
tenth in a row below 80 %, adding one to CNT4. STREAM_SHED after 100 windows of low duty and still above the cap, 10
ms after the last, moves the next stream one level up and adds one to CNT6; STREAM_RESTORE after 100 windows at full
duty below 0.9 of the cap, 100 ms after the last change, moves the last one back. THERMAL_SAMPLE shows the hottest
die, raises j at the tenth ms at 95 degrees or more while j is below 12, and begins the stop with cause 4 after 1 s at
105 degrees. PD_ON of an off domain that PD_CTRL switches starts its ramp, or is held and counted while Gong has no
room; PD_OFF of an idle one switches it off; other requests are dropped and counted in CNT2. PD_SWITCH_ON_COMPLETE of
a ramping domain turns it on. (R480, R481, R482, R483, R486, R487, R488, R489) -/
def Obligations.PowerCapHeatAndDomains : Prop :=
(∀ (s : State) (g : List Nat), ready s 0x1B0 = true →
    (s.gong.nP = 0 → exec (.powerWindow g) s = .next s) ∧
    (s.gong.nP ≠ 0 → gongState s = 0 → tget s.rvs (rkey 0x1B0 0x108) = none → ∃ t p c, exec (.powerWindow g) s = .next t ∧
      p = s.gong.sumP * 125 * 20 ∧ c = cap20 s * s.gong.nP * 1000000 ∧
      bits (tgetD t.regs (rkey 0x1B0 0x108) 0) 13 7 =
        (if c < p then max 1 (duty s - 8) else if p * 100 < 95 * c then min 64 (duty s + 1) else duty s) ∧
      t.gong.sumP = 0 ∧ t.gong.nP = 0 ∧ t.gong.past = decide (c < p) ∧
      t.gong.pdQueue = s.gong.pdQueue.filter (fun q => !g.contains q.1) ∧ t.mem = s.mem ∧ t.ctxs = s.ctxs)) ∧
  (∀ (s : State) (lo pp : Nat), ready s 0x1B0 = true → s.gong.ripMin = some lo → pp = (s.gong.ripMax - lo) * 25 →
    tget s.rvs (rkey 0x1B0 0x108) = none →
    (profF s 0x120 2 1500 < pp → s.gong.ripHigh = 2 → ripK s < 4 → ∃ t, exec .rippleWindow s = .next t ∧
      bits (tgetD t.regs (rkey 0x1B0 0x108) 0) 27 24 = ripK s + 1 ∧ t.gong.ripMin = none ∧
      tgetD (blk t 0x1B0).cnt 4 0 = satInc (tgetD (blk s 0x1B0).cnt 4 0)) ∧
    (profF s 0x120 2 1500 < pp → s.gong.ripHigh < 2 → ∃ t, exec .rippleWindow s = .next t ∧ t.gong.ripHigh = s.gong.ripHigh + 1 ∧
      t = { s with gong := t.gong }) ∧
    (pp * 100 < 80 * profF s 0x120 2 1500 → s.gong.ripLow = 9 → 0 < ripK s → ∃ t, exec .rippleWindow s = .next t ∧
      bits (tgetD t.regs (rkey 0x1B0 0x108) 0) 27 24 = ripK s - 1)) ∧
  (∀ (s : State) (n : Nat), gongState s = 0 → s.gong.past = true → s.gong.shedAt + 10 * Config.tMs ≤ now s →
    shedNext s 0 = some n →
    (s.gong.lowWin < 100 → exec .streamShed s = .next s) ∧
    (100 ≤ s.gong.lowWin → ∃ t, exec .streamShed s = .next t ∧ shedLevel t n = shedLevel s n + 1 ∧
      t.gong.order = n :: s.gong.order ∧ t.gong.shedAt = now s ∧ (∀ k, k ≠ n → shedLevel t k = shedLevel s k) ∧
      tgetD (blk t 0x1B0).cnt 6 0 = satInc (tgetD (blk s 0x1B0).cnt 6 0))) ∧
  (∀ (s : State) (n : Nat) (l : List Nat), gongState s = 0 → s.gong.shedAt + 100 * Config.tMs ≤ now s → s.gong.order = n :: l →
    (s.gong.highWin < 100 → exec .streamRestore s = .next s) ∧
    (100 ≤ s.gong.highWin → ∃ t, exec .streamRestore s = .next t ∧ shedLevel t n = shedLevel s n - 1 ∧ t.gong.order = l ∧
      t.gong.shedAt = now s ∧ (∀ k, k ≠ n → shedLevel t k = shedLevel s k))) ∧
  (∀ (s : State) (d : List Nat) (x c : Nat), ready s 0x1B0 = true → x = (d.take 12).foldl max 0 →
    tget s.rvs (rkey 0x1B0 0x108) = none →
    (x < 105 → ∃ t, exec (.thermalSample d c) s = .next t ∧ bits (tgetD t.regs (rkey 0x1B0 0x11C) 0) 31 24 = x ∧
      bits (tgetD t.regs (rkey 0x1B0 0x11C) 0) 7 0 = min c 255 ∧ t.gong.limitMs = 0 ∧ t.mem = s.mem ∧
      (95 ≤ x → s.gong.hotMs = 9 → thermJ s < 12 → bits (tgetD t.regs (rkey 0x1B0 0x108) 0) 23 20 = thermJ s + 1 ∧
        tgetD (blk t 0x1B0).cnt 5 0 = satInc (tgetD (blk s 0x1B0).cnt 5 0))) ∧
    (105 ≤ x → 999 ≤ s.gong.limitMs → gongState s < 3 → heldIdle s = true → ∃ t, exec (.thermalSample d c) s = .next t ∧
      bits (tgetD t.regs (rkey 0x1B0 0x108) 0) 31 28 = 3 ∧ t.gong.stopCause = 4)) ∧
  (∀ (s : State) (m : Master) (n : Nat) (room : Bool), n < 72 → reaches s m 0x1B1 (0x200 + 4 * n) = true →
    (pdMaster s n = true → s.toc.oos = false → pdState s n = 0 → ready s 0x1B0 = true → (∀ q ∈ s.gong.pdQueue, q.1 ≠ n) →
      ∃ t, exec (.pdOn m n room) s = .next t ∧
        (gongState s = 0 → room = true → tgetD t.regs (rkey 0x1B1 (0x100 + 4 * n)) 0 = 0x13000000#32 ∧ t = { s with regs := t.regs }) ∧
        ((gongState s ≠ 0 ∨ room = false) → t.gong.pdQueue = s.gong.pdQueue ++ [(n, 3)] ∧
          tgetD (blk t 0x1B1).cnt 3 0 = satInc (tgetD (blk s 0x1B1).cnt 3 0))) ∧
    (pdMaster s n = true → pdOn s n = true → pdIdle s n = true → ∃ t, exec (.pdOff m n) s = .next t ∧
      tgetD t.regs (rkey 0x1B1 (0x100 + 4 * n)) 0 = 0x03000000#32 ∧
      (n < 48 → ∀ o, o < 0x400000 → memRd t.mem (scratchAddr n o) = 0)) ∧
    (pdMaster s n = false → ∃ t u, exec (.pdOn m n room) s = .next t ∧ exec (.pdOff m n) s = .next u ∧ t.gong = s.gong ∧
      u.gong = s.gong ∧ tgetD (blk t 0x1B1).cnt 2 0 = satInc (tgetD (blk s 0x1B1).cnt 2 0) ∧
      tgetD (blk u 0x1B1).cnt 2 0 = satInc (tgetD (blk s 0x1B1).cnt 2 0))) ∧
  (∀ (s : State) (n : Nat), n < 72 →
    (pdState s n = 1 → ∃ t, exec (.pdSwitchOnComplete n) s = .next t ∧
      bits (tgetD t.regs (rkey 0x1B1 (0x100 + 4 * n)) 0) 31 28 = 2 ∧ (n = 60 → t.pcie.link = 1) ∧ t.mem = s.mem) ∧
    (pdState s n ≠ 1 → exec (.pdSwitchOnComplete n) s = .next s))

/-- NOC_TIMEOUT of a live context faults it with 0x14, changes no other context, and a second one against a decoder or
encoder inside 1 ms resets that unit. FW_ASSERT on a stream or set logs 0x15, ends the set; on a batch or a running
job faults its context; without a subject, and FW_HEARTBEAT_TIMEOUT, make a warm chip reset with RESET_CAUSE 4.
UNIT_RESET with its self-test passed leaves the unit in RUN, otherwise the level stays in progress; both count in CNT2
of page 0x1A0. RESET_LEVEL_EXPIRY does nothing before the level's bound; then level 2 resets the unit's partition,
level 3 the chip, and level 4 asks for a power cycle, or with FLEET_EN enters out of service. TOC_OOS_CMD.ENTER
reports and enters; RETURN and RETURN_TO_SERVICE leave with RESET_CAUSE 3 and 5. TB_UTIMER_EXPIRY at its compare value
counts and clears EN, and not before. (R492, R493, R500, R501, R502, R506, R507, R508, R509) -/
def Obligations.RecoveryLadder : Prop :=
(∀ (s : State) (n lc page : Nat) (ok : Bool),
    ((ctx s n).st.live = false → exec (.nocTimeout n lc page ok) s = .next s) ∧
    ((ctx s n).st.live = true → (ctx s n).st ≠ .teardown → inReset s n = false →
      (tget s.toc.nocLast page = none → ∃ t, exec (.nocTimeout n lc page ok) s = .next t ∧ Faulted t n 0x14 ∧
        tget t.toc.nocLast page = some (now s) ∧ (∀ k, k ≠ n → ctx t k = ctx s k) ∧ t.mem = s.mem ∧ t.life = s.life) ∧
      (∀ a, tget s.toc.nocLast page = some a → now s < a + Config.tMs → inR page 0x100 0x121 = true → unitResets s page = true →
        ∃ t, exec (.nocTimeout n lc page true) s = .next t ∧ (blk t page).st = .run ∧
          tgetD (blk t 0x1A0).cnt 2 0 = satInc (tgetD (blk s 0x1A0).cnt 2 0)))) ∧
  (∀ (s : State) (page k : Nat),
    ((stm s k).st = 0 → exec (.fwAssert (.stm k) page) s = .next s) ∧
    ((stm s k).st ≠ 0 → ∃ t, exec (.fwAssert (.stm k) page) s = .next t ∧ t.stms = s.stms ∧ t.mem = s.mem ∧
      (tgetD t.toc.log ((getR s 0x1A0 0x100).toNat % 1024) []).take 2 = [0, 0x15]) ∧
    ((trkSet s k).on = true → ∃ t, exec (.fwAssert (.set k) page) s = .next t ∧ (trkSet t k).on = false) ∧
    ((batch s k).st = 0 → exec (.fwAssert (.batch k) page) s = .next s) ∧
    ((batch s k).st ≠ 0 → ∃ t, exec (.fwAssert (.batch k) page) s = .next t ∧ (batch t k).st = 5 ∧
      (∀ j, j ≠ k → batch t j = batch s j)) ∧
    ((ajob s k).st ≠ 0 → (ajob s k).run = true → (ctx s (ajob s k).ctx).st.live = true →
      (ctx s (ajob s k).ctx).st ≠ .teardown → inReset s (ajob s k).ctx = false →
      ∃ t, exec (.fwAssert (.job k) page) s = .next t ∧ Faulted t (ajob s k).ctx 0x15 ∧ t.mem = s.mem) ∧
    (warmFree s = true → ∃ t, exec (.fwAssert .none page) s = .next t ∧ t.life.phase = .waitB ∧
      tgetD t.regs (rkey 0x004 0x100) 0 = 0x104#32 ∧ t.ctxs = [] ∧ t.tb = s.tb)) ∧
  (∀ s : State, warmFree s = true →
    (s.life.phase ≠ .up → exec .fwHeartbeatTimeout s = .next s) ∧
    (s.life.phase = .up → ∃ t, exec .fwHeartbeatTimeout s = .next t ∧ t.life.phase = .waitB ∧
      tgetD t.regs (rkey 0x004 0x100) 0 = 0x104#32 ∧ t.life.profile = s.life.profile ∧ t.tb = s.tb)) ∧
  (∀ (s : State) (page cause : Nat), (isEngine page || inR page 0x100 0x121 || inR page 0x128 0x12B) = true →
    unitResets s page = true → heldIdle s = true →
    ∃ t u, exec (.unitReset page cause true) s = .next t ∧ exec (.unitReset page cause false) s = .next u ∧
      (blk t page).st = .run ∧ tgetD (blk t 0x1A0).cnt 2 0 = satInc (tgetD (blk s 0x1A0).cnt 2 0) ∧ t.life = s.life ∧
      (blk u page).st = .selftest ∧ bit (blk u 0x1A0).status 9 = true ∧
      u.toc.rsts = { level := 2, page := page, parts := 0, start := now s, wasReady := if ready s page then [page] else [] } ::
        s.toc.rsts) ∧
  (∀ (s : State) (k : Nat) (r : Rst), s.toc.rsts[k]? = some r →
    (now s < r.start + levelBound r.level → exec (.resetLevelExpiry k) s = .next s) ∧
    (r.start + levelBound r.level ≤ now s →
      (∀ q, r.level = 2 → pagePart r.page = some q → q < 4 → s.toc.oos = false → lowEvent s = false →
        (recentTimes s (tgetD s.toc.hist3 q []) (60 * Config.tSec)).length < 2 →
        ∃ t, exec (.resetLevelExpiry k) s = .next t ∧
          ∀ c o, c < 48 → c / 12 = q → o < 0x400000 → memRd t.mem (scratchAddr c o) = 0) ∧
      (r.level = 3 → warmFree s = true → ∃ t, exec (.resetLevelExpiry k) s = .next t ∧ t.life.phase = .waitB ∧
        tgetD t.regs (rkey 0x004 0x100) 0 = 0x104#32) ∧
      (r.level = 4 → (fleetEn s = false → ∃ t l, exec (.resetLevelExpiry k) s = .next t ∧ t.out = .mctp 1 0 :: l ∧
          t.ctxs = s.ctxs ∧ t.mem = s.mem) ∧
        (fleetEn s = true → s.toc.oos = false → ∃ t, exec (.resetLevelExpiry k) s = .next t ∧ t.toc.oos = true)))) ∧
  (∀ (s : State) (m : Master), reaches s m 0x1A0 0x120 = true →
    (s.toc.oos = true → exec (.tocOosEnter m) s = .next s ∧ ∃ t, exec (.tocOosReturn m) s = .next t ∧ t.toc.oos = false ∧
      t.toc.fleet = [] ∧ t.life.phase = .waitB ∧ tgetD t.regs (rkey 0x004 0x100) 0 = 0x103#32) ∧
    (s.toc.oos = false → exec (.tocOosReturn m) s = .next s ∧ ∃ t l, exec (.tocOosEnter m) s = .next t ∧ t.toc.oos = true ∧
      t.out = .mctp 2 0 :: l)) ∧
  (∀ s : State,
    ((s.life.mgtReady = false ∨ s.toc.oos = false) → exec .returnToService s = .next s) ∧
    (s.life.mgtReady = true → s.toc.oos = true → ∃ t, exec .returnToService s = .next t ∧ t.toc.oos = false ∧ t.toc.fleet = [] ∧
      t.life.phase = .waitB ∧ tgetD t.regs (rkey 0x004 0x100) 0 = 0x105#32)) ∧
  (∀ (s : State) (k : Nat), k < 6 → tbRuns s = true → bit (getR s 0x1F0 (0x208 + 16 * k)) 31 = true →
    (now s < getR64 s 0x1F0 (0x200 + 16 * k) → exec (.tbUtimerExpiry k) s = .next s) ∧
    (getR64 s 0x1F0 (0x200 + 16 * k) ≤ now s → ∃ t, exec (.tbUtimerExpiry k) s = .next t ∧ getR t 0x1F0 (0x208 + 16 * k) = 0 ∧
      tgetD (blk t 0x1F0).cnt (2 + k) 0 = satInc (tgetD (blk s 0x1F0).cnt (2 + k) 0) ∧ t.tb = s.tb ∧ t.mem = s.mem))

/-- With the timebase running, PPS_IN_EDGE stores the timebase value in PPS_CAP, its low word at offset 0x130 and its high
word at 0x134 of page 0x1F0, adds one to that page's BLK_EVT_CNT0, and leaves the timebase, with its frequency
correction, memory, contexts and streams as they are. (R557) -/
def Obligations.PpsCapture : Prop :=
(∀ s : State, tbRuns s = true →
    ∃ t, exec .ppsInEdge s = .next t ∧ tgetD t.regs (rkey 0x1F0 0x130) 0 = word (now s) ∧
      tgetD t.regs (rkey 0x1F0 0x134) 0 = word (now s / 2 ^ 32) ∧
      tgetD (blk t 0x1F0).cnt 0 0 = satInc (tgetD (blk s 0x1F0).cnt 0 0) ∧ t.tb = s.tb ∧ t.mem = s.mem ∧ t.ctxs = s.ctxs ∧
      t.stms = s.stms ∧ t.pcieMem = s.pcieMem ∧ t.pending = s.pending ∧ t.life = s.life)

/-- For every master that may write it, TB_SYNC_CFG_WRITE with a strobe frequency in 1 to 120: with PPS_REQ 1 the owner is
PPS; with both requests at 1, whichever of the two was set before, STROBE_REQ is stored as 0 and page 0x1F0
BLK_EVT_CNT1 goes up by one, and otherwise no counter changes; with STROBE_REQ alone the owner is the strobe; with
neither the pin has none. SYNC_IO_EDGE with PPS as the owner raises the pin for 100 ms when a second of the timebase
begins that was not produced yet, and at no other time. The rule's last sentence names where the timing stands (R556).
(R510) -/
def Obligations.SyncPinOwner : Prop :=
(∀ (s : State) (m : Master) (v : Word), reaches s m 0x1F0 0x120 = true → inR (bits v 15 8) 1 120 = true →
    ∃ t, exec (.tbSyncCfgWrite m v) s = .next t ∧ t.tb.t = s.tb.t ∧ t.mem = s.mem ∧ t.life = s.life ∧
      (bit v 0 = true → syncOwner t = 1 ∧ bit (getR t 0x1F0 0x120) 0 = true) ∧
      (bit v 0 = true → bit v 1 = true → bit (getR t 0x1F0 0x120) 1 = false ∧
        tgetD (blk t 0x1F0).cnt 1 0 = satInc (tgetD (blk s 0x1F0).cnt 1 0)) ∧
      ((bit v 0 = false ∨ bit v 1 = false) → (blk t 0x1F0).cnt = (blk s 0x1F0).cnt) ∧
      (bit v 0 = false → bit v 1 = true → syncOwner t = 2 ∧ bit (getR t 0x1F0 0x120) 1 = true ∧
        bits (getR t 0x1F0 0x120) 15 8 = bits v 15 8) ∧
      (bit v 0 = false → bit v 1 = false → syncOwner t = 0)) ∧
  (∀ s : State, tbRuns s = true → syncOwner s = 1 →
    (now s % Config.tSec ≠ 0 → exec .syncIoEdge s = .next s) ∧
    (now s % Config.tSec = 0 → (∀ l, s.tb.lastEdge = some l → l < now s) → ∃ t, exec .syncIoEdge s = .next t ∧
      syncIo t = 2 ∧ t.tb.lastEdge = some (now s) ∧ t.tb.pulseEnd = now s + 100 * Config.tMs ∧ t = { s with tb := t.tb }) ∧
    (s.tb.lastEdge = some (now s) → exec .syncIoEdge s = .next s))

/-- With the update port taking the command: UPD_STAGE in IDLE of an aligned readable range copies it and answers PENDING
in VERIFYING; otherwise BUSY, or ILLEGAL_FIELD for a misaligned address. BUNDLE_VERIFY_DONE leaves a valid bundle
STAGED with DONE and an invalid one IDLE with its refusal's code; a fit, signed firmware image whose SVN is below the
counter is refused with ROLLBACK. UPD_ACTIVATE of a staged image goes to PENDING at once where no component differs
and to ACTIVATING otherwise; in any other state, or for an owner bundle, BUSY. COMPONENT_ACTIVATE waits while STATE is
not 0, runs the new component or on a failed check answers ACTIVATE_FAILED and stays STAGED. UPD_COMMIT answers
WRITE_PROTECT with FLASH_WP_N low. UPD_COMMIT_DONE writes the image and raises the counter, or leaves the image
invalid with result FLASH. UPD_ABANDON drops the bundle. UPD_READ shows the header and changes no security state.
(R515, R522, R523, R524, R525, R526, R527, R528, R529, R530, R531, R534) -/
def Obligations.UpdateEngine : Prop :=
(∀ (s : State) (m : Master) (tag idx a len : Nat), portTakes s .upd m 1 idx = true → a = leAt (staged s .upd) 0 8 →
    len = leAt (staged s .upd) 8 4 → ∃ t, exec (.updStage m tag idx) s = .next t ∧
      (s.sec.st ≠ .idle → resultAt t .upd tag = resultWord 0xC 0 ∧ t.sec = s.sec) ∧
      (s.sec.st = .idle → a % 64 ≠ 0 → resultAt t .upd tag = resultWord 2 0 ∧ t.sec = s.sec) ∧
      (s.sec.st = .idle → a % 64 = 0 → 1 ≤ len → len ≤ 0x800000 → (unitRead s a len).2.2 = true →
        resultAt t .upd tag = resultWord 0xF 0 ∧ t.sec.st = .verifying ∧ t.sec.copy = (unitRead s a len).2.1 ∧
        t.sec.image = s.sec.image ∧ t.sec.running = s.sec.running)) ∧
  (∀ (s : State) (f : SigFact) (tag : Nat) (b : Bundle), b = parseBundle s.sec.copy f →
    (s.sec.st ≠ .verifying → exec (.bundleVerifyDone f) s = .next s) ∧
    (s.sec.st = .verifying → s.sec.cur = some tag → ∃ t, exec (.bundleVerifyDone f) s = .next t ∧
      ((stageCode s b).1 = 0 → t.sec.st = .staged ∧ t.sec.staged = some b ∧ resultAt t .upd tag = resultWord 1 0 ∧
        tgetD (blk t 0x002).cnt 3 0 = satInc (tgetD (blk s 0x002).cnt 3 0)) ∧
      ((stageCode s b).1 ≠ 0 → t.sec.st = .idle ∧ t.sec.staged = none ∧
        resultAt t .upd tag = resultWord (stageCode s b).1 (stageCode s b).2) ∧
      (b.fieldsOk = false → resultAt t .upd tag = resultWord 2 0) ∧
      (b.fieldsOk = true → b.kind = 0 → bundleSigned b Config.olinanKey.toNat = true → compsDistinct b.comps = true →
        wholeImage b = true → partFits s b = true → b.svn < secCtr s 0 → resultAt t .upd tag = resultWord 6 0))) ∧
  (∀ (s : State) (m : Master) (tag idx : Nat), portTakes s .upd m 2 idx = true → ∃ t, exec (.updActivate m tag idx) s = .next t ∧
    (s.sec.st ≠ .staged → resultAt t .upd tag = resultWord 0xC 0 ∧ t.sec = s.sec) ∧
    (∀ b, s.sec.st = .staged → s.sec.staged = some b →
      (b.kind ≠ 0 → resultAt t .upd tag = resultWord 0xC 0 ∧ t.sec = s.sec) ∧
      (b.kind = 0 → s.sec.thenCommit = false → toActivate s b (leAt (staged s .upd) 0 4) = [] →
        t.sec.st = .pending ∧ resultAt t .upd tag = resultWord 1 0) ∧
      (b.kind = 0 → toActivate s b (leAt (staged s .upd) 0 4) ≠ [] → t.sec.st = .activating ∧
        t.sec.todo = toActivate s b (leAt (staged s .upd) 0 4) ∧ resultAt t .upd tag = resultWord 0xF 0))) ∧
  (∀ (s : State) (tag ty : Nat) (b : Bundle) (c : Comp), s.sec.st = .activating → s.sec.reload = false → s.sec.todo = [ty] →
    s.sec.cur = some tag → s.sec.staged = some b → compOfTy b.comps ty = some c → s.sec.thenCommit = false →
    (gongState s ≠ 0 → exec (.componentActivate true) s = .next s) ∧
    (gongState s = 0 → s.sec.active = 0 → urgentActive s = true → exec (.componentActivate true) s = .next s) ∧
    (gongState s = 0 → urgentActive s = false → ∃ t u, exec (.componentActivate true) s = .next t ∧
      exec (.componentActivate false) s = .next u ∧ t.sec.st = .pending ∧ tget t.sec.running ty = some c ∧
      t.sec.active = s.sec.active ||| 2 ^ ty ∧ resultAt t .upd tag = resultWord 1 0 ∧
      tgetD (blk t 0x002).cnt 5 0 = satInc (tgetD (blk s 0x002).cnt 5 0) ∧
      u.sec.st = .staged ∧ u.sec.running = s.sec.running ∧ resultAt u .upd tag = resultWord 5 ty)) ∧
  (∀ (s : State) (m : Master) (tag idx : Nat), portTakes s .upd m 3 idx = true → ∃ t, exec (.updCommit m tag idx) s = .next t ∧
    ((s.sec.st = .idle ∨ s.sec.st = .verifying ∨ s.sec.st = .activating ∨ s.sec.st = .committing) →
      resultAt t .upd tag = resultWord 0xC 0 ∧ t.sec = s.sec) ∧
    ((s.sec.st = .staged ∨ s.sec.st = .pending) →
      (s.sec.wpLow = true → resultAt t .upd tag = resultWord 8 0 ∧ t.sec = s.sec) ∧
      (s.sec.wpLow = false → resultAt t .upd tag = resultWord 0xF 0 ∧ t.sec.st = .committing ∧ t.sec.image = s.sec.image))) ∧
  (∀ (s : State) (tag : Nat) (b : Bundle), s.sec.st = .committing → s.sec.staged = some b → s.sec.cur = some tag →
    (gongState s ≠ 0 → exec (.updCommitDone true) s = .next s) ∧
    (gongState s = 0 → ∃ t u, exec (.updCommitDone true) s = .next t ∧ exec (.updCommitDone false) s = .next u ∧
      t.sec.st = .idle ∧ t.sec.staged = none ∧ resultAt t .upd tag = resultWord 1 0 ∧
      tgetD (blk t 0x002).cnt 6 0 = satInc (tgetD (blk s 0x002).cnt 6 0) ∧ u.sec.st = .idle ∧
      resultAt u .upd tag = resultWord 9 0 ∧ tgetD (blk u 0x002).cnt 7 0 = satInc (tgetD (blk s 0x002).cnt 7 0) ∧
      (b.kind = 0 → t.sec.image = some b ∧ t.sec.ctrs = tset s.sec.ctrs 0 (max (tgetD s.sec.ctrs 0 0) b.svn) ∧
        u.sec.image = none ∧ u.sec.imageInvalid = true ∧ u.sec.ctrs = s.sec.ctrs ∧ u.sec.running = s.sec.running) ∧
      (∀ c, b.kind = 1 → b.comps = [c] → c.ty = 6 → (tget t.sec.profs c.index).map (fun p => p.bytes) = some (c.payload.take 0x500) ∧
        tgetD t.sec.ctrs (1 + c.index) 0 = max (tgetD s.sec.ctrs (1 + c.index) 0) (leAt c.payload 8 4) ∧
        tget u.sec.profs c.index = none ∧ t.sec.image = s.sec.image))) ∧
  (∀ (s : State) (m : Master) (tag idx : Nat), portTakes s .upd m 4 idx = true → ∃ t, exec (.updAbandon m tag idx) s = .next t ∧
    ((s.sec.st = .idle ∨ s.sec.st = .verifying ∨ s.sec.st = .activating ∨ s.sec.st = .committing) →
      resultAt t .upd tag = resultWord 0xC 0 ∧ t.sec = s.sec) ∧
    ((s.sec.st = .staged ∨ s.sec.st = .pending) →
      (s.sec.active = 0 → resultAt t .upd tag = resultWord 1 0 ∧ t.sec.st = .idle ∧ t.sec.staged = none) ∧
      (s.sec.active.testBit 2 = true → resultAt t .upd tag = resultWord 0xF 0 ∧ t.sec.st = .activating ∧ t.sec.reload = true))) ∧
  (∀ (s : State) (m : Master) (tag idx : Nat) (b : Bundle), portTakes s .upd m 5 idx = true → s.sec.staged = some b →
    ∃ t, exec (.updRead m tag idx) s = .next t ∧ resultAt t .upd tag = resultWord 1 0 ∧ t.sec = s.sec ∧
      ∀ k, k < 32 → tgetD t.regs (rkey 0x002 (0x600 + 4 * k)) 0 = word (leAt (fitBytes 128 b.header) (4 * k) 4))

/-- On a path that is open, with no response of the other path being signed: GET_VERSION answers 1.2 and starts the
sequence, GET_CAPABILITIES and NEGOTIATE_ALGORITHMS answer in their place in it and are refused as unexpected before
it. Once algorithms are negotiated and the alias certificate is signed, GET_DIGESTS, GET_CERTIFICATE of slot 0,
CHALLENGE with its nonce and signature, and GET_MEASUREMENTS are answered; index 9 holds counters 0 to 4 raw, and
indices 2 to 6 the digest of the component that runs. On a path that is not open every request changes nothing, and
while the other path's response is being signed each answers ResponseNotReady. ALIAS_CERT_SIGNED makes the certificate
available. The numeric codes of the messages and the block layout are DSP0274's (log 46), not the spec's. (R518, R519,
R520) -/
def Obligations.Attestation : Prop :=
(∀ s : State,
    (s.life.secReady = true → s.life.mgtReady = true → ∃ t, exec .aliasCertSigned s = .next t ∧ t.sec.aliasOk = true ∧
      t = { s with sec := t.sec }) ∧
    ((s.life.secReady = false ∨ s.life.mgtReady = false) → exec .aliasCertSigned s = .next s)) ∧
  (∀ (s : State) (p : Nat), spdmOpen s p = false →
    exec (.spdmGetVersion p false) s = .next s ∧ exec (.spdmGetMeasurements p false 1 true []) s = .next s ∧
    exec (.spdmChallenge p false 0 [] []) s = .next s) ∧
  (∀ (s : State) (p slot : Nat) (nonce sig : List Byte), spdmOpen s p = true →
    exec (.spdmChallenge p true slot nonce sig) s = .next { s with out := .spdm p 0x7F [0x42] :: s.out } ∧
    exec (.spdmGetDigests p true) s = .next { s with out := .spdm p 0x7F [0x42] :: s.out }) ∧
  (∀ (s : State) (p : Nat), spdmOpen s p = true →
    (∃ t, exec (.spdmGetVersion p false) s = .next t ∧ t.out = .spdm p 0x04 [0x12] :: s.out ∧ tget t.sec.spdmNeg p = some 1 ∧
      t = { s with sec := t.sec, out := t.out }) ∧
    (1 ≤ tgetD s.sec.spdmNeg p 0 → ∃ t, exec (.spdmGetCapabilities p false) s = .next t ∧ t.out = .spdm p 0x61 [] :: s.out ∧
      2 ≤ tgetD t.sec.spdmNeg p 0) ∧
    (2 ≤ tgetD s.sec.spdmNeg p 0 → ∃ t, exec (.spdmNegotiateAlgorithms p false true) s = .next t ∧
      t.out = .spdm p 0x63 [] :: s.out ∧ tget t.sec.spdmNeg p = some 3) ∧
    (tgetD s.sec.spdmNeg p 0 = 0 → exec (.spdmGetCapabilities p false) s = .next { s with out := .spdm p 0x7F [4] :: s.out } ∧
      exec (.spdmNegotiateAlgorithms p false true) s = .next { s with out := .spdm p 0x7F [4] :: s.out })) ∧
  (∀ (s : State) (p : Nat) (nonce sig chain : List Byte) (ofs len : Nat), spdmOpen s p = true → s.sec.aliasOk = true →
    tgetD s.sec.spdmNeg p 0 = 3 →
    exec (.spdmGetDigests p false) s = .next { s with out := .spdm p 0x01 [1] :: s.out } ∧
    exec (.spdmChallenge p false 0 nonce sig) s = .next { s with out := .spdm p 0x03 (nonce ++ sig) :: s.out } ∧
    (ofs < chain.length → exec (.spdmGetCertificate p false 0 ofs len chain) s =
      .next { s with out := .spdm p 0x02 ((chain.drop ofs).take len) :: s.out }) ∧
    exec (.spdmGetCertificate p false 1 ofs len chain) s = .next { s with out := .spdm p 0x7F [1] :: s.out } ∧
    exec (.spdmGetMeasurements p false 0 false sig) s = .next { s with out := .spdm p 0x60 [10] :: s.out } ∧
    exec (.spdmGetMeasurements p false 9 true sig) s = .next { s with out := .spdm p 0x60 ([9, 1, 23, 0, 0x89, 20, 0] ++
      [0, 1, 2, 3, 4].flatMap (fun k => leBytes 4 (secCtr s k)) ++ sig) :: s.out } ∧
    (∀ i c, 2 ≤ i → i ≤ 6 → tget s.sec.running (i - 1) = some c →
      exec (.spdmGetMeasurements p false i true sig) s = .next { s with out := .spdm p 0x60 ([BitVec.ofNat 8 i, 1, 67, 0,
        BitVec.ofNat 8 i, 64, 0] ++ leBytes 64 c.digest ++ sig) :: s.out }))

/-- With the management block ready: PLDM_SENSOR_READ answers VIN, IIN, input power, the hottest die, GDDR6 and converter
temperatures, GONG_STATE.STATE and out of service, and changes nothing else. PLDM_FIRMWARE_TRANSFER in IDLE takes the
delivered bytes into VERIFYING. PLDM_ACTIVATE_FIRMWARE of a staged owner bundle begins the commit, of a staged image
with nothing to activate as well, and of one with differing components activates them first; with FLASH_WP_N low it
changes no security state. RECOVERY_BUNDLE acts only while the responder runs: a valid firmware image is written, its
counter raised and a power-on reset with RESET_CAUSE 1 boots it; with FLASH_WP_N low, or where the bundle is not
valid, the flash image and the recovery state stay. (R515, R516, R521, R526, R533) -/
def Obligations.ManagementAndRecovery : Prop :=
(∀ (s : State) (k : Nat),
    (s.life.mgtReady = false → exec (.pldmSensorRead k) s = .next s) ∧
    (s.life.mgtReady = true → k < 8 → ∃ t v, exec (.pldmSensorRead k) s = .next t ∧ t.out = .spdm 0x102 0 (leBytes 4 v) :: s.out ∧
      t = { s with out := t.out } ∧ (k = 0 → v = bits (getR s 0x1B0 0x100) 11 0) ∧ (k = 1 → v = bits (getR s 0x1B0 0x100) 27 16) ∧
      (k = 2 → v = bits (getR s 0x1B0 0x104) 15 0) ∧ (k = 3 → v = bits (getR s 0x1B0 0x11C) 31 24) ∧
      (k = 4 → v = bits (getR s 0x1B0 0x11C) 15 8) ∧ (k = 5 → v = bits (getR s 0x1B0 0x11C) 7 0) ∧ (k = 6 → v = gongState s) ∧
      (k = 7 → v = if s.toc.oos then 1 else 0))) ∧
  (∀ (s : State) (d : List Byte), s.life.mgtReady = true → s.life.secReady = true → stopping s = false →
    (s.sec.st = .idle → ∃ t, exec (.pldmFirmwareTransfer d) s = .next t ∧ t.sec.st = .verifying ∧ t.sec.copy = d ∧
      t.sec.cur = none ∧ t.sec.image = s.sec.image ∧ t.mem = s.mem) ∧
    (s.sec.st ≠ .idle → ∃ t, exec (.pldmFirmwareTransfer d) s = .next t ∧ t = { s with out := t.out })) ∧
  (∀ (s : State) (b : Bundle), s.life.mgtReady = true → stopping s = false → s.sec.st = .staged → s.sec.staged = some b →
    ∃ t, exec .pldmActivateFirmware s = .next t ∧ t.mem = s.mem ∧
      (s.sec.wpLow = true → t.sec = s.sec) ∧
      (s.sec.wpLow = false → b.kind ≠ 0 → t.sec.st = .committing) ∧
      (s.sec.wpLow = false → b.kind = 0 → toActivate s b 0x3E = [] → t.sec.st = .committing) ∧
      (s.sec.wpLow = false → b.kind = 0 → toActivate s b 0x3E ≠ [] → t.sec.st = .activating ∧ t.sec.thenCommit = true ∧
        t.sec.todo = toActivate s b 0x3E)) ∧
  (∀ (s : State) (d : List Byte) (f : SigFact) (ok : Bool) (x : BootFact) (b : Bundle), b = parseBundle d f →
    (s.life.recovery = false → exec (.recoveryBundle d f ok x) s = .next s) ∧
    (s.life.recovery = true → s.life.mgtReady = true →
      ((b.kind ≠ 0 ∨ (stageCode s b).1 ≠ 0 ∨ s.sec.wpLow = true) → ∃ t, exec (.recoveryBundle d f ok x) s = .next t ∧
        t = { s with out := t.out }) ∧
      (b.kind = 0 → stageCode s b = (0, 0) → s.sec.wpLow = false → ok = true → s.sec.st = .idle → s.sec.ctrRefused = false →
        ∃ t, exec (.recoveryBundle d f ok x) s = .next t ∧ t.sec.image = some b ∧ t.life.phase = .waitPerst ∧
          tgetD t.regs (rkey 0x004 0x100) 0 = 1 ∧ tget t.sec.ctrs 0 = some (max (tgetD s.sec.ctrs 0 0) b.svn) ∧
          (x.pufOk = true → x.ctrRefused = false → t.life.secReady = true ∧ t.life.recovery = false ∧ t.sec.booted = some b))))

/-- A write of PEAL_CFG that would set EN without the inbox and landing slots is dropped; any other is stored.
PEAL_HEARTBEAT writes the timebase value into this module's HB word at the one peer in use, and no other byte of host
memory; with Peal off it does nothing. PEER_HB_CHANGE of a peer in use whose word changed keeps the new value and its
time: a peer in SILENT or GONE goes DOWN, one that is UP stays UP, and a DOWN one is sent HELLO once.
PEER_SILENT_TIMEOUT makes a peer that is UP SILENT after 10 ms without a change, and not before. PEER_MESSAGE_RECEIVE
of one GOODBYE consumes it, keeps its cause and makes an UP peer GONE; of a HELLO from a valid module after this
module's own it makes the peer UP; with no new message it does nothing. (R538, R539, R540, R545) -/
def Obligations.PeersAndMessages : Prop :=
(∀ (s : State) (m : Master) (v : Word), reaches s m 0x1E0 0x100 = true →
    (bit v 31 = true → pealReady s v = false → exec (.pealCfgWrite m v) s = .next s) ∧
    (bit v 31 = true → pealReady s v = true → ∃ t, exec (.pealCfgWrite m v) s = .next t ∧
      getR t 0x1E0 0x100 = v &&& 0x8000003F#32 ∧ t = { s with rvs := t.rvs }) ∧
    (bit v 31 = false → ∃ t, exec (.pealCfgWrite m v) s = .next t ∧ getR t 0x1E0 0x100 = v &&& 0x8000003F#32 ∧
      pealEn t = false ∧ t.mem = s.mem)) ∧
  (∀ s : State,
    ((ready s 0x1E0 = false ∨ pealEn s = false) → exec .pealHeartbeat s = .next s) ∧
    (∀ k a, peerEn s k = true → (∀ j, j < 16 → j ≠ k → peerEn s j = false) → s.peal.migQ = [] → (peer s k).waitQ = [] →
      s.pcie.frozen = false → s.pcie.dstate = 0 → s.pcie.turnOff = false →
      a = peerAddr s k (inboxWin + 0x10800 + 64 * s.life.modId) →
      ∃ t, exec .pealHeartbeat s = .next t ∧ memRdL t.pcieMem a 8 = leBytes 8 (now s) ∧ t.mem = s.mem ∧ t.peal = s.peal ∧
        ∀ x, (x < a ∨ a + 8 ≤ x) → memRd t.pcieMem x = memRd s.pcieMem x)) ∧
  (∀ (s : State) (p hb : Nat), hb = rdLe s (inbox s + 0x10800 + 64 * p) 8 →
    ((peerEn s p = false ∨ hb = (peer s p).hb) → exec (.peerHbChange p) s = .next s) ∧
    (peerEn s p = true → hb ≠ (peer s p).hb → ∃ t, exec (.peerHbChange p) s = .next t ∧ (peer t p).hb = hb ∧
      (peer t p).hbAt = now s ∧ t.mem = s.mem ∧
      ((peer s p).st = 1 → (peer t p).st = 1) ∧ (((peer s p).st = 2 ∨ (peer s p).st = 3) → (peer t p).st = 0) ∧
      ((peer s p).st = 0 → (peer s p).sent = false → (peer s p).waitQ = [] → peerLag s p < 64 →
        (peer t p).sent = true ∧ (peer t p).prod = ((peer s p).prod + 1) % 2 ^ 32 ∧
        tgetD (blk t 0x1E0).cnt 0 0 = satInc (tgetD (blk s 0x1E0).cnt 0 0)) ∧
      ((peer s p).st = 0 → (peer s p).sent = true → (peer t p).prod = (peer s p).prod))) ∧
  (∀ (s : State) (p : Nat), ready s 0x1E0 = true → (peer s p).st = 1 →
    (now s < (peer s p).hbAt + 10 * Config.tMs → exec (.peerSilentTimeout p) s = .next s) ∧
    ((peer s p).hbAt + 10 * Config.tMs ≤ now s → ∃ t, exec (.peerSilentTimeout p) s = .next t ∧ (peer t p).st = 2)) ∧
  (∀ (s : State) (p n : Nat) (g : List Byte), peerEn s p = true → (peer s p).waitQ = [] →
    n = (rdLe s (inbox s + 0x10000 + 64 * p) 4 + 2 ^ 32 - (peer s p).taken) % 2 ^ 32 →
    g = rdMem s (inbox s + 0x1000 * p + 64 * ((peer s p).taken % 64)) 64 → s.peal.migOut = none → s.peal.migIn = none →
    s.peal.handoff = none →
    (n = 0 → exec (.peerMessageReceive p) s = .next s) ∧
    (n = 1 → byteAt g 0 = 2 → (peer s p).st = 1 → ∃ t, exec (.peerMessageReceive p) s = .next t ∧ (peer t p).st = 3 ∧
      (peer t p).cause = byteAt g 8 % 16 ∧ (peer t p).taken = ((peer s p).taken + 1) % 2 ^ 32 ∧
      tgetD (blk t 0x1E0).cnt 1 0 = satInc (tgetD (blk s 0x1E0).cnt 1 0) ∧ t.mem = s.mem) ∧
    (n = 1 → byteAt g 0 = 1 → (peer s p).st = 0 → (peer s p).sent = true → byteAt g 1 ≠ s.life.modId →
      leAt (g.drop 8) 8 4 / 65536 = 0x0960 → ∃ t, exec (.peerMessageReceive p) s = .next t ∧ (peer t p).st = 1 ∧
      (peer t p).hbAt = now s ∧ t.mem = s.mem))

/-- With the Peal port taking the command and a legal module number other than the own: EXPECT of an open stream keeps the
source it names and answers DONE, of a closed one it answers 5. MIGRATE of an open stream to a peer that is UP, with
no migration in progress, offers it and answers PENDING; to a peer that is not UP it answers ABORTED with reason 8 and
counts it; while another is in progress it waits. TRACK_SEND of a live track to a peer that is UP, with no handoff
outstanding, starts one, answers PENDING and counts it in CNT4; to a peer that is not UP it answers reason 8, and for
a track that is not live ILLEGAL_FIELD. CANCEL of the stream whose migration is on its way to the destination ends it
with reason 7 and unfreezes the stream; with nothing to cancel it answers 5. MIGRATION_PUSH_COMPLETE of a frozen
stream with no frame in decode or update, outside a low event, sends STATE_DONE; before that it does nothing. (R541,
R543, R544, R545) -/
def Obligations.MigrationAndHandoff : Prop :=
(∀ (s : State) (m : Master) (tag n k : Nat), portTakes s .peal m 1 n = true → n < 1024 → k = byteAt (staged s .peal) 0 →
    ∃ t, exec (.expect m tag n) s = .next t ∧ t.mem = s.mem ∧ t.stms = s.stms ∧
      ((16 ≤ k ∨ k = s.life.modId) → resultAt t .peal tag = resultWord 2 0 ∧ t.peal = s.peal) ∧
      (k < 16 → k ≠ s.life.modId → (stm s n).st = 0 → resultAt t .peal tag = resultWord 5 0 ∧ t.peal = s.peal) ∧
      (k < 16 → k ≠ s.life.modId → (stm s n).st ≠ 0 → resultAt t .peal tag = resultWord 1 0 ∧
        t.peal = { s.peal with expect := tset s.peal.expect n (k, leAt (staged s .peal) 2 2) })) ∧
  (∀ (s : State) (m : Master) (tag n k d : Nat), portTakes s .peal m 2 n = true → n < 1024 → k = byteAt (staged s .peal) 0 →
    d = leAt (staged s .peal) 2 2 → k < 16 → k ≠ s.life.modId → d < 1024 →
    tget s.rvs (rkey 0x1E0 (0x800 + 4 * (tag % 256))) = none → ∃ t, exec (.migrate m tag n) s = .next t ∧
      ((stm s n).st = 0 → resultAt t .peal tag = resultWord 5 0 ∧ t.peal = s.peal) ∧
      ((stm s n).st ≠ 0 → s.peal.migOut.isSome = true → resultAt t .peal tag = resultWord 0xF 0 ∧
        t.peal = { s.peal with migQ := s.peal.migQ ++ [(n, k, d, tag)] }) ∧
      ((stm s n).st ≠ 0 → s.peal.migOut = none → s.peal.migQ = [] →
        ((peer s k).st ≠ 1 → resultAt t .peal tag = resultWord 0xC 8 ∧ t.peal = s.peal ∧
          tgetD (blk t 0x1E0).cnt 3 0 = satInc (tgetD (blk s 0x1E0).cnt 3 0)) ∧
        ((peer s k).st = 1 → resultAt t .peal tag = resultWord 0xF 0 ∧
          t.peal.migOut = some { stm := n, peer := k, dst := d, tag := tag } ∧ t.peal.migQ = [] ∧
          (peer t k).seq = ((peer s k).seq + 1) % 2 ^ 32))) ∧
  (∀ (s : State) (m : Master) (tag n k : Nat), portTakes s .peal m 3 n = true → n < 1024 → k = byteAt (staged s .peal) 0 →
    k < 16 → k ≠ s.life.modId → ∃ t, exec (.trackSend m tag n) s = .next t ∧ t.sets = s.sets ∧ t.mem = s.mem ∧
      ((trkSet s n).on = false → resultAt t .peal tag = resultWord 5 0 ∧ t.peal = s.peal) ∧
      ((trkSet s n).on = true → (liveTracks s n).all (fun x => x.id != leAt (staged s .peal) 4 4) = true →
        resultAt t .peal tag = resultWord 2 4 ∧ t.peal = s.peal) ∧
      ((trkSet s n).on = true → (liveTracks s n).any (fun x => x.id == leAt (staged s .peal) 4 4) = true →
        ((peer s k).st ≠ 1 → resultAt t .peal tag = resultWord 0xC 8 ∧ t.peal = s.peal) ∧
        ((peer s k).st = 1 → s.peal.handoff = none → resultAt t .peal tag = resultWord 0xF 0 ∧ t.peal.handoff = some (k, tag) ∧
          tgetD (blk t 0x1E0).cnt 4 0 = satInc (tgetD (blk s 0x1E0).cnt 4 0)))) ∧
  (∀ (s : State) (m : Master) (tag n : Nat), portTakes s .peal m 4 n = true → n < 1024 → s.peal.migIn = none → s.peal.migQ = [] →
    ∃ t, exec (.cancel m tag n) s = .next t ∧
      (s.peal.migOut = none → resultAt t .peal tag = resultWord 5 0 ∧ t.peal = s.peal) ∧
      (∀ g, s.peal.migOut = some g → g.stm = n → g.phase < 4 → t.peal.migOut = none ∧ resultAt t .peal tag = resultWord 1 0 ∧
        (g.tag % 256 ≠ tag % 256 → resultAt t .peal g.tag = resultWord 0xC 7) ∧ (stm t n).migHold = false ∧
        (stm t n).queue = (stm s n).queue)) ∧
  (∀ s : State,
    (s.peal.migOut = none → exec .migrationPushComplete s = .next s) ∧
    (∀ g, s.peal.migOut = some g →
      ((g.phase ≠ 1 ∨ (stm s g.stm).dec.isSome = true ∨ (trkSet s g.stm).busy.isSome = true ∨ trkDue s g.stm = true ∨
          gongState s ≠ 0) →
        exec .migrationPushComplete s = .next s) ∧
      (g.phase = 1 → (stm s g.stm).dec = none → (trkSet s g.stm).busy = none → trkDue s g.stm = false →
          gongState s = 0 → ready s 0x1E0 = true →
        ∃ t, exec .migrationPushComplete s = .next t ∧ t.peal.migOut = some { g with phase := 3 } ∧
          (peer t g.peer).seq = ((peer s g.peer).seq + 1) % 2 ^ 32 ∧ t.stms = s.stms)))
end

