-- ==== Sys2Proof/Laws/Tables.lean ====
section
/-!
SUPPORT. Laws/Tables.lean: sparse tables and byte memory: what a write changes, and that every memory operation keeps
the canonical form.
-/
namespace Sys2Proof

open Machine

/-! ### Tables -/

@[simp] theorem tget_nil {α : Type} (i : Nat) : tget ([] : Tbl α) i = none := rfl

@[simp] theorem tgetD_nil {α : Type} (i : Nat) (d : α) : tgetD ([] : Tbl α) i d = d := rfl

@[simp] theorem tget_tset {α : Type} (t : Tbl α) (i : Nat) (x : α) : tget (tset t i x) i = some x := by
  induction t with
  | nil => simp [tset, tget]
  | cons p t ih =>
    obtain ⟨k, v⟩ := p
    by_cases h1 : i < k
    · simp [tset, h1, tget]
    · by_cases h2 : k = i
      · simp [tset, h2, tget]
      · simp [tset, h1, h2, tget, ih]

theorem tget_tset_ne {α : Type} (t : Tbl α) {i j : Nat} (x : α) (h : i ≠ j) : tget (tset t i x) j = tget t j := by
  induction t with
  | nil => simp [tset, tget, h]
  | cons p t ih =>
    obtain ⟨k, v⟩ := p
    by_cases h1 : i < k
    · simp [tset, h1, tget, h]
    · by_cases h2 : k = i
      · subst h2
        simp [tset, tget, h]
      · simp [tset, h1, h2, tget, ih]

@[simp] theorem tgetD_tset {α : Type} (t : Tbl α) (i : Nat) (x d : α) : tgetD (tset t i x) i d = x := by simp [tgetD]

theorem tgetD_tset_ne {α : Type} (t : Tbl α) {i j : Nat} (x d : α) (h : i ≠ j) : tgetD (tset t i x) j d = tgetD t j d := by
  simp [tgetD, tget_tset_ne t x h]

@[simp] theorem tget_tdel {α : Type} (t : Tbl α) (i : Nat) : tget (tdel t i) i = none := by
  induction t with
  | nil => rfl
  | cons p t ih =>
    obtain ⟨k, v⟩ := p
    by_cases h : k = i
    · simpa [tdel, h] using ih
    · simpa [tdel, h, tget] using ih

theorem tget_tdel_ne {α : Type} (t : Tbl α) {i j : Nat} (h : i ≠ j) : tget (tdel t i) j = tget t j := by
  induction t with
  | nil => rfl
  | cons p t ih =>
    obtain ⟨k, v⟩ := p
    by_cases h1 : k = i
    · subst h1
      have := ih
      simp only [tdel, List.filter_cons, bne_self_eq_false, Bool.false_eq_true, if_false, tget, h] at this ⊢
      exact this
    · have hk : (k != i) = true := by simpa using h1
      by_cases h2 : k = j
      · subst h2
        simp only [tdel, List.filter_cons, hk, if_true, tget]
      · simpa [tdel, hk, tget, h2] using ih

/-- Rising keys, as a proposition. -/
theorem tblWf_iff {α : Type} (t : Tbl α) : tblWf t = true ↔ t.Pairwise (fun a b => a.1 < b.1) := by simp [tblWf]

theorem mem_tset {α : Type} (t : Tbl α) (i : Nat) (x : α) (p : Nat × α) (h : p ∈ tset t i x) : p = (i, x) ∨ p ∈ t := by
  induction t with
  | nil => simpa [tset] using h
  | cons q t ih =>
    obtain ⟨k, v⟩ := q
    by_cases h1 : i < k
    · simpa [tset, h1] using h
    · by_cases h2 : k = i
      · simp only [tset, h2, Nat.lt_irrefl, if_false, if_true, List.mem_cons] at h
        rcases h with h | h
        · exact .inl h
        · exact .inr (List.mem_cons_of_mem _ h)
      · simp only [tset, h1, h2, if_false, List.mem_cons] at h
        rcases h with h | h
        · exact .inr (by simp [h])
        · rcases ih h with h | h
          · exact .inl h
          · exact .inr (List.mem_cons_of_mem _ h)

theorem tset_pairwise {α : Type} (t : Tbl α) (i : Nat) (x : α) (h : t.Pairwise (fun a b => a.1 < b.1)) :
    (tset t i x).Pairwise (fun a b => a.1 < b.1) := by
  induction t with
  | nil => simp [tset]
  | cons q t ih =>
    obtain ⟨k, v⟩ := q
    have ht := (List.pairwise_cons.mp h).2
    have hk := (List.pairwise_cons.mp h).1
    by_cases h1 : i < k
    · simp only [tset, h1, if_true]
      refine List.pairwise_cons.mpr ⟨?_, h⟩
      intro b hb
      rcases List.mem_cons.mp hb with rfl | hb
      · exact h1
      · exact Nat.lt_trans h1 (hk b hb)
    · by_cases h2 : k = i
      · subst h2
        simp only [tset, Nat.lt_irrefl, if_false, if_true]
        exact List.pairwise_cons.mpr ⟨fun b hb => hk b hb, ht⟩
      · simp only [tset, h1, h2, if_false]
        refine List.pairwise_cons.mpr ⟨?_, ih ht⟩
        intro b hb
        rcases mem_tset t i x b hb with rfl | hb
        · exact Nat.lt_of_le_of_ne (Nat.le_of_not_lt h1) h2
        · exact hk b hb

/-- A table keeps rising keys when a key is set. -/
theorem tset_wf {α : Type} (t : Tbl α) (i : Nat) (x : α) (h : tblWf t = true) : tblWf (tset t i x) = true :=
  (tblWf_iff _).mpr (tset_pairwise t i x ((tblWf_iff t).mp h))

/-- A table keeps rising keys when a key is removed. -/
theorem tdel_wf {α : Type} (t : Tbl α) (i : Nat) (h : tblWf t = true) : tblWf (tdel t i) = true :=
  (tblWf_iff _).mpr (((tblWf_iff t).mp h).filter _)

/-! ### Byte memory -/

/-- The canonical form, as a proposition. -/
theorem memWf_iff (m : List Host.Cell) :
    Memory.wf m = true ↔ m.Pairwise (fun a b => a.1 < b.1) ∧ ∀ c ∈ m, c.2 ≠ 0 := by
  simp [Memory.wf]

@[simp] theorem memWf_nil : Memory.wf [] = true := rfl

/-- Keeping some entries keeps the canonical form. -/
theorem filter_memWf (m : List Host.Cell) (p : Host.Cell → Bool) (h : Memory.wf m = true) : Memory.wf (m.filter p) = true := by
  rw [memWf_iff] at h ⊢
  exact ⟨h.1.filter _, fun c hc => h.2 c (List.mem_filter.mp hc).1⟩

/-- A written byte keeps the canonical form. -/
theorem memWr_wf (m : List Host.Cell) (a : Nat) (b : Byte) (h : Memory.wf m = true) : Memory.wf (memWr m a b) = true := by
  unfold memWr
  split
  · exact filter_memWf m _ h
  · next hb =>
    rw [memWf_iff] at h ⊢
    refine ⟨tset_pairwise m a b h.1, ?_⟩
    intro c hc
    rcases mem_tset m a b c hc with rfl | hc
    · exact hb
    · exact h.2 c hc

/-- Written bytes keep the canonical form. -/
theorem memWrL_wf (m : List Host.Cell) (a : Nat) (l : List Byte) (h : Memory.wf m = true) : Memory.wf (memWrL m a l) = true := by
  induction l generalizing m a with
  | nil => exact h
  | cons b t ih => exact ih _ _ (memWr_wf m a b h)

/-- Zeroed bytes keep the canonical form. -/
theorem memZero_wf (m : List Host.Cell) (a n : Nat) (h : Memory.wf m = true) : Memory.wf (memZero m a n) = true :=
  filter_memWf m _ h

/-- A byte reads back. -/
@[simp] theorem memRd_memWr (m : List Host.Cell) (a : Nat) (b : Byte) : memRd (memWr m a b) a = b := by
  unfold memWr memRd tgetD
  split
  · next h => simp [h]
  · simp

/-- A written byte leaves every other byte as it was. -/
theorem memRd_memWr_ne (m : List Host.Cell) {a x : Nat} (b : Byte) (h : a ≠ x) : memRd (memWr m a b) x = memRd m x := by
  unfold memWr memRd tgetD
  split
  · rw [tget_tdel_ne m h]
  · rw [tget_tset_ne m b h]

/-- Bytes outside a written range stay as they were. -/
theorem memRd_memWrL_out (m : List Host.Cell) (a x : Nat) (l : List Byte) (h : x < a ∨ a + l.length ≤ x) :
    memRd (memWrL m a l) x = memRd m x := by
  induction l generalizing m a with
  | nil => rfl
  | cons b t ih =>
    simp only [List.length_cons] at h
    have h1 : a ≠ x := by omega
    rw [memWrL, ih (memWr m a b) (a + 1) (by omega), memRd_memWr_ne m b h1]

/-- Bytes of a written range read back. -/
theorem memRd_memWrL_in (m : List Host.Cell) (a k : Nat) (l : List Byte) (h : k < l.length) :
    memRd (memWrL m a l) (a + k) = l[k] := by
  induction l generalizing m a k with
  | nil => simp at h
  | cons b t ih =>
    cases k with
    | zero =>
      have h1 : memRd (memWrL (memWr m a b) (a + 1) t) a = memRd (memWr m a b) a :=
        memRd_memWrL_out _ _ _ _ (Or.inl (Nat.lt_succ_self a))
      simpa [memWrL] using h1
    | succ k =>
      have h' : k < t.length := by simpa using h
      have := ih (memWr m a b) (a + 1) k h'
      rw [memWrL, show a + (k + 1) = a + 1 + k by omega, this]
      rfl

end Sys2Proof
end

