-- ==== Sys2Proof/Laws/State.lean ====
section
/-!
SUPPORT. Laws/State.lean: for each shared operation, everything it can change (`_frame`) and, for simp, the fields of
State it leaves alone (`_same`).
-/
namespace Sys2Proof.Machine

/-- Everything that `setBlk` can change. -/
theorem setBlk_frame (s : State) (page : Nat) (b : Blk) :
    ∃ x0, setBlk s page b = { s with blks := x0 } := ⟨_, rfl⟩

@[simp] theorem setBlk_same (s : State) (page : Nat) (b : Blk) :
    (setBlk s page b).pending = s.pending ∧ (setBlk s page b).part = s.part ∧ (setBlk s page b).tb = s.tb ∧ (setBlk s page b).regs = s.regs ∧
    (setBlk s page b).rvs = s.rvs ∧ (setBlk s page b).latch = s.latch ∧ (setBlk s page b).ports = s.ports ∧ (setBlk s page b).life = s.life ∧
    (setBlk s page b).mem = s.mem ∧ (setBlk s page b).pcieMem = s.pcieMem ∧ (setBlk s page b).ecc = s.ecc ∧ (setBlk s page b).ctxs = s.ctxs ∧
    (setBlk s page b).models = s.models ∧ (setBlk s page b).car = s.car ∧ (setBlk s page b).ket = s.ket ∧ (setBlk s page b).chans = s.chans ∧
    (setBlk s page b).pcie = s.pcie ∧ (setBlk s page b).gong = s.gong ∧ (setBlk s page b).toc = s.toc ∧ (setBlk s page b).sec = s.sec ∧
    (setBlk s page b).peal = s.peal ∧ (setBlk s page b).flows = s.flows ∧ (setBlk s page b).keys = s.keys ∧ (setBlk s page b).portMode = s.portMode ∧
    (setBlk s page b).excWin = s.excWin ∧ (setBlk s page b).stms = s.stms ∧ (setBlk s page b).decs = s.decs ∧ (setBlk s page b).adaptIn = s.adaptIn ∧
    (setBlk s page b).gates = s.gates ∧ (setBlk s page b).sframes = s.sframes ∧ (setBlk s page b).pipes = s.pipes ∧ (setBlk s page b).rjobs = s.rjobs ∧
    (setBlk s page b).ringAt = s.ringAt ∧ (setBlk s page b).clave = s.clave ∧ (setBlk s page b).claveLast = s.claveLast ∧ (setBlk s page b).leases = s.leases ∧
    (setBlk s page b).returns = s.returns ∧ (setBlk s page b).seqs = s.seqs ∧ (setBlk s page b).engs = s.engs ∧ (setBlk s page b).cores = s.cores ∧
    (setBlk s page b).batches = s.batches ∧ (setBlk s page b).sets = s.sets ∧ (setBlk s page b).outlets = s.outlets ∧ (setBlk s page b).staging = s.staging ∧
    (setBlk s page b).stageAt = s.stageAt ∧ (setBlk s page b).fwBlk = s.fwBlk ∧ (setBlk s page b).evids = s.evids ∧ (setBlk s page b).encs = s.encs ∧
    (setBlk s page b).snaps = s.snaps ∧ (setBlk s page b).encCpl = s.encCpl ∧ (setBlk s page b).ajobs = s.ajobs ∧ (setBlk s page b).out = s.out ∧
    (setBlk s page b).free = s.free := by
  obtain ⟨_, h⟩ := setBlk_frame s page b
  rw [h]
  exact ⟨rfl, rfl, rfl, rfl, rfl, rfl, rfl, rfl, rfl, rfl, rfl, rfl, rfl, rfl, rfl, rfl, rfl, rfl, rfl, rfl, rfl, rfl, rfl, rfl, rfl, rfl, rfl, rfl, rfl, rfl, rfl, rfl, rfl, rfl, rfl, rfl, rfl, rfl, rfl, rfl, rfl, rfl, rfl, rfl, rfl, rfl, rfl, rfl, rfl, rfl, rfl, rfl, rfl⟩

/-- Everything that `putR` can change. -/
theorem putR_frame (s : State) (page ofs : Nat) (w : Word) :
    ∃ x0, putR s page ofs w = { s with regs := x0 } := ⟨_, rfl⟩

@[simp] theorem putR_same (s : State) (page ofs : Nat) (w : Word) :
    (putR s page ofs w).pending = s.pending ∧ (putR s page ofs w).part = s.part ∧ (putR s page ofs w).tb = s.tb ∧ (putR s page ofs w).blks = s.blks ∧
    (putR s page ofs w).rvs = s.rvs ∧ (putR s page ofs w).latch = s.latch ∧ (putR s page ofs w).ports = s.ports ∧ (putR s page ofs w).life = s.life ∧
    (putR s page ofs w).mem = s.mem ∧ (putR s page ofs w).pcieMem = s.pcieMem ∧ (putR s page ofs w).ecc = s.ecc ∧ (putR s page ofs w).ctxs = s.ctxs ∧
    (putR s page ofs w).models = s.models ∧ (putR s page ofs w).car = s.car ∧ (putR s page ofs w).ket = s.ket ∧ (putR s page ofs w).chans = s.chans ∧
    (putR s page ofs w).pcie = s.pcie ∧ (putR s page ofs w).gong = s.gong ∧ (putR s page ofs w).toc = s.toc ∧ (putR s page ofs w).sec = s.sec ∧
    (putR s page ofs w).peal = s.peal ∧ (putR s page ofs w).flows = s.flows ∧ (putR s page ofs w).keys = s.keys ∧ (putR s page ofs w).portMode = s.portMode ∧
    (putR s page ofs w).excWin = s.excWin ∧ (putR s page ofs w).stms = s.stms ∧ (putR s page ofs w).decs = s.decs ∧ (putR s page ofs w).adaptIn = s.adaptIn ∧
    (putR s page ofs w).gates = s.gates ∧ (putR s page ofs w).sframes = s.sframes ∧ (putR s page ofs w).pipes = s.pipes ∧ (putR s page ofs w).rjobs = s.rjobs ∧
    (putR s page ofs w).ringAt = s.ringAt ∧ (putR s page ofs w).clave = s.clave ∧ (putR s page ofs w).claveLast = s.claveLast ∧ (putR s page ofs w).leases = s.leases ∧
    (putR s page ofs w).returns = s.returns ∧ (putR s page ofs w).seqs = s.seqs ∧ (putR s page ofs w).engs = s.engs ∧ (putR s page ofs w).cores = s.cores ∧
    (putR s page ofs w).batches = s.batches ∧ (putR s page ofs w).sets = s.sets ∧ (putR s page ofs w).outlets = s.outlets ∧ (putR s page ofs w).staging = s.staging ∧
    (putR s page ofs w).stageAt = s.stageAt ∧ (putR s page ofs w).fwBlk = s.fwBlk ∧ (putR s page ofs w).evids = s.evids ∧ (putR s page ofs w).encs = s.encs ∧
    (putR s page ofs w).snaps = s.snaps ∧ (putR s page ofs w).encCpl = s.encCpl ∧ (putR s page ofs w).ajobs = s.ajobs ∧ (putR s page ofs w).out = s.out ∧
    (putR s page ofs w).free = s.free := by
  obtain ⟨_, h⟩ := putR_frame s page ofs w
  rw [h]
  exact ⟨rfl, rfl, rfl, rfl, rfl, rfl, rfl, rfl, rfl, rfl, rfl, rfl, rfl, rfl, rfl, rfl, rfl, rfl, rfl, rfl, rfl, rfl, rfl, rfl, rfl, rfl, rfl, rfl, rfl, rfl, rfl, rfl, rfl, rfl, rfl, rfl, rfl, rfl, rfl, rfl, rfl, rfl, rfl, rfl, rfl, rfl, rfl, rfl, rfl, rfl, rfl, rfl, rfl⟩

/-- Everything that `putRV` can change. -/
theorem putRV_frame (s : State) (page ofs : Nat) (w : Word) :
    ∃ x0, putRV s page ofs w = { s with rvs := x0 } := ⟨_, rfl⟩

@[simp] theorem putRV_same (s : State) (page ofs : Nat) (w : Word) :
    (putRV s page ofs w).pending = s.pending ∧ (putRV s page ofs w).part = s.part ∧ (putRV s page ofs w).tb = s.tb ∧ (putRV s page ofs w).blks = s.blks ∧
    (putRV s page ofs w).regs = s.regs ∧ (putRV s page ofs w).latch = s.latch ∧ (putRV s page ofs w).ports = s.ports ∧ (putRV s page ofs w).life = s.life ∧
    (putRV s page ofs w).mem = s.mem ∧ (putRV s page ofs w).pcieMem = s.pcieMem ∧ (putRV s page ofs w).ecc = s.ecc ∧ (putRV s page ofs w).ctxs = s.ctxs ∧
    (putRV s page ofs w).models = s.models ∧ (putRV s page ofs w).car = s.car ∧ (putRV s page ofs w).ket = s.ket ∧ (putRV s page ofs w).chans = s.chans ∧
    (putRV s page ofs w).pcie = s.pcie ∧ (putRV s page ofs w).gong = s.gong ∧ (putRV s page ofs w).toc = s.toc ∧ (putRV s page ofs w).sec = s.sec ∧
    (putRV s page ofs w).peal = s.peal ∧ (putRV s page ofs w).flows = s.flows ∧ (putRV s page ofs w).keys = s.keys ∧ (putRV s page ofs w).portMode = s.portMode ∧
    (putRV s page ofs w).excWin = s.excWin ∧ (putRV s page ofs w).stms = s.stms ∧ (putRV s page ofs w).decs = s.decs ∧ (putRV s page ofs w).adaptIn = s.adaptIn ∧
    (putRV s page ofs w).gates = s.gates ∧ (putRV s page ofs w).sframes = s.sframes ∧ (putRV s page ofs w).pipes = s.pipes ∧ (putRV s page ofs w).rjobs = s.rjobs ∧
    (putRV s page ofs w).ringAt = s.ringAt ∧ (putRV s page ofs w).clave = s.clave ∧ (putRV s page ofs w).claveLast = s.claveLast ∧ (putRV s page ofs w).leases = s.leases ∧
    (putRV s page ofs w).returns = s.returns ∧ (putRV s page ofs w).seqs = s.seqs ∧ (putRV s page ofs w).engs = s.engs ∧ (putRV s page ofs w).cores = s.cores ∧
    (putRV s page ofs w).batches = s.batches ∧ (putRV s page ofs w).sets = s.sets ∧ (putRV s page ofs w).outlets = s.outlets ∧ (putRV s page ofs w).staging = s.staging ∧
    (putRV s page ofs w).stageAt = s.stageAt ∧ (putRV s page ofs w).fwBlk = s.fwBlk ∧ (putRV s page ofs w).evids = s.evids ∧ (putRV s page ofs w).encs = s.encs ∧
    (putRV s page ofs w).snaps = s.snaps ∧ (putRV s page ofs w).encCpl = s.encCpl ∧ (putRV s page ofs w).ajobs = s.ajobs ∧ (putRV s page ofs w).out = s.out ∧
    (putRV s page ofs w).free = s.free := by
  obtain ⟨_, h⟩ := putRV_frame s page ofs w
  rw [h]
  exact ⟨rfl, rfl, rfl, rfl, rfl, rfl, rfl, rfl, rfl, rfl, rfl, rfl, rfl, rfl, rfl, rfl, rfl, rfl, rfl, rfl, rfl, rfl, rfl, rfl, rfl, rfl, rfl, rfl, rfl, rfl, rfl, rfl, rfl, rfl, rfl, rfl, rfl, rfl, rfl, rfl, rfl, rfl, rfl, rfl, rfl, rfl, rfl, rfl, rfl, rfl, rfl, rfl, rfl⟩

/-- Everything that `putR64` can change. -/
theorem putR64_frame (s : State) (page ofs n : Nat) :
    ∃ x0, putR64 s page ofs n = { s with regs := x0 } := ⟨_, rfl⟩

@[simp] theorem putR64_same (s : State) (page ofs n : Nat) :
    (putR64 s page ofs n).pending = s.pending ∧ (putR64 s page ofs n).part = s.part ∧ (putR64 s page ofs n).tb = s.tb ∧ (putR64 s page ofs n).blks = s.blks ∧
    (putR64 s page ofs n).rvs = s.rvs ∧ (putR64 s page ofs n).latch = s.latch ∧ (putR64 s page ofs n).ports = s.ports ∧ (putR64 s page ofs n).life = s.life ∧
    (putR64 s page ofs n).mem = s.mem ∧ (putR64 s page ofs n).pcieMem = s.pcieMem ∧ (putR64 s page ofs n).ecc = s.ecc ∧ (putR64 s page ofs n).ctxs = s.ctxs ∧
    (putR64 s page ofs n).models = s.models ∧ (putR64 s page ofs n).car = s.car ∧ (putR64 s page ofs n).ket = s.ket ∧ (putR64 s page ofs n).chans = s.chans ∧
    (putR64 s page ofs n).pcie = s.pcie ∧ (putR64 s page ofs n).gong = s.gong ∧ (putR64 s page ofs n).toc = s.toc ∧ (putR64 s page ofs n).sec = s.sec ∧
    (putR64 s page ofs n).peal = s.peal ∧ (putR64 s page ofs n).flows = s.flows ∧ (putR64 s page ofs n).keys = s.keys ∧ (putR64 s page ofs n).portMode = s.portMode ∧
    (putR64 s page ofs n).excWin = s.excWin ∧ (putR64 s page ofs n).stms = s.stms ∧ (putR64 s page ofs n).decs = s.decs ∧ (putR64 s page ofs n).adaptIn = s.adaptIn ∧
    (putR64 s page ofs n).gates = s.gates ∧ (putR64 s page ofs n).sframes = s.sframes ∧ (putR64 s page ofs n).pipes = s.pipes ∧ (putR64 s page ofs n).rjobs = s.rjobs ∧
    (putR64 s page ofs n).ringAt = s.ringAt ∧ (putR64 s page ofs n).clave = s.clave ∧ (putR64 s page ofs n).claveLast = s.claveLast ∧ (putR64 s page ofs n).leases = s.leases ∧
    (putR64 s page ofs n).returns = s.returns ∧ (putR64 s page ofs n).seqs = s.seqs ∧ (putR64 s page ofs n).engs = s.engs ∧ (putR64 s page ofs n).cores = s.cores ∧
    (putR64 s page ofs n).batches = s.batches ∧ (putR64 s page ofs n).sets = s.sets ∧ (putR64 s page ofs n).outlets = s.outlets ∧ (putR64 s page ofs n).staging = s.staging ∧
    (putR64 s page ofs n).stageAt = s.stageAt ∧ (putR64 s page ofs n).fwBlk = s.fwBlk ∧ (putR64 s page ofs n).evids = s.evids ∧ (putR64 s page ofs n).encs = s.encs ∧
    (putR64 s page ofs n).snaps = s.snaps ∧ (putR64 s page ofs n).encCpl = s.encCpl ∧ (putR64 s page ofs n).ajobs = s.ajobs ∧ (putR64 s page ofs n).out = s.out ∧
    (putR64 s page ofs n).free = s.free := by
  obtain ⟨_, h⟩ := putR64_frame s page ofs n
  rw [h]
  exact ⟨rfl, rfl, rfl, rfl, rfl, rfl, rfl, rfl, rfl, rfl, rfl, rfl, rfl, rfl, rfl, rfl, rfl, rfl, rfl, rfl, rfl, rfl, rfl, rfl, rfl, rfl, rfl, rfl, rfl, rfl, rfl, rfl, rfl, rfl, rfl, rfl, rfl, rfl, rfl, rfl, rfl, rfl, rfl, rfl, rfl, rfl, rfl, rfl, rfl, rfl, rfl, rfl, rfl⟩

/-- Everything that `bumpR` can change. -/
theorem bumpR_frame (s : State) (page ofs n : Nat) :
    ∃ x0, bumpR s page ofs n = { s with regs := x0 } := ⟨_, rfl⟩

@[simp] theorem bumpR_same (s : State) (page ofs n : Nat) :
    (bumpR s page ofs n).pending = s.pending ∧ (bumpR s page ofs n).part = s.part ∧ (bumpR s page ofs n).tb = s.tb ∧ (bumpR s page ofs n).blks = s.blks ∧
    (bumpR s page ofs n).rvs = s.rvs ∧ (bumpR s page ofs n).latch = s.latch ∧ (bumpR s page ofs n).ports = s.ports ∧ (bumpR s page ofs n).life = s.life ∧
    (bumpR s page ofs n).mem = s.mem ∧ (bumpR s page ofs n).pcieMem = s.pcieMem ∧ (bumpR s page ofs n).ecc = s.ecc ∧ (bumpR s page ofs n).ctxs = s.ctxs ∧
    (bumpR s page ofs n).models = s.models ∧ (bumpR s page ofs n).car = s.car ∧ (bumpR s page ofs n).ket = s.ket ∧ (bumpR s page ofs n).chans = s.chans ∧
    (bumpR s page ofs n).pcie = s.pcie ∧ (bumpR s page ofs n).gong = s.gong ∧ (bumpR s page ofs n).toc = s.toc ∧ (bumpR s page ofs n).sec = s.sec ∧
    (bumpR s page ofs n).peal = s.peal ∧ (bumpR s page ofs n).flows = s.flows ∧ (bumpR s page ofs n).keys = s.keys ∧ (bumpR s page ofs n).portMode = s.portMode ∧
    (bumpR s page ofs n).excWin = s.excWin ∧ (bumpR s page ofs n).stms = s.stms ∧ (bumpR s page ofs n).decs = s.decs ∧ (bumpR s page ofs n).adaptIn = s.adaptIn ∧
    (bumpR s page ofs n).gates = s.gates ∧ (bumpR s page ofs n).sframes = s.sframes ∧ (bumpR s page ofs n).pipes = s.pipes ∧ (bumpR s page ofs n).rjobs = s.rjobs ∧
    (bumpR s page ofs n).ringAt = s.ringAt ∧ (bumpR s page ofs n).clave = s.clave ∧ (bumpR s page ofs n).claveLast = s.claveLast ∧ (bumpR s page ofs n).leases = s.leases ∧
    (bumpR s page ofs n).returns = s.returns ∧ (bumpR s page ofs n).seqs = s.seqs ∧ (bumpR s page ofs n).engs = s.engs ∧ (bumpR s page ofs n).cores = s.cores ∧
    (bumpR s page ofs n).batches = s.batches ∧ (bumpR s page ofs n).sets = s.sets ∧ (bumpR s page ofs n).outlets = s.outlets ∧ (bumpR s page ofs n).staging = s.staging ∧
    (bumpR s page ofs n).stageAt = s.stageAt ∧ (bumpR s page ofs n).fwBlk = s.fwBlk ∧ (bumpR s page ofs n).evids = s.evids ∧ (bumpR s page ofs n).encs = s.encs ∧
    (bumpR s page ofs n).snaps = s.snaps ∧ (bumpR s page ofs n).encCpl = s.encCpl ∧ (bumpR s page ofs n).ajobs = s.ajobs ∧ (bumpR s page ofs n).out = s.out ∧
    (bumpR s page ofs n).free = s.free := by
  obtain ⟨_, h⟩ := bumpR_frame s page ofs n
  rw [h]
  exact ⟨rfl, rfl, rfl, rfl, rfl, rfl, rfl, rfl, rfl, rfl, rfl, rfl, rfl, rfl, rfl, rfl, rfl, rfl, rfl, rfl, rfl, rfl, rfl, rfl, rfl, rfl, rfl, rfl, rfl, rfl, rfl, rfl, rfl, rfl, rfl, rfl, rfl, rfl, rfl, rfl, rfl, rfl, rfl, rfl, rfl, rfl, rfl, rfl, rfl, rfl, rfl, rfl, rfl⟩

/-- Everything that `setPd` can change. -/
theorem setPd_frame (s : State) (n st src : Nat) :
    ∃ x0, setPd s n st src = { s with regs := x0 } := ⟨_, rfl⟩

@[simp] theorem setPd_same (s : State) (n st src : Nat) :
    (setPd s n st src).pending = s.pending ∧ (setPd s n st src).part = s.part ∧ (setPd s n st src).tb = s.tb ∧ (setPd s n st src).blks = s.blks ∧
    (setPd s n st src).rvs = s.rvs ∧ (setPd s n st src).latch = s.latch ∧ (setPd s n st src).ports = s.ports ∧ (setPd s n st src).life = s.life ∧
    (setPd s n st src).mem = s.mem ∧ (setPd s n st src).pcieMem = s.pcieMem ∧ (setPd s n st src).ecc = s.ecc ∧ (setPd s n st src).ctxs = s.ctxs ∧
    (setPd s n st src).models = s.models ∧ (setPd s n st src).car = s.car ∧ (setPd s n st src).ket = s.ket ∧ (setPd s n st src).chans = s.chans ∧
    (setPd s n st src).pcie = s.pcie ∧ (setPd s n st src).gong = s.gong ∧ (setPd s n st src).toc = s.toc ∧ (setPd s n st src).sec = s.sec ∧
    (setPd s n st src).peal = s.peal ∧ (setPd s n st src).flows = s.flows ∧ (setPd s n st src).keys = s.keys ∧ (setPd s n st src).portMode = s.portMode ∧
    (setPd s n st src).excWin = s.excWin ∧ (setPd s n st src).stms = s.stms ∧ (setPd s n st src).decs = s.decs ∧ (setPd s n st src).adaptIn = s.adaptIn ∧
    (setPd s n st src).gates = s.gates ∧ (setPd s n st src).sframes = s.sframes ∧ (setPd s n st src).pipes = s.pipes ∧ (setPd s n st src).rjobs = s.rjobs ∧
    (setPd s n st src).ringAt = s.ringAt ∧ (setPd s n st src).clave = s.clave ∧ (setPd s n st src).claveLast = s.claveLast ∧ (setPd s n st src).leases = s.leases ∧
    (setPd s n st src).returns = s.returns ∧ (setPd s n st src).seqs = s.seqs ∧ (setPd s n st src).engs = s.engs ∧ (setPd s n st src).cores = s.cores ∧
    (setPd s n st src).batches = s.batches ∧ (setPd s n st src).sets = s.sets ∧ (setPd s n st src).outlets = s.outlets ∧ (setPd s n st src).staging = s.staging ∧
    (setPd s n st src).stageAt = s.stageAt ∧ (setPd s n st src).fwBlk = s.fwBlk ∧ (setPd s n st src).evids = s.evids ∧ (setPd s n st src).encs = s.encs ∧
    (setPd s n st src).snaps = s.snaps ∧ (setPd s n st src).encCpl = s.encCpl ∧ (setPd s n st src).ajobs = s.ajobs ∧ (setPd s n st src).out = s.out ∧
    (setPd s n st src).free = s.free := by
  obtain ⟨_, h⟩ := setPd_frame s n st src
  rw [h]
  exact ⟨rfl, rfl, rfl, rfl, rfl, rfl, rfl, rfl, rfl, rfl, rfl, rfl, rfl, rfl, rfl, rfl, rfl, rfl, rfl, rfl, rfl, rfl, rfl, rfl, rfl, rfl, rfl, rfl, rfl, rfl, rfl, rfl, rfl, rfl, rfl, rfl, rfl, rfl, rfl, rfl, rfl, rfl, rfl, rfl, rfl, rfl, rfl, rfl, rfl, rfl, rfl, rfl, rfl⟩

/-- Everything that `pbaSet` can change. -/
theorem pbaSet_frame (s : State) (v : Nat) (b : Bool) :
    ∃ x0, pbaSet s v b = { s with regs := x0 } := ⟨_, rfl⟩

@[simp] theorem pbaSet_same (s : State) (v : Nat) (b : Bool) :
    (pbaSet s v b).pending = s.pending ∧ (pbaSet s v b).part = s.part ∧ (pbaSet s v b).tb = s.tb ∧ (pbaSet s v b).blks = s.blks ∧
    (pbaSet s v b).rvs = s.rvs ∧ (pbaSet s v b).latch = s.latch ∧ (pbaSet s v b).ports = s.ports ∧ (pbaSet s v b).life = s.life ∧
    (pbaSet s v b).mem = s.mem ∧ (pbaSet s v b).pcieMem = s.pcieMem ∧ (pbaSet s v b).ecc = s.ecc ∧ (pbaSet s v b).ctxs = s.ctxs ∧
    (pbaSet s v b).models = s.models ∧ (pbaSet s v b).car = s.car ∧ (pbaSet s v b).ket = s.ket ∧ (pbaSet s v b).chans = s.chans ∧
    (pbaSet s v b).pcie = s.pcie ∧ (pbaSet s v b).gong = s.gong ∧ (pbaSet s v b).toc = s.toc ∧ (pbaSet s v b).sec = s.sec ∧
    (pbaSet s v b).peal = s.peal ∧ (pbaSet s v b).flows = s.flows ∧ (pbaSet s v b).keys = s.keys ∧ (pbaSet s v b).portMode = s.portMode ∧
    (pbaSet s v b).excWin = s.excWin ∧ (pbaSet s v b).stms = s.stms ∧ (pbaSet s v b).decs = s.decs ∧ (pbaSet s v b).adaptIn = s.adaptIn ∧
    (pbaSet s v b).gates = s.gates ∧ (pbaSet s v b).sframes = s.sframes ∧ (pbaSet s v b).pipes = s.pipes ∧ (pbaSet s v b).rjobs = s.rjobs ∧
    (pbaSet s v b).ringAt = s.ringAt ∧ (pbaSet s v b).clave = s.clave ∧ (pbaSet s v b).claveLast = s.claveLast ∧ (pbaSet s v b).leases = s.leases ∧
    (pbaSet s v b).returns = s.returns ∧ (pbaSet s v b).seqs = s.seqs ∧ (pbaSet s v b).engs = s.engs ∧ (pbaSet s v b).cores = s.cores ∧
    (pbaSet s v b).batches = s.batches ∧ (pbaSet s v b).sets = s.sets ∧ (pbaSet s v b).outlets = s.outlets ∧ (pbaSet s v b).staging = s.staging ∧
    (pbaSet s v b).stageAt = s.stageAt ∧ (pbaSet s v b).fwBlk = s.fwBlk ∧ (pbaSet s v b).evids = s.evids ∧ (pbaSet s v b).encs = s.encs ∧
    (pbaSet s v b).snaps = s.snaps ∧ (pbaSet s v b).encCpl = s.encCpl ∧ (pbaSet s v b).ajobs = s.ajobs ∧ (pbaSet s v b).out = s.out ∧
    (pbaSet s v b).free = s.free := by
  obtain ⟨_, h⟩ := pbaSet_frame s v b
  rw [h]
  exact ⟨rfl, rfl, rfl, rfl, rfl, rfl, rfl, rfl, rfl, rfl, rfl, rfl, rfl, rfl, rfl, rfl, rfl, rfl, rfl, rfl, rfl, rfl, rfl, rfl, rfl, rfl, rfl, rfl, rfl, rfl, rfl, rfl, rfl, rfl, rfl, rfl, rfl, rfl, rfl, rfl, rfl, rfl, rfl, rfl, rfl, rfl, rfl, rfl, rfl, rfl, rfl, rfl, rfl⟩

/-- Everything that `cntAdd` can change. -/
theorem cntAdd_frame (s : State) (page n : Nat) :
    ∃ x0, cntAdd s page n = { s with blks := x0 } := ⟨_, rfl⟩

@[simp] theorem cntAdd_same (s : State) (page n : Nat) :
    (cntAdd s page n).pending = s.pending ∧ (cntAdd s page n).part = s.part ∧ (cntAdd s page n).tb = s.tb ∧ (cntAdd s page n).regs = s.regs ∧
    (cntAdd s page n).rvs = s.rvs ∧ (cntAdd s page n).latch = s.latch ∧ (cntAdd s page n).ports = s.ports ∧ (cntAdd s page n).life = s.life ∧
    (cntAdd s page n).mem = s.mem ∧ (cntAdd s page n).pcieMem = s.pcieMem ∧ (cntAdd s page n).ecc = s.ecc ∧ (cntAdd s page n).ctxs = s.ctxs ∧
    (cntAdd s page n).models = s.models ∧ (cntAdd s page n).car = s.car ∧ (cntAdd s page n).ket = s.ket ∧ (cntAdd s page n).chans = s.chans ∧
    (cntAdd s page n).pcie = s.pcie ∧ (cntAdd s page n).gong = s.gong ∧ (cntAdd s page n).toc = s.toc ∧ (cntAdd s page n).sec = s.sec ∧
    (cntAdd s page n).peal = s.peal ∧ (cntAdd s page n).flows = s.flows ∧ (cntAdd s page n).keys = s.keys ∧ (cntAdd s page n).portMode = s.portMode ∧
    (cntAdd s page n).excWin = s.excWin ∧ (cntAdd s page n).stms = s.stms ∧ (cntAdd s page n).decs = s.decs ∧ (cntAdd s page n).adaptIn = s.adaptIn ∧
    (cntAdd s page n).gates = s.gates ∧ (cntAdd s page n).sframes = s.sframes ∧ (cntAdd s page n).pipes = s.pipes ∧ (cntAdd s page n).rjobs = s.rjobs ∧
    (cntAdd s page n).ringAt = s.ringAt ∧ (cntAdd s page n).clave = s.clave ∧ (cntAdd s page n).claveLast = s.claveLast ∧ (cntAdd s page n).leases = s.leases ∧
    (cntAdd s page n).returns = s.returns ∧ (cntAdd s page n).seqs = s.seqs ∧ (cntAdd s page n).engs = s.engs ∧ (cntAdd s page n).cores = s.cores ∧
    (cntAdd s page n).batches = s.batches ∧ (cntAdd s page n).sets = s.sets ∧ (cntAdd s page n).outlets = s.outlets ∧ (cntAdd s page n).staging = s.staging ∧
    (cntAdd s page n).stageAt = s.stageAt ∧ (cntAdd s page n).fwBlk = s.fwBlk ∧ (cntAdd s page n).evids = s.evids ∧ (cntAdd s page n).encs = s.encs ∧
    (cntAdd s page n).snaps = s.snaps ∧ (cntAdd s page n).encCpl = s.encCpl ∧ (cntAdd s page n).ajobs = s.ajobs ∧ (cntAdd s page n).out = s.out ∧
    (cntAdd s page n).free = s.free := by
  obtain ⟨_, h⟩ := cntAdd_frame s page n
  rw [h]
  exact ⟨rfl, rfl, rfl, rfl, rfl, rfl, rfl, rfl, rfl, rfl, rfl, rfl, rfl, rfl, rfl, rfl, rfl, rfl, rfl, rfl, rfl, rfl, rfl, rfl, rfl, rfl, rfl, rfl, rfl, rfl, rfl, rfl, rfl, rfl, rfl, rfl, rfl, rfl, rfl, rfl, rfl, rfl, rfl, rfl, rfl, rfl, rfl, rfl, rfl, rfl, rfl, rfl, rfl⟩

/-- Everything that `setCtx` can change. -/
theorem setCtx_frame (s : State) (n : Nat) (c : Ctx) :
    ∃ x0, setCtx s n c = { s with ctxs := x0 } := ⟨_, rfl⟩

@[simp] theorem setCtx_same (s : State) (n : Nat) (c : Ctx) :
    (setCtx s n c).pending = s.pending ∧ (setCtx s n c).part = s.part ∧ (setCtx s n c).tb = s.tb ∧ (setCtx s n c).blks = s.blks ∧
    (setCtx s n c).regs = s.regs ∧ (setCtx s n c).rvs = s.rvs ∧ (setCtx s n c).latch = s.latch ∧ (setCtx s n c).ports = s.ports ∧
    (setCtx s n c).life = s.life ∧ (setCtx s n c).mem = s.mem ∧ (setCtx s n c).pcieMem = s.pcieMem ∧ (setCtx s n c).ecc = s.ecc ∧
    (setCtx s n c).models = s.models ∧ (setCtx s n c).car = s.car ∧ (setCtx s n c).ket = s.ket ∧ (setCtx s n c).chans = s.chans ∧
    (setCtx s n c).pcie = s.pcie ∧ (setCtx s n c).gong = s.gong ∧ (setCtx s n c).toc = s.toc ∧ (setCtx s n c).sec = s.sec ∧
    (setCtx s n c).peal = s.peal ∧ (setCtx s n c).flows = s.flows ∧ (setCtx s n c).keys = s.keys ∧ (setCtx s n c).portMode = s.portMode ∧
    (setCtx s n c).excWin = s.excWin ∧ (setCtx s n c).stms = s.stms ∧ (setCtx s n c).decs = s.decs ∧ (setCtx s n c).adaptIn = s.adaptIn ∧
    (setCtx s n c).gates = s.gates ∧ (setCtx s n c).sframes = s.sframes ∧ (setCtx s n c).pipes = s.pipes ∧ (setCtx s n c).rjobs = s.rjobs ∧
    (setCtx s n c).ringAt = s.ringAt ∧ (setCtx s n c).clave = s.clave ∧ (setCtx s n c).claveLast = s.claveLast ∧ (setCtx s n c).leases = s.leases ∧
    (setCtx s n c).returns = s.returns ∧ (setCtx s n c).seqs = s.seqs ∧ (setCtx s n c).engs = s.engs ∧ (setCtx s n c).cores = s.cores ∧
    (setCtx s n c).batches = s.batches ∧ (setCtx s n c).sets = s.sets ∧ (setCtx s n c).outlets = s.outlets ∧ (setCtx s n c).staging = s.staging ∧
    (setCtx s n c).stageAt = s.stageAt ∧ (setCtx s n c).fwBlk = s.fwBlk ∧ (setCtx s n c).evids = s.evids ∧ (setCtx s n c).encs = s.encs ∧
    (setCtx s n c).snaps = s.snaps ∧ (setCtx s n c).encCpl = s.encCpl ∧ (setCtx s n c).ajobs = s.ajobs ∧ (setCtx s n c).out = s.out ∧
    (setCtx s n c).free = s.free := by
  obtain ⟨_, h⟩ := setCtx_frame s n c
  rw [h]
  exact ⟨rfl, rfl, rfl, rfl, rfl, rfl, rfl, rfl, rfl, rfl, rfl, rfl, rfl, rfl, rfl, rfl, rfl, rfl, rfl, rfl, rfl, rfl, rfl, rfl, rfl, rfl, rfl, rfl, rfl, rfl, rfl, rfl, rfl, rfl, rfl, rfl, rfl, rfl, rfl, rfl, rfl, rfl, rfl, rfl, rfl, rfl, rfl, rfl, rfl, rfl, rfl, rfl, rfl⟩

/-- Everything that `updCtx` can change. -/
theorem updCtx_frame (s : State) (n : Nat) (f : Ctx → Ctx) :
    ∃ x0, updCtx s n f = { s with ctxs := x0 } := ⟨_, rfl⟩

@[simp] theorem updCtx_same (s : State) (n : Nat) (f : Ctx → Ctx) :
    (updCtx s n f).pending = s.pending ∧ (updCtx s n f).part = s.part ∧ (updCtx s n f).tb = s.tb ∧ (updCtx s n f).blks = s.blks ∧
    (updCtx s n f).regs = s.regs ∧ (updCtx s n f).rvs = s.rvs ∧ (updCtx s n f).latch = s.latch ∧ (updCtx s n f).ports = s.ports ∧
    (updCtx s n f).life = s.life ∧ (updCtx s n f).mem = s.mem ∧ (updCtx s n f).pcieMem = s.pcieMem ∧ (updCtx s n f).ecc = s.ecc ∧
    (updCtx s n f).models = s.models ∧ (updCtx s n f).car = s.car ∧ (updCtx s n f).ket = s.ket ∧ (updCtx s n f).chans = s.chans ∧
    (updCtx s n f).pcie = s.pcie ∧ (updCtx s n f).gong = s.gong ∧ (updCtx s n f).toc = s.toc ∧ (updCtx s n f).sec = s.sec ∧
    (updCtx s n f).peal = s.peal ∧ (updCtx s n f).flows = s.flows ∧ (updCtx s n f).keys = s.keys ∧ (updCtx s n f).portMode = s.portMode ∧
    (updCtx s n f).excWin = s.excWin ∧ (updCtx s n f).stms = s.stms ∧ (updCtx s n f).decs = s.decs ∧ (updCtx s n f).adaptIn = s.adaptIn ∧
    (updCtx s n f).gates = s.gates ∧ (updCtx s n f).sframes = s.sframes ∧ (updCtx s n f).pipes = s.pipes ∧ (updCtx s n f).rjobs = s.rjobs ∧
    (updCtx s n f).ringAt = s.ringAt ∧ (updCtx s n f).clave = s.clave ∧ (updCtx s n f).claveLast = s.claveLast ∧ (updCtx s n f).leases = s.leases ∧
    (updCtx s n f).returns = s.returns ∧ (updCtx s n f).seqs = s.seqs ∧ (updCtx s n f).engs = s.engs ∧ (updCtx s n f).cores = s.cores ∧
    (updCtx s n f).batches = s.batches ∧ (updCtx s n f).sets = s.sets ∧ (updCtx s n f).outlets = s.outlets ∧ (updCtx s n f).staging = s.staging ∧
    (updCtx s n f).stageAt = s.stageAt ∧ (updCtx s n f).fwBlk = s.fwBlk ∧ (updCtx s n f).evids = s.evids ∧ (updCtx s n f).encs = s.encs ∧
    (updCtx s n f).snaps = s.snaps ∧ (updCtx s n f).encCpl = s.encCpl ∧ (updCtx s n f).ajobs = s.ajobs ∧ (updCtx s n f).out = s.out ∧
    (updCtx s n f).free = s.free := by
  obtain ⟨_, h⟩ := updCtx_frame s n f
  rw [h]
  exact ⟨rfl, rfl, rfl, rfl, rfl, rfl, rfl, rfl, rfl, rfl, rfl, rfl, rfl, rfl, rfl, rfl, rfl, rfl, rfl, rfl, rfl, rfl, rfl, rfl, rfl, rfl, rfl, rfl, rfl, rfl, rfl, rfl, rfl, rfl, rfl, rfl, rfl, rfl, rfl, rfl, rfl, rfl, rfl, rfl, rfl, rfl, rfl, rfl, rfl, rfl, rfl, rfl, rfl⟩

/-- Everything that `startTeardown` can change. -/
theorem startTeardown_frame (s : State) (n code : Nat) (killed : Bool) :
    ∃ x0, startTeardown s n code killed = { s with ctxs := x0 } := ⟨_, rfl⟩

@[simp] theorem startTeardown_same (s : State) (n code : Nat) (killed : Bool) :
    (startTeardown s n code killed).pending = s.pending ∧ (startTeardown s n code killed).part = s.part ∧ (startTeardown s n code killed).tb = s.tb ∧ (startTeardown s n code killed).blks = s.blks ∧
    (startTeardown s n code killed).regs = s.regs ∧ (startTeardown s n code killed).rvs = s.rvs ∧ (startTeardown s n code killed).latch = s.latch ∧ (startTeardown s n code killed).ports = s.ports ∧
    (startTeardown s n code killed).life = s.life ∧ (startTeardown s n code killed).mem = s.mem ∧ (startTeardown s n code killed).pcieMem = s.pcieMem ∧ (startTeardown s n code killed).ecc = s.ecc ∧
    (startTeardown s n code killed).models = s.models ∧ (startTeardown s n code killed).car = s.car ∧ (startTeardown s n code killed).ket = s.ket ∧ (startTeardown s n code killed).chans = s.chans ∧
    (startTeardown s n code killed).pcie = s.pcie ∧ (startTeardown s n code killed).gong = s.gong ∧ (startTeardown s n code killed).toc = s.toc ∧ (startTeardown s n code killed).sec = s.sec ∧
    (startTeardown s n code killed).peal = s.peal ∧ (startTeardown s n code killed).flows = s.flows ∧ (startTeardown s n code killed).keys = s.keys ∧ (startTeardown s n code killed).portMode = s.portMode ∧
    (startTeardown s n code killed).excWin = s.excWin ∧ (startTeardown s n code killed).stms = s.stms ∧ (startTeardown s n code killed).decs = s.decs ∧ (startTeardown s n code killed).adaptIn = s.adaptIn ∧
    (startTeardown s n code killed).gates = s.gates ∧ (startTeardown s n code killed).sframes = s.sframes ∧ (startTeardown s n code killed).pipes = s.pipes ∧ (startTeardown s n code killed).rjobs = s.rjobs ∧
    (startTeardown s n code killed).ringAt = s.ringAt ∧ (startTeardown s n code killed).clave = s.clave ∧ (startTeardown s n code killed).claveLast = s.claveLast ∧ (startTeardown s n code killed).leases = s.leases ∧
    (startTeardown s n code killed).returns = s.returns ∧ (startTeardown s n code killed).seqs = s.seqs ∧ (startTeardown s n code killed).engs = s.engs ∧ (startTeardown s n code killed).cores = s.cores ∧
    (startTeardown s n code killed).batches = s.batches ∧ (startTeardown s n code killed).sets = s.sets ∧ (startTeardown s n code killed).outlets = s.outlets ∧ (startTeardown s n code killed).staging = s.staging ∧
    (startTeardown s n code killed).stageAt = s.stageAt ∧ (startTeardown s n code killed).fwBlk = s.fwBlk ∧ (startTeardown s n code killed).evids = s.evids ∧ (startTeardown s n code killed).encs = s.encs ∧
    (startTeardown s n code killed).snaps = s.snaps ∧ (startTeardown s n code killed).encCpl = s.encCpl ∧ (startTeardown s n code killed).ajobs = s.ajobs ∧ (startTeardown s n code killed).out = s.out ∧
    (startTeardown s n code killed).free = s.free := by
  obtain ⟨_, h⟩ := startTeardown_frame s n code killed
  rw [h]
  exact ⟨rfl, rfl, rfl, rfl, rfl, rfl, rfl, rfl, rfl, rfl, rfl, rfl, rfl, rfl, rfl, rfl, rfl, rfl, rfl, rfl, rfl, rfl, rfl, rfl, rfl, rfl, rfl, rfl, rfl, rfl, rfl, rfl, rfl, rfl, rfl, rfl, rfl, rfl, rfl, rfl, rfl, rfl, rfl, rfl, rfl, rfl, rfl, rfl, rfl, rfl, rfl, rfl, rfl⟩

/-- Everything that `wrMem` can change. -/
theorem wrMem_frame (s : State) (a : Nat) (l : List Byte) :
    ∃ x0, wrMem s a l = { s with mem := x0 } := ⟨_, rfl⟩

@[simp] theorem wrMem_same (s : State) (a : Nat) (l : List Byte) :
    (wrMem s a l).pending = s.pending ∧ (wrMem s a l).part = s.part ∧ (wrMem s a l).tb = s.tb ∧ (wrMem s a l).blks = s.blks ∧
    (wrMem s a l).regs = s.regs ∧ (wrMem s a l).rvs = s.rvs ∧ (wrMem s a l).latch = s.latch ∧ (wrMem s a l).ports = s.ports ∧
    (wrMem s a l).life = s.life ∧ (wrMem s a l).pcieMem = s.pcieMem ∧ (wrMem s a l).ecc = s.ecc ∧ (wrMem s a l).ctxs = s.ctxs ∧
    (wrMem s a l).models = s.models ∧ (wrMem s a l).car = s.car ∧ (wrMem s a l).ket = s.ket ∧ (wrMem s a l).chans = s.chans ∧
    (wrMem s a l).pcie = s.pcie ∧ (wrMem s a l).gong = s.gong ∧ (wrMem s a l).toc = s.toc ∧ (wrMem s a l).sec = s.sec ∧
    (wrMem s a l).peal = s.peal ∧ (wrMem s a l).flows = s.flows ∧ (wrMem s a l).keys = s.keys ∧ (wrMem s a l).portMode = s.portMode ∧
    (wrMem s a l).excWin = s.excWin ∧ (wrMem s a l).stms = s.stms ∧ (wrMem s a l).decs = s.decs ∧ (wrMem s a l).adaptIn = s.adaptIn ∧
    (wrMem s a l).gates = s.gates ∧ (wrMem s a l).sframes = s.sframes ∧ (wrMem s a l).pipes = s.pipes ∧ (wrMem s a l).rjobs = s.rjobs ∧
    (wrMem s a l).ringAt = s.ringAt ∧ (wrMem s a l).clave = s.clave ∧ (wrMem s a l).claveLast = s.claveLast ∧ (wrMem s a l).leases = s.leases ∧
    (wrMem s a l).returns = s.returns ∧ (wrMem s a l).seqs = s.seqs ∧ (wrMem s a l).engs = s.engs ∧ (wrMem s a l).cores = s.cores ∧
    (wrMem s a l).batches = s.batches ∧ (wrMem s a l).sets = s.sets ∧ (wrMem s a l).outlets = s.outlets ∧ (wrMem s a l).staging = s.staging ∧
    (wrMem s a l).stageAt = s.stageAt ∧ (wrMem s a l).fwBlk = s.fwBlk ∧ (wrMem s a l).evids = s.evids ∧ (wrMem s a l).encs = s.encs ∧
    (wrMem s a l).snaps = s.snaps ∧ (wrMem s a l).encCpl = s.encCpl ∧ (wrMem s a l).ajobs = s.ajobs ∧ (wrMem s a l).out = s.out ∧
    (wrMem s a l).free = s.free := by
  obtain ⟨_, h⟩ := wrMem_frame s a l
  rw [h]
  exact ⟨rfl, rfl, rfl, rfl, rfl, rfl, rfl, rfl, rfl, rfl, rfl, rfl, rfl, rfl, rfl, rfl, rfl, rfl, rfl, rfl, rfl, rfl, rfl, rfl, rfl, rfl, rfl, rfl, rfl, rfl, rfl, rfl, rfl, rfl, rfl, rfl, rfl, rfl, rfl, rfl, rfl, rfl, rfl, rfl, rfl, rfl, rfl, rfl, rfl, rfl, rfl, rfl, rfl⟩

/-- Everything that `setChan` can change. -/
theorem setChan_frame (s : State) (c : Nat) (x : Chan) :
    ∃ x0, setChan s c x = { s with chans := x0 } := ⟨_, rfl⟩

@[simp] theorem setChan_same (s : State) (c : Nat) (x : Chan) :
    (setChan s c x).pending = s.pending ∧ (setChan s c x).part = s.part ∧ (setChan s c x).tb = s.tb ∧ (setChan s c x).blks = s.blks ∧
    (setChan s c x).regs = s.regs ∧ (setChan s c x).rvs = s.rvs ∧ (setChan s c x).latch = s.latch ∧ (setChan s c x).ports = s.ports ∧
    (setChan s c x).life = s.life ∧ (setChan s c x).mem = s.mem ∧ (setChan s c x).pcieMem = s.pcieMem ∧ (setChan s c x).ecc = s.ecc ∧
    (setChan s c x).ctxs = s.ctxs ∧ (setChan s c x).models = s.models ∧ (setChan s c x).car = s.car ∧ (setChan s c x).ket = s.ket ∧
    (setChan s c x).pcie = s.pcie ∧ (setChan s c x).gong = s.gong ∧ (setChan s c x).toc = s.toc ∧ (setChan s c x).sec = s.sec ∧
    (setChan s c x).peal = s.peal ∧ (setChan s c x).flows = s.flows ∧ (setChan s c x).keys = s.keys ∧ (setChan s c x).portMode = s.portMode ∧
    (setChan s c x).excWin = s.excWin ∧ (setChan s c x).stms = s.stms ∧ (setChan s c x).decs = s.decs ∧ (setChan s c x).adaptIn = s.adaptIn ∧
    (setChan s c x).gates = s.gates ∧ (setChan s c x).sframes = s.sframes ∧ (setChan s c x).pipes = s.pipes ∧ (setChan s c x).rjobs = s.rjobs ∧
    (setChan s c x).ringAt = s.ringAt ∧ (setChan s c x).clave = s.clave ∧ (setChan s c x).claveLast = s.claveLast ∧ (setChan s c x).leases = s.leases ∧
    (setChan s c x).returns = s.returns ∧ (setChan s c x).seqs = s.seqs ∧ (setChan s c x).engs = s.engs ∧ (setChan s c x).cores = s.cores ∧
    (setChan s c x).batches = s.batches ∧ (setChan s c x).sets = s.sets ∧ (setChan s c x).outlets = s.outlets ∧ (setChan s c x).staging = s.staging ∧
    (setChan s c x).stageAt = s.stageAt ∧ (setChan s c x).fwBlk = s.fwBlk ∧ (setChan s c x).evids = s.evids ∧ (setChan s c x).encs = s.encs ∧
    (setChan s c x).snaps = s.snaps ∧ (setChan s c x).encCpl = s.encCpl ∧ (setChan s c x).ajobs = s.ajobs ∧ (setChan s c x).out = s.out ∧
    (setChan s c x).free = s.free := by
  obtain ⟨_, h⟩ := setChan_frame s c x
  rw [h]
  exact ⟨rfl, rfl, rfl, rfl, rfl, rfl, rfl, rfl, rfl, rfl, rfl, rfl, rfl, rfl, rfl, rfl, rfl, rfl, rfl, rfl, rfl, rfl, rfl, rfl, rfl, rfl, rfl, rfl, rfl, rfl, rfl, rfl, rfl, rfl, rfl, rfl, rfl, rfl, rfl, rfl, rfl, rfl, rfl, rfl, rfl, rfl, rfl, rfl, rfl, rfl, rfl, rfl, rfl⟩

/-- Everything that `setPortQ` can change. -/
theorem setPortQ_frame (s : State) (p : Port) (q : List PCmd) :
    ∃ x0, setPortQ s p q = { s with ports := x0 } := ⟨_, rfl⟩

@[simp] theorem setPortQ_same (s : State) (p : Port) (q : List PCmd) :
    (setPortQ s p q).pending = s.pending ∧ (setPortQ s p q).part = s.part ∧ (setPortQ s p q).tb = s.tb ∧ (setPortQ s p q).blks = s.blks ∧
    (setPortQ s p q).regs = s.regs ∧ (setPortQ s p q).rvs = s.rvs ∧ (setPortQ s p q).latch = s.latch ∧ (setPortQ s p q).life = s.life ∧
    (setPortQ s p q).mem = s.mem ∧ (setPortQ s p q).pcieMem = s.pcieMem ∧ (setPortQ s p q).ecc = s.ecc ∧ (setPortQ s p q).ctxs = s.ctxs ∧
    (setPortQ s p q).models = s.models ∧ (setPortQ s p q).car = s.car ∧ (setPortQ s p q).ket = s.ket ∧ (setPortQ s p q).chans = s.chans ∧
    (setPortQ s p q).pcie = s.pcie ∧ (setPortQ s p q).gong = s.gong ∧ (setPortQ s p q).toc = s.toc ∧ (setPortQ s p q).sec = s.sec ∧
    (setPortQ s p q).peal = s.peal ∧ (setPortQ s p q).flows = s.flows ∧ (setPortQ s p q).keys = s.keys ∧ (setPortQ s p q).portMode = s.portMode ∧
    (setPortQ s p q).excWin = s.excWin ∧ (setPortQ s p q).stms = s.stms ∧ (setPortQ s p q).decs = s.decs ∧ (setPortQ s p q).adaptIn = s.adaptIn ∧
    (setPortQ s p q).gates = s.gates ∧ (setPortQ s p q).sframes = s.sframes ∧ (setPortQ s p q).pipes = s.pipes ∧ (setPortQ s p q).rjobs = s.rjobs ∧
    (setPortQ s p q).ringAt = s.ringAt ∧ (setPortQ s p q).clave = s.clave ∧ (setPortQ s p q).claveLast = s.claveLast ∧ (setPortQ s p q).leases = s.leases ∧
    (setPortQ s p q).returns = s.returns ∧ (setPortQ s p q).seqs = s.seqs ∧ (setPortQ s p q).engs = s.engs ∧ (setPortQ s p q).cores = s.cores ∧
    (setPortQ s p q).batches = s.batches ∧ (setPortQ s p q).sets = s.sets ∧ (setPortQ s p q).outlets = s.outlets ∧ (setPortQ s p q).staging = s.staging ∧
    (setPortQ s p q).stageAt = s.stageAt ∧ (setPortQ s p q).fwBlk = s.fwBlk ∧ (setPortQ s p q).evids = s.evids ∧ (setPortQ s p q).encs = s.encs ∧
    (setPortQ s p q).snaps = s.snaps ∧ (setPortQ s p q).encCpl = s.encCpl ∧ (setPortQ s p q).ajobs = s.ajobs ∧ (setPortQ s p q).out = s.out ∧
    (setPortQ s p q).free = s.free := by
  obtain ⟨_, h⟩ := setPortQ_frame s p q
  rw [h]
  exact ⟨rfl, rfl, rfl, rfl, rfl, rfl, rfl, rfl, rfl, rfl, rfl, rfl, rfl, rfl, rfl, rfl, rfl, rfl, rfl, rfl, rfl, rfl, rfl, rfl, rfl, rfl, rfl, rfl, rfl, rfl, rfl, rfl, rfl, rfl, rfl, rfl, rfl, rfl, rfl, rfl, rfl, rfl, rfl, rfl, rfl, rfl, rfl, rfl, rfl, rfl, rfl, rfl, rfl⟩

/-- Everything that `portResult` can change. -/
theorem portResult_frame (s : State) (p : Port) (tag code detail : Nat) :
    ∃ x0, portResult s p tag code detail = { s with regs := x0 } := ⟨_, rfl⟩

@[simp] theorem portResult_same (s : State) (p : Port) (tag code detail : Nat) :
    (portResult s p tag code detail).pending = s.pending ∧ (portResult s p tag code detail).part = s.part ∧ (portResult s p tag code detail).tb = s.tb ∧ (portResult s p tag code detail).blks = s.blks ∧
    (portResult s p tag code detail).rvs = s.rvs ∧ (portResult s p tag code detail).latch = s.latch ∧ (portResult s p tag code detail).ports = s.ports ∧ (portResult s p tag code detail).life = s.life ∧
    (portResult s p tag code detail).mem = s.mem ∧ (portResult s p tag code detail).pcieMem = s.pcieMem ∧ (portResult s p tag code detail).ecc = s.ecc ∧ (portResult s p tag code detail).ctxs = s.ctxs ∧
    (portResult s p tag code detail).models = s.models ∧ (portResult s p tag code detail).car = s.car ∧ (portResult s p tag code detail).ket = s.ket ∧ (portResult s p tag code detail).chans = s.chans ∧
    (portResult s p tag code detail).pcie = s.pcie ∧ (portResult s p tag code detail).gong = s.gong ∧ (portResult s p tag code detail).toc = s.toc ∧ (portResult s p tag code detail).sec = s.sec ∧
    (portResult s p tag code detail).peal = s.peal ∧ (portResult s p tag code detail).flows = s.flows ∧ (portResult s p tag code detail).keys = s.keys ∧ (portResult s p tag code detail).portMode = s.portMode ∧
    (portResult s p tag code detail).excWin = s.excWin ∧ (portResult s p tag code detail).stms = s.stms ∧ (portResult s p tag code detail).decs = s.decs ∧ (portResult s p tag code detail).adaptIn = s.adaptIn ∧
    (portResult s p tag code detail).gates = s.gates ∧ (portResult s p tag code detail).sframes = s.sframes ∧ (portResult s p tag code detail).pipes = s.pipes ∧ (portResult s p tag code detail).rjobs = s.rjobs ∧
    (portResult s p tag code detail).ringAt = s.ringAt ∧ (portResult s p tag code detail).clave = s.clave ∧ (portResult s p tag code detail).claveLast = s.claveLast ∧ (portResult s p tag code detail).leases = s.leases ∧
    (portResult s p tag code detail).returns = s.returns ∧ (portResult s p tag code detail).seqs = s.seqs ∧ (portResult s p tag code detail).engs = s.engs ∧ (portResult s p tag code detail).cores = s.cores ∧
    (portResult s p tag code detail).batches = s.batches ∧ (portResult s p tag code detail).sets = s.sets ∧ (portResult s p tag code detail).outlets = s.outlets ∧ (portResult s p tag code detail).staging = s.staging ∧
    (portResult s p tag code detail).stageAt = s.stageAt ∧ (portResult s p tag code detail).fwBlk = s.fwBlk ∧ (portResult s p tag code detail).evids = s.evids ∧ (portResult s p tag code detail).encs = s.encs ∧
    (portResult s p tag code detail).snaps = s.snaps ∧ (portResult s p tag code detail).encCpl = s.encCpl ∧ (portResult s p tag code detail).ajobs = s.ajobs ∧ (portResult s p tag code detail).out = s.out ∧
    (portResult s p tag code detail).free = s.free := by
  obtain ⟨_, h⟩ := portResult_frame s p tag code detail
  rw [h]
  exact ⟨rfl, rfl, rfl, rfl, rfl, rfl, rfl, rfl, rfl, rfl, rfl, rfl, rfl, rfl, rfl, rfl, rfl, rfl, rfl, rfl, rfl, rfl, rfl, rfl, rfl, rfl, rfl, rfl, rfl, rfl, rfl, rfl, rfl, rfl, rfl, rfl, rfl, rfl, rfl, rfl, rfl, rfl, rfl, rfl, rfl, rfl, rfl, rfl, rfl, rfl, rfl, rfl, rfl⟩

/-- Everything that `report` can change. -/
theorem report_frame (s : State) (kind detail : Nat) :
    ∃ x0, report s kind detail = { s with out := x0 } := ⟨_, rfl⟩

@[simp] theorem report_same (s : State) (kind detail : Nat) :
    (report s kind detail).pending = s.pending ∧ (report s kind detail).part = s.part ∧ (report s kind detail).tb = s.tb ∧ (report s kind detail).blks = s.blks ∧
    (report s kind detail).regs = s.regs ∧ (report s kind detail).rvs = s.rvs ∧ (report s kind detail).latch = s.latch ∧ (report s kind detail).ports = s.ports ∧
    (report s kind detail).life = s.life ∧ (report s kind detail).mem = s.mem ∧ (report s kind detail).pcieMem = s.pcieMem ∧ (report s kind detail).ecc = s.ecc ∧
    (report s kind detail).ctxs = s.ctxs ∧ (report s kind detail).models = s.models ∧ (report s kind detail).car = s.car ∧ (report s kind detail).ket = s.ket ∧
    (report s kind detail).chans = s.chans ∧ (report s kind detail).pcie = s.pcie ∧ (report s kind detail).gong = s.gong ∧ (report s kind detail).toc = s.toc ∧
    (report s kind detail).sec = s.sec ∧ (report s kind detail).peal = s.peal ∧ (report s kind detail).flows = s.flows ∧ (report s kind detail).keys = s.keys ∧
    (report s kind detail).portMode = s.portMode ∧ (report s kind detail).excWin = s.excWin ∧ (report s kind detail).stms = s.stms ∧ (report s kind detail).decs = s.decs ∧
    (report s kind detail).adaptIn = s.adaptIn ∧ (report s kind detail).gates = s.gates ∧ (report s kind detail).sframes = s.sframes ∧ (report s kind detail).pipes = s.pipes ∧
    (report s kind detail).rjobs = s.rjobs ∧ (report s kind detail).ringAt = s.ringAt ∧ (report s kind detail).clave = s.clave ∧ (report s kind detail).claveLast = s.claveLast ∧
    (report s kind detail).leases = s.leases ∧ (report s kind detail).returns = s.returns ∧ (report s kind detail).seqs = s.seqs ∧ (report s kind detail).engs = s.engs ∧
    (report s kind detail).cores = s.cores ∧ (report s kind detail).batches = s.batches ∧ (report s kind detail).sets = s.sets ∧ (report s kind detail).outlets = s.outlets ∧
    (report s kind detail).staging = s.staging ∧ (report s kind detail).stageAt = s.stageAt ∧ (report s kind detail).fwBlk = s.fwBlk ∧ (report s kind detail).evids = s.evids ∧
    (report s kind detail).encs = s.encs ∧ (report s kind detail).snaps = s.snaps ∧ (report s kind detail).encCpl = s.encCpl ∧ (report s kind detail).ajobs = s.ajobs ∧
    (report s kind detail).free = s.free := by
  obtain ⟨_, h⟩ := report_frame s kind detail
  rw [h]
  exact ⟨rfl, rfl, rfl, rfl, rfl, rfl, rfl, rfl, rfl, rfl, rfl, rfl, rfl, rfl, rfl, rfl, rfl, rfl, rfl, rfl, rfl, rfl, rfl, rfl, rfl, rfl, rfl, rfl, rfl, rfl, rfl, rfl, rfl, rfl, rfl, rfl, rfl, rfl, rfl, rfl, rfl, rfl, rfl, rfl, rfl, rfl, rfl, rfl, rfl, rfl, rfl, rfl, rfl⟩

/-- Everything that `putRegsL` can change. -/
theorem putRegsL_frame (s : State) (page : Nat) (o : Nat) (l : List Word) :
    ∃ x0, putRegsL s page o l = { s with regs := x0 } := by
  induction l generalizing s o with
  | nil => exact ⟨s.regs, rfl⟩
  | cons w t ih =>
    obtain ⟨r, h⟩ := ih (putR s page o w) (o + 4)
    exact ⟨r, by rw [putRegsL, h]; rfl⟩

@[simp] theorem putRegsL_same (s : State) (page : Nat) (o : Nat) (l : List Word) :
    (putRegsL s page o l).pending = s.pending ∧ (putRegsL s page o l).part = s.part ∧ (putRegsL s page o l).tb = s.tb ∧ (putRegsL s page o l).blks = s.blks ∧
    (putRegsL s page o l).rvs = s.rvs ∧ (putRegsL s page o l).latch = s.latch ∧ (putRegsL s page o l).ports = s.ports ∧ (putRegsL s page o l).life = s.life ∧
    (putRegsL s page o l).mem = s.mem ∧ (putRegsL s page o l).pcieMem = s.pcieMem ∧ (putRegsL s page o l).ecc = s.ecc ∧ (putRegsL s page o l).ctxs = s.ctxs ∧
    (putRegsL s page o l).models = s.models ∧ (putRegsL s page o l).car = s.car ∧ (putRegsL s page o l).ket = s.ket ∧ (putRegsL s page o l).chans = s.chans ∧
    (putRegsL s page o l).pcie = s.pcie ∧ (putRegsL s page o l).gong = s.gong ∧ (putRegsL s page o l).toc = s.toc ∧ (putRegsL s page o l).sec = s.sec ∧
    (putRegsL s page o l).peal = s.peal ∧ (putRegsL s page o l).flows = s.flows ∧ (putRegsL s page o l).keys = s.keys ∧ (putRegsL s page o l).portMode = s.portMode ∧
    (putRegsL s page o l).excWin = s.excWin ∧ (putRegsL s page o l).stms = s.stms ∧ (putRegsL s page o l).decs = s.decs ∧ (putRegsL s page o l).adaptIn = s.adaptIn ∧
    (putRegsL s page o l).gates = s.gates ∧ (putRegsL s page o l).sframes = s.sframes ∧ (putRegsL s page o l).pipes = s.pipes ∧ (putRegsL s page o l).rjobs = s.rjobs ∧
    (putRegsL s page o l).ringAt = s.ringAt ∧ (putRegsL s page o l).clave = s.clave ∧ (putRegsL s page o l).claveLast = s.claveLast ∧ (putRegsL s page o l).leases = s.leases ∧
    (putRegsL s page o l).returns = s.returns ∧ (putRegsL s page o l).seqs = s.seqs ∧ (putRegsL s page o l).engs = s.engs ∧ (putRegsL s page o l).cores = s.cores ∧
    (putRegsL s page o l).batches = s.batches ∧ (putRegsL s page o l).sets = s.sets ∧ (putRegsL s page o l).outlets = s.outlets ∧ (putRegsL s page o l).staging = s.staging ∧
    (putRegsL s page o l).stageAt = s.stageAt ∧ (putRegsL s page o l).fwBlk = s.fwBlk ∧ (putRegsL s page o l).evids = s.evids ∧ (putRegsL s page o l).encs = s.encs ∧
    (putRegsL s page o l).snaps = s.snaps ∧ (putRegsL s page o l).encCpl = s.encCpl ∧ (putRegsL s page o l).ajobs = s.ajobs ∧ (putRegsL s page o l).out = s.out ∧
    (putRegsL s page o l).free = s.free := by
  obtain ⟨_, h⟩ := putRegsL_frame s page o l
  rw [h]
  exact ⟨rfl, rfl, rfl, rfl, rfl, rfl, rfl, rfl, rfl, rfl, rfl, rfl, rfl, rfl, rfl, rfl, rfl, rfl, rfl, rfl, rfl, rfl, rfl, rfl, rfl, rfl, rfl, rfl, rfl, rfl, rfl, rfl, rfl, rfl, rfl, rfl, rfl, rfl, rfl, rfl, rfl, rfl, rfl, rfl, rfl, rfl, rfl, rfl, rfl, rfl, rfl, rfl, rfl⟩

/-- Everything that `putRec` can change. -/
theorem putRec_frame (s : State) (page ofs : Nat) (l : List Byte) :
    ∃ x0, putRec s page ofs l = { s with regs := x0 } := putRegsL_frame s page ofs (toWords l)

@[simp] theorem putRec_same (s : State) (page ofs : Nat) (l : List Byte) :
    (putRec s page ofs l).pending = s.pending ∧ (putRec s page ofs l).part = s.part ∧ (putRec s page ofs l).tb = s.tb ∧ (putRec s page ofs l).blks = s.blks ∧
    (putRec s page ofs l).rvs = s.rvs ∧ (putRec s page ofs l).latch = s.latch ∧ (putRec s page ofs l).ports = s.ports ∧ (putRec s page ofs l).life = s.life ∧
    (putRec s page ofs l).mem = s.mem ∧ (putRec s page ofs l).pcieMem = s.pcieMem ∧ (putRec s page ofs l).ecc = s.ecc ∧ (putRec s page ofs l).ctxs = s.ctxs ∧
    (putRec s page ofs l).models = s.models ∧ (putRec s page ofs l).car = s.car ∧ (putRec s page ofs l).ket = s.ket ∧ (putRec s page ofs l).chans = s.chans ∧
    (putRec s page ofs l).pcie = s.pcie ∧ (putRec s page ofs l).gong = s.gong ∧ (putRec s page ofs l).toc = s.toc ∧ (putRec s page ofs l).sec = s.sec ∧
    (putRec s page ofs l).peal = s.peal ∧ (putRec s page ofs l).flows = s.flows ∧ (putRec s page ofs l).keys = s.keys ∧ (putRec s page ofs l).portMode = s.portMode ∧
    (putRec s page ofs l).excWin = s.excWin ∧ (putRec s page ofs l).stms = s.stms ∧ (putRec s page ofs l).decs = s.decs ∧ (putRec s page ofs l).adaptIn = s.adaptIn ∧
    (putRec s page ofs l).gates = s.gates ∧ (putRec s page ofs l).sframes = s.sframes ∧ (putRec s page ofs l).pipes = s.pipes ∧ (putRec s page ofs l).rjobs = s.rjobs ∧
    (putRec s page ofs l).ringAt = s.ringAt ∧ (putRec s page ofs l).clave = s.clave ∧ (putRec s page ofs l).claveLast = s.claveLast ∧ (putRec s page ofs l).leases = s.leases ∧
    (putRec s page ofs l).returns = s.returns ∧ (putRec s page ofs l).seqs = s.seqs ∧ (putRec s page ofs l).engs = s.engs ∧ (putRec s page ofs l).cores = s.cores ∧
    (putRec s page ofs l).batches = s.batches ∧ (putRec s page ofs l).sets = s.sets ∧ (putRec s page ofs l).outlets = s.outlets ∧ (putRec s page ofs l).staging = s.staging ∧
    (putRec s page ofs l).stageAt = s.stageAt ∧ (putRec s page ofs l).fwBlk = s.fwBlk ∧ (putRec s page ofs l).evids = s.evids ∧ (putRec s page ofs l).encs = s.encs ∧
    (putRec s page ofs l).snaps = s.snaps ∧ (putRec s page ofs l).encCpl = s.encCpl ∧ (putRec s page ofs l).ajobs = s.ajobs ∧ (putRec s page ofs l).out = s.out ∧
    (putRec s page ofs l).free = s.free := by
  obtain ⟨_, h⟩ := putRec_frame s page ofs l
  rw [h]
  exact ⟨rfl, rfl, rfl, rfl, rfl, rfl, rfl, rfl, rfl, rfl, rfl, rfl, rfl, rfl, rfl, rfl, rfl, rfl, rfl, rfl, rfl, rfl, rfl, rfl, rfl, rfl, rfl, rfl, rfl, rfl, rfl, rfl, rfl, rfl, rfl, rfl, rfl, rfl, rfl, rfl, rfl, rfl, rfl, rfl, rfl, rfl, rfl, rfl, rfl, rfl, rfl, rfl, rfl⟩

/-- Everything that `portStatus` can change. -/
theorem portStatus_frame (s : State) (p : Port) (l : List Byte) :
    ∃ x0, portStatus s p l = { s with regs := x0 } := putRec_frame s p.page p.statusOfs l

@[simp] theorem portStatus_same (s : State) (p : Port) (l : List Byte) :
    (portStatus s p l).pending = s.pending ∧ (portStatus s p l).part = s.part ∧ (portStatus s p l).tb = s.tb ∧ (portStatus s p l).blks = s.blks ∧
    (portStatus s p l).rvs = s.rvs ∧ (portStatus s p l).latch = s.latch ∧ (portStatus s p l).ports = s.ports ∧ (portStatus s p l).life = s.life ∧
    (portStatus s p l).mem = s.mem ∧ (portStatus s p l).pcieMem = s.pcieMem ∧ (portStatus s p l).ecc = s.ecc ∧ (portStatus s p l).ctxs = s.ctxs ∧
    (portStatus s p l).models = s.models ∧ (portStatus s p l).car = s.car ∧ (portStatus s p l).ket = s.ket ∧ (portStatus s p l).chans = s.chans ∧
    (portStatus s p l).pcie = s.pcie ∧ (portStatus s p l).gong = s.gong ∧ (portStatus s p l).toc = s.toc ∧ (portStatus s p l).sec = s.sec ∧
    (portStatus s p l).peal = s.peal ∧ (portStatus s p l).flows = s.flows ∧ (portStatus s p l).keys = s.keys ∧ (portStatus s p l).portMode = s.portMode ∧
    (portStatus s p l).excWin = s.excWin ∧ (portStatus s p l).stms = s.stms ∧ (portStatus s p l).decs = s.decs ∧ (portStatus s p l).adaptIn = s.adaptIn ∧
    (portStatus s p l).gates = s.gates ∧ (portStatus s p l).sframes = s.sframes ∧ (portStatus s p l).pipes = s.pipes ∧ (portStatus s p l).rjobs = s.rjobs ∧
    (portStatus s p l).ringAt = s.ringAt ∧ (portStatus s p l).clave = s.clave ∧ (portStatus s p l).claveLast = s.claveLast ∧ (portStatus s p l).leases = s.leases ∧
    (portStatus s p l).returns = s.returns ∧ (portStatus s p l).seqs = s.seqs ∧ (portStatus s p l).engs = s.engs ∧ (portStatus s p l).cores = s.cores ∧
    (portStatus s p l).batches = s.batches ∧ (portStatus s p l).sets = s.sets ∧ (portStatus s p l).outlets = s.outlets ∧ (portStatus s p l).staging = s.staging ∧
    (portStatus s p l).stageAt = s.stageAt ∧ (portStatus s p l).fwBlk = s.fwBlk ∧ (portStatus s p l).evids = s.evids ∧ (portStatus s p l).encs = s.encs ∧
    (portStatus s p l).snaps = s.snaps ∧ (portStatus s p l).encCpl = s.encCpl ∧ (portStatus s p l).ajobs = s.ajobs ∧ (portStatus s p l).out = s.out ∧
    (portStatus s p l).free = s.free := by
  obtain ⟨_, h⟩ := portStatus_frame s p l
  rw [h]
  exact ⟨rfl, rfl, rfl, rfl, rfl, rfl, rfl, rfl, rfl, rfl, rfl, rfl, rfl, rfl, rfl, rfl, rfl, rfl, rfl, rfl, rfl, rfl, rfl, rfl, rfl, rfl, rfl, rfl, rfl, rfl, rfl, rfl, rfl, rfl, rfl, rfl, rfl, rfl, rfl, rfl, rfl, rfl, rfl, rfl, rfl, rfl, rfl, rfl, rfl, rfl, rfl, rfl, rfl⟩

/-- Everything that `msixSend` can change. -/
theorem msixSend_frame (s : State) (v : Nat) :
    ∃ x0 x1, msixSend s v = { s with pcie := x0, out := x1 } := by
  unfold msixSend
  dsimp only
  split
  · exact ⟨_, _, rfl⟩
  · exact ⟨_, _, rfl⟩

@[simp] theorem msixSend_same (s : State) (v : Nat) :
    (msixSend s v).pending = s.pending ∧ (msixSend s v).part = s.part ∧ (msixSend s v).tb = s.tb ∧ (msixSend s v).blks = s.blks ∧
    (msixSend s v).regs = s.regs ∧ (msixSend s v).rvs = s.rvs ∧ (msixSend s v).latch = s.latch ∧ (msixSend s v).ports = s.ports ∧
    (msixSend s v).life = s.life ∧ (msixSend s v).mem = s.mem ∧ (msixSend s v).pcieMem = s.pcieMem ∧ (msixSend s v).ecc = s.ecc ∧
    (msixSend s v).ctxs = s.ctxs ∧ (msixSend s v).models = s.models ∧ (msixSend s v).car = s.car ∧ (msixSend s v).ket = s.ket ∧
    (msixSend s v).chans = s.chans ∧ (msixSend s v).gong = s.gong ∧ (msixSend s v).toc = s.toc ∧ (msixSend s v).sec = s.sec ∧
    (msixSend s v).peal = s.peal ∧ (msixSend s v).flows = s.flows ∧ (msixSend s v).keys = s.keys ∧ (msixSend s v).portMode = s.portMode ∧
    (msixSend s v).excWin = s.excWin ∧ (msixSend s v).stms = s.stms ∧ (msixSend s v).decs = s.decs ∧ (msixSend s v).adaptIn = s.adaptIn ∧
    (msixSend s v).gates = s.gates ∧ (msixSend s v).sframes = s.sframes ∧ (msixSend s v).pipes = s.pipes ∧ (msixSend s v).rjobs = s.rjobs ∧
    (msixSend s v).ringAt = s.ringAt ∧ (msixSend s v).clave = s.clave ∧ (msixSend s v).claveLast = s.claveLast ∧ (msixSend s v).leases = s.leases ∧
    (msixSend s v).returns = s.returns ∧ (msixSend s v).seqs = s.seqs ∧ (msixSend s v).engs = s.engs ∧ (msixSend s v).cores = s.cores ∧
    (msixSend s v).batches = s.batches ∧ (msixSend s v).sets = s.sets ∧ (msixSend s v).outlets = s.outlets ∧ (msixSend s v).staging = s.staging ∧
    (msixSend s v).stageAt = s.stageAt ∧ (msixSend s v).fwBlk = s.fwBlk ∧ (msixSend s v).evids = s.evids ∧ (msixSend s v).encs = s.encs ∧
    (msixSend s v).snaps = s.snaps ∧ (msixSend s v).encCpl = s.encCpl ∧ (msixSend s v).ajobs = s.ajobs ∧ (msixSend s v).free = s.free := by
  obtain ⟨_, _, h⟩ := msixSend_frame s v
  rw [h]
  exact ⟨rfl, rfl, rfl, rfl, rfl, rfl, rfl, rfl, rfl, rfl, rfl, rfl, rfl, rfl, rfl, rfl, rfl, rfl, rfl, rfl, rfl, rfl, rfl, rfl, rfl, rfl, rfl, rfl, rfl, rfl, rfl, rfl, rfl, rfl, rfl, rfl, rfl, rfl, rfl, rfl, rfl, rfl, rfl, rfl, rfl, rfl, rfl, rfl, rfl, rfl, rfl, rfl⟩

/-- Everything that `msixPme` can change. -/
theorem msixPme_frame (s : State) :
    ∃ x0 x1, msixPme s = { s with pcie := x0, out := x1 } := by
  unfold msixPme
  split
  · exact ⟨_, _, rfl⟩
  · exact ⟨s.pcie, s.out, rfl⟩

@[simp] theorem msixPme_same (s : State) :
    (msixPme s).pending = s.pending ∧ (msixPme s).part = s.part ∧ (msixPme s).tb = s.tb ∧ (msixPme s).blks = s.blks ∧
    (msixPme s).regs = s.regs ∧ (msixPme s).rvs = s.rvs ∧ (msixPme s).latch = s.latch ∧ (msixPme s).ports = s.ports ∧
    (msixPme s).life = s.life ∧ (msixPme s).mem = s.mem ∧ (msixPme s).pcieMem = s.pcieMem ∧ (msixPme s).ecc = s.ecc ∧
    (msixPme s).ctxs = s.ctxs ∧ (msixPme s).models = s.models ∧ (msixPme s).car = s.car ∧ (msixPme s).ket = s.ket ∧
    (msixPme s).chans = s.chans ∧ (msixPme s).gong = s.gong ∧ (msixPme s).toc = s.toc ∧ (msixPme s).sec = s.sec ∧
    (msixPme s).peal = s.peal ∧ (msixPme s).flows = s.flows ∧ (msixPme s).keys = s.keys ∧ (msixPme s).portMode = s.portMode ∧
    (msixPme s).excWin = s.excWin ∧ (msixPme s).stms = s.stms ∧ (msixPme s).decs = s.decs ∧ (msixPme s).adaptIn = s.adaptIn ∧
    (msixPme s).gates = s.gates ∧ (msixPme s).sframes = s.sframes ∧ (msixPme s).pipes = s.pipes ∧ (msixPme s).rjobs = s.rjobs ∧
    (msixPme s).ringAt = s.ringAt ∧ (msixPme s).clave = s.clave ∧ (msixPme s).claveLast = s.claveLast ∧ (msixPme s).leases = s.leases ∧
    (msixPme s).returns = s.returns ∧ (msixPme s).seqs = s.seqs ∧ (msixPme s).engs = s.engs ∧ (msixPme s).cores = s.cores ∧
    (msixPme s).batches = s.batches ∧ (msixPme s).sets = s.sets ∧ (msixPme s).outlets = s.outlets ∧ (msixPme s).staging = s.staging ∧
    (msixPme s).stageAt = s.stageAt ∧ (msixPme s).fwBlk = s.fwBlk ∧ (msixPme s).evids = s.evids ∧ (msixPme s).encs = s.encs ∧
    (msixPme s).snaps = s.snaps ∧ (msixPme s).encCpl = s.encCpl ∧ (msixPme s).ajobs = s.ajobs ∧ (msixPme s).free = s.free := by
  obtain ⟨_, _, h⟩ := msixPme_frame s
  rw [h]
  exact ⟨rfl, rfl, rfl, rfl, rfl, rfl, rfl, rfl, rfl, rfl, rfl, rfl, rfl, rfl, rfl, rfl, rfl, rfl, rfl, rfl, rfl, rfl, rfl, rfl, rfl, rfl, rfl, rfl, rfl, rfl, rfl, rfl, rfl, rfl, rfl, rfl, rfl, rfl, rfl, rfl, rfl, rfl, rfl, rfl, rfl, rfl, rfl, rfl, rfl, rfl, rfl, rfl⟩

/-- Everything that `msixTake` can change. -/
theorem msixTake_frame (s : State) (v : Nat) :
    ∃ x0 x1 x2, msixTake s v = { s with regs := x0, pcie := x1, out := x2 } := by
  unfold msixTake
  split
  · obtain ⟨p, o, h⟩ := msixPme_frame (pbaSet s v true)
    exact ⟨_, p, o, by rw [h]; rfl⟩
  · obtain ⟨p, o, h⟩ := msixSend_frame s v
    exact ⟨s.regs, p, o, by rw [h]⟩

@[simp] theorem msixTake_same (s : State) (v : Nat) :
    (msixTake s v).pending = s.pending ∧ (msixTake s v).part = s.part ∧ (msixTake s v).tb = s.tb ∧ (msixTake s v).blks = s.blks ∧
    (msixTake s v).rvs = s.rvs ∧ (msixTake s v).latch = s.latch ∧ (msixTake s v).ports = s.ports ∧ (msixTake s v).life = s.life ∧
    (msixTake s v).mem = s.mem ∧ (msixTake s v).pcieMem = s.pcieMem ∧ (msixTake s v).ecc = s.ecc ∧ (msixTake s v).ctxs = s.ctxs ∧
    (msixTake s v).models = s.models ∧ (msixTake s v).car = s.car ∧ (msixTake s v).ket = s.ket ∧ (msixTake s v).chans = s.chans ∧
    (msixTake s v).gong = s.gong ∧ (msixTake s v).toc = s.toc ∧ (msixTake s v).sec = s.sec ∧ (msixTake s v).peal = s.peal ∧
    (msixTake s v).flows = s.flows ∧ (msixTake s v).keys = s.keys ∧ (msixTake s v).portMode = s.portMode ∧ (msixTake s v).excWin = s.excWin ∧
    (msixTake s v).stms = s.stms ∧ (msixTake s v).decs = s.decs ∧ (msixTake s v).adaptIn = s.adaptIn ∧ (msixTake s v).gates = s.gates ∧
    (msixTake s v).sframes = s.sframes ∧ (msixTake s v).pipes = s.pipes ∧ (msixTake s v).rjobs = s.rjobs ∧ (msixTake s v).ringAt = s.ringAt ∧
    (msixTake s v).clave = s.clave ∧ (msixTake s v).claveLast = s.claveLast ∧ (msixTake s v).leases = s.leases ∧ (msixTake s v).returns = s.returns ∧
    (msixTake s v).seqs = s.seqs ∧ (msixTake s v).engs = s.engs ∧ (msixTake s v).cores = s.cores ∧ (msixTake s v).batches = s.batches ∧
    (msixTake s v).sets = s.sets ∧ (msixTake s v).outlets = s.outlets ∧ (msixTake s v).staging = s.staging ∧ (msixTake s v).stageAt = s.stageAt ∧
    (msixTake s v).fwBlk = s.fwBlk ∧ (msixTake s v).evids = s.evids ∧ (msixTake s v).encs = s.encs ∧ (msixTake s v).snaps = s.snaps ∧
    (msixTake s v).encCpl = s.encCpl ∧ (msixTake s v).ajobs = s.ajobs ∧ (msixTake s v).free = s.free := by
  obtain ⟨_, _, _, h⟩ := msixTake_frame s v
  rw [h]
  exact ⟨rfl, rfl, rfl, rfl, rfl, rfl, rfl, rfl, rfl, rfl, rfl, rfl, rfl, rfl, rfl, rfl, rfl, rfl, rfl, rfl, rfl, rfl, rfl, rfl, rfl, rfl, rfl, rfl, rfl, rfl, rfl, rfl, rfl, rfl, rfl, rfl, rfl, rfl, rfl, rfl, rfl, rfl, rfl, rfl, rfl, rfl, rfl, rfl, rfl, rfl, rfl⟩

/-- Everything that `msixMerge` can change. -/
theorem msixMerge_frame (s : State) :
    ∃ x0 x1 x2 x3, msixMerge s = { s with blks := x0, regs := x1, pcie := x2, out := x3 } := by
  unfold msixMerge
  dsimp only
  split
  · exact ⟨_, s.regs, s.pcie, s.out, rfl⟩
  · split
    · next u _ =>
      obtain ⟨r, p, o, h⟩ := msixTake_frame (cntAdd s 0x180 5) u
      exact ⟨_, r, p, o, by rw [h]; rfl⟩
    · exact ⟨_, s.regs, s.pcie, s.out, rfl⟩

@[simp] theorem msixMerge_same (s : State) :
    (msixMerge s).pending = s.pending ∧ (msixMerge s).part = s.part ∧ (msixMerge s).tb = s.tb ∧ (msixMerge s).rvs = s.rvs ∧
    (msixMerge s).latch = s.latch ∧ (msixMerge s).ports = s.ports ∧ (msixMerge s).life = s.life ∧ (msixMerge s).mem = s.mem ∧
    (msixMerge s).pcieMem = s.pcieMem ∧ (msixMerge s).ecc = s.ecc ∧ (msixMerge s).ctxs = s.ctxs ∧ (msixMerge s).models = s.models ∧
    (msixMerge s).car = s.car ∧ (msixMerge s).ket = s.ket ∧ (msixMerge s).chans = s.chans ∧ (msixMerge s).gong = s.gong ∧
    (msixMerge s).toc = s.toc ∧ (msixMerge s).sec = s.sec ∧ (msixMerge s).peal = s.peal ∧ (msixMerge s).flows = s.flows ∧
    (msixMerge s).keys = s.keys ∧ (msixMerge s).portMode = s.portMode ∧ (msixMerge s).excWin = s.excWin ∧ (msixMerge s).stms = s.stms ∧
    (msixMerge s).decs = s.decs ∧ (msixMerge s).adaptIn = s.adaptIn ∧ (msixMerge s).gates = s.gates ∧ (msixMerge s).sframes = s.sframes ∧
    (msixMerge s).pipes = s.pipes ∧ (msixMerge s).rjobs = s.rjobs ∧ (msixMerge s).ringAt = s.ringAt ∧ (msixMerge s).clave = s.clave ∧
    (msixMerge s).claveLast = s.claveLast ∧ (msixMerge s).leases = s.leases ∧ (msixMerge s).returns = s.returns ∧ (msixMerge s).seqs = s.seqs ∧
    (msixMerge s).engs = s.engs ∧ (msixMerge s).cores = s.cores ∧ (msixMerge s).batches = s.batches ∧ (msixMerge s).sets = s.sets ∧
    (msixMerge s).outlets = s.outlets ∧ (msixMerge s).staging = s.staging ∧ (msixMerge s).stageAt = s.stageAt ∧ (msixMerge s).fwBlk = s.fwBlk ∧
    (msixMerge s).evids = s.evids ∧ (msixMerge s).encs = s.encs ∧ (msixMerge s).snaps = s.snaps ∧ (msixMerge s).encCpl = s.encCpl ∧
    (msixMerge s).ajobs = s.ajobs ∧ (msixMerge s).free = s.free := by
  obtain ⟨_, _, _, _, h⟩ := msixMerge_frame s
  rw [h]
  exact ⟨rfl, rfl, rfl, rfl, rfl, rfl, rfl, rfl, rfl, rfl, rfl, rfl, rfl, rfl, rfl, rfl, rfl, rfl, rfl, rfl, rfl, rfl, rfl, rfl, rfl, rfl, rfl, rfl, rfl, rfl, rfl, rfl, rfl, rfl, rfl, rfl, rfl, rfl, rfl, rfl, rfl, rfl, rfl, rfl, rfl, rfl, rfl, rfl, rfl, rfl⟩

/-- Everything that `msixReq` can change. -/
theorem msixReq_frame (s : State) (v : Nat) :
    ∃ x0 x1 x2 x3, msixReq s v = { s with blks := x0, regs := x1, pcie := x2, out := x3 } := by
  unfold msixReq
  split
  · exact ⟨s.blks, s.regs, s.pcie, s.out, rfl⟩
  · split
    · obtain ⟨b1, r1, p1, o1, h1⟩ := msixMerge_frame s
      obtain ⟨r, p, o, h⟩ := msixTake_frame (msixMerge s) v
      exact ⟨b1, r, p, o, by rw [h, h1]⟩
    · obtain ⟨r, p, o, h⟩ := msixTake_frame s v
      exact ⟨s.blks, r, p, o, by rw [h]⟩

@[simp] theorem msixReq_same (s : State) (v : Nat) :
    (msixReq s v).pending = s.pending ∧ (msixReq s v).part = s.part ∧ (msixReq s v).tb = s.tb ∧ (msixReq s v).rvs = s.rvs ∧
    (msixReq s v).latch = s.latch ∧ (msixReq s v).ports = s.ports ∧ (msixReq s v).life = s.life ∧ (msixReq s v).mem = s.mem ∧
    (msixReq s v).pcieMem = s.pcieMem ∧ (msixReq s v).ecc = s.ecc ∧ (msixReq s v).ctxs = s.ctxs ∧ (msixReq s v).models = s.models ∧
    (msixReq s v).car = s.car ∧ (msixReq s v).ket = s.ket ∧ (msixReq s v).chans = s.chans ∧ (msixReq s v).gong = s.gong ∧
    (msixReq s v).toc = s.toc ∧ (msixReq s v).sec = s.sec ∧ (msixReq s v).peal = s.peal ∧ (msixReq s v).flows = s.flows ∧
    (msixReq s v).keys = s.keys ∧ (msixReq s v).portMode = s.portMode ∧ (msixReq s v).excWin = s.excWin ∧ (msixReq s v).stms = s.stms ∧
    (msixReq s v).decs = s.decs ∧ (msixReq s v).adaptIn = s.adaptIn ∧ (msixReq s v).gates = s.gates ∧ (msixReq s v).sframes = s.sframes ∧
    (msixReq s v).pipes = s.pipes ∧ (msixReq s v).rjobs = s.rjobs ∧ (msixReq s v).ringAt = s.ringAt ∧ (msixReq s v).clave = s.clave ∧
    (msixReq s v).claveLast = s.claveLast ∧ (msixReq s v).leases = s.leases ∧ (msixReq s v).returns = s.returns ∧ (msixReq s v).seqs = s.seqs ∧
    (msixReq s v).engs = s.engs ∧ (msixReq s v).cores = s.cores ∧ (msixReq s v).batches = s.batches ∧ (msixReq s v).sets = s.sets ∧
    (msixReq s v).outlets = s.outlets ∧ (msixReq s v).staging = s.staging ∧ (msixReq s v).stageAt = s.stageAt ∧ (msixReq s v).fwBlk = s.fwBlk ∧
    (msixReq s v).evids = s.evids ∧ (msixReq s v).encs = s.encs ∧ (msixReq s v).snaps = s.snaps ∧ (msixReq s v).encCpl = s.encCpl ∧
    (msixReq s v).ajobs = s.ajobs ∧ (msixReq s v).free = s.free := by
  obtain ⟨_, _, _, _, h⟩ := msixReq_frame s v
  rw [h]
  exact ⟨rfl, rfl, rfl, rfl, rfl, rfl, rfl, rfl, rfl, rfl, rfl, rfl, rfl, rfl, rfl, rfl, rfl, rfl, rfl, rfl, rfl, rfl, rfl, rfl, rfl, rfl, rfl, rfl, rfl, rfl, rfl, rfl, rfl, rfl, rfl, rfl, rfl, rfl, rfl, rfl, rfl, rfl, rfl, rfl, rfl, rfl, rfl, rfl, rfl, rfl⟩

/-- Everything that `irqReq` can change. -/
theorem irqReq_frame (s : State) (page : Nat) :
    ∃ x0 x1 x2 x3, irqReq s page = { s with blks := x0, regs := x1, pcie := x2, out := x3 } := by
  unfold irqReq
  split
  · exact msixReq_frame s _
  · exact ⟨s.blks, s.regs, s.pcie, s.out, rfl⟩

@[simp] theorem irqReq_same (s : State) (page : Nat) :
    (irqReq s page).pending = s.pending ∧ (irqReq s page).part = s.part ∧ (irqReq s page).tb = s.tb ∧ (irqReq s page).rvs = s.rvs ∧
    (irqReq s page).latch = s.latch ∧ (irqReq s page).ports = s.ports ∧ (irqReq s page).life = s.life ∧ (irqReq s page).mem = s.mem ∧
    (irqReq s page).pcieMem = s.pcieMem ∧ (irqReq s page).ecc = s.ecc ∧ (irqReq s page).ctxs = s.ctxs ∧ (irqReq s page).models = s.models ∧
    (irqReq s page).car = s.car ∧ (irqReq s page).ket = s.ket ∧ (irqReq s page).chans = s.chans ∧ (irqReq s page).gong = s.gong ∧
    (irqReq s page).toc = s.toc ∧ (irqReq s page).sec = s.sec ∧ (irqReq s page).peal = s.peal ∧ (irqReq s page).flows = s.flows ∧
    (irqReq s page).keys = s.keys ∧ (irqReq s page).portMode = s.portMode ∧ (irqReq s page).excWin = s.excWin ∧ (irqReq s page).stms = s.stms ∧
    (irqReq s page).decs = s.decs ∧ (irqReq s page).adaptIn = s.adaptIn ∧ (irqReq s page).gates = s.gates ∧ (irqReq s page).sframes = s.sframes ∧
    (irqReq s page).pipes = s.pipes ∧ (irqReq s page).rjobs = s.rjobs ∧ (irqReq s page).ringAt = s.ringAt ∧ (irqReq s page).clave = s.clave ∧
    (irqReq s page).claveLast = s.claveLast ∧ (irqReq s page).leases = s.leases ∧ (irqReq s page).returns = s.returns ∧ (irqReq s page).seqs = s.seqs ∧
    (irqReq s page).engs = s.engs ∧ (irqReq s page).cores = s.cores ∧ (irqReq s page).batches = s.batches ∧ (irqReq s page).sets = s.sets ∧
    (irqReq s page).outlets = s.outlets ∧ (irqReq s page).staging = s.staging ∧ (irqReq s page).stageAt = s.stageAt ∧ (irqReq s page).fwBlk = s.fwBlk ∧
    (irqReq s page).evids = s.evids ∧ (irqReq s page).encs = s.encs ∧ (irqReq s page).snaps = s.snaps ∧ (irqReq s page).encCpl = s.encCpl ∧
    (irqReq s page).ajobs = s.ajobs ∧ (irqReq s page).free = s.free := by
  obtain ⟨_, _, _, _, h⟩ := irqReq_frame s page
  rw [h]
  exact ⟨rfl, rfl, rfl, rfl, rfl, rfl, rfl, rfl, rfl, rfl, rfl, rfl, rfl, rfl, rfl, rfl, rfl, rfl, rfl, rfl, rfl, rfl, rfl, rfl, rfl, rfl, rfl, rfl, rfl, rfl, rfl, rfl, rfl, rfl, rfl, rfl, rfl, rfl, rfl, rfl, rfl, rfl, rfl, rfl, rfl, rfl, rfl, rfl, rfl, rfl⟩

/-- Everything that `irqReqN` can change. -/
theorem irqReqN_frame (s : State) (page n : Nat) :
    ∃ x0 x1 x2 x3, irqReqN s page n = { s with blks := x0, regs := x1, pcie := x2, out := x3 } := by
  induction n generalizing s with
  | zero => exact ⟨s.blks, s.regs, s.pcie, s.out, rfl⟩
  | succ n ih =>
    obtain ⟨b1, r1, p1, o1, h1⟩ := irqReq_frame s page
    obtain ⟨b2, r2, p2, o2, h2⟩ := ih (irqReq s page)
    exact ⟨b2, r2, p2, o2, by rw [irqReqN, h2, h1]⟩

@[simp] theorem irqReqN_same (s : State) (page n : Nat) :
    (irqReqN s page n).pending = s.pending ∧ (irqReqN s page n).part = s.part ∧ (irqReqN s page n).tb = s.tb ∧ (irqReqN s page n).rvs = s.rvs ∧
    (irqReqN s page n).latch = s.latch ∧ (irqReqN s page n).ports = s.ports ∧ (irqReqN s page n).life = s.life ∧ (irqReqN s page n).mem = s.mem ∧
    (irqReqN s page n).pcieMem = s.pcieMem ∧ (irqReqN s page n).ecc = s.ecc ∧ (irqReqN s page n).ctxs = s.ctxs ∧ (irqReqN s page n).models = s.models ∧
    (irqReqN s page n).car = s.car ∧ (irqReqN s page n).ket = s.ket ∧ (irqReqN s page n).chans = s.chans ∧ (irqReqN s page n).gong = s.gong ∧
    (irqReqN s page n).toc = s.toc ∧ (irqReqN s page n).sec = s.sec ∧ (irqReqN s page n).peal = s.peal ∧ (irqReqN s page n).flows = s.flows ∧
    (irqReqN s page n).keys = s.keys ∧ (irqReqN s page n).portMode = s.portMode ∧ (irqReqN s page n).excWin = s.excWin ∧ (irqReqN s page n).stms = s.stms ∧
    (irqReqN s page n).decs = s.decs ∧ (irqReqN s page n).adaptIn = s.adaptIn ∧ (irqReqN s page n).gates = s.gates ∧ (irqReqN s page n).sframes = s.sframes ∧
    (irqReqN s page n).pipes = s.pipes ∧ (irqReqN s page n).rjobs = s.rjobs ∧ (irqReqN s page n).ringAt = s.ringAt ∧ (irqReqN s page n).clave = s.clave ∧
    (irqReqN s page n).claveLast = s.claveLast ∧ (irqReqN s page n).leases = s.leases ∧ (irqReqN s page n).returns = s.returns ∧ (irqReqN s page n).seqs = s.seqs ∧
    (irqReqN s page n).engs = s.engs ∧ (irqReqN s page n).cores = s.cores ∧ (irqReqN s page n).batches = s.batches ∧ (irqReqN s page n).sets = s.sets ∧
    (irqReqN s page n).outlets = s.outlets ∧ (irqReqN s page n).staging = s.staging ∧ (irqReqN s page n).stageAt = s.stageAt ∧ (irqReqN s page n).fwBlk = s.fwBlk ∧
    (irqReqN s page n).evids = s.evids ∧ (irqReqN s page n).encs = s.encs ∧ (irqReqN s page n).snaps = s.snaps ∧ (irqReqN s page n).encCpl = s.encCpl ∧
    (irqReqN s page n).ajobs = s.ajobs ∧ (irqReqN s page n).free = s.free := by
  obtain ⟨_, _, _, _, h⟩ := irqReqN_frame s page n
  rw [h]
  exact ⟨rfl, rfl, rfl, rfl, rfl, rfl, rfl, rfl, rfl, rfl, rfl, rfl, rfl, rfl, rfl, rfl, rfl, rfl, rfl, rfl, rfl, rfl, rfl, rfl, rfl, rfl, rfl, rfl, rfl, rfl, rfl, rfl, rfl, rfl, rfl, rfl, rfl, rfl, rfl, rfl, rfl, rfl, rfl, rfl, rfl, rfl, rfl, rfl, rfl, rfl⟩

/-- Everything that `bump` can change. -/
theorem bump_frame (s : State) (page n : Nat) :
    ∃ x0 x1 x2 x3, bump s page n = { s with blks := x0, regs := x1, pcie := x2, out := x3 } := by
  unfold bump
  dsimp only
  split
  · exact ⟨_, s.regs, s.pcie, s.out, rfl⟩
  · obtain ⟨b, r, p, o, h⟩ := irqReq_frame (cntAdd s page n) page
    exact ⟨b, r, p, o, by rw [h]; rfl⟩

@[simp] theorem bump_same (s : State) (page n : Nat) :
    (bump s page n).pending = s.pending ∧ (bump s page n).part = s.part ∧ (bump s page n).tb = s.tb ∧ (bump s page n).rvs = s.rvs ∧
    (bump s page n).latch = s.latch ∧ (bump s page n).ports = s.ports ∧ (bump s page n).life = s.life ∧ (bump s page n).mem = s.mem ∧
    (bump s page n).pcieMem = s.pcieMem ∧ (bump s page n).ecc = s.ecc ∧ (bump s page n).ctxs = s.ctxs ∧ (bump s page n).models = s.models ∧
    (bump s page n).car = s.car ∧ (bump s page n).ket = s.ket ∧ (bump s page n).chans = s.chans ∧ (bump s page n).gong = s.gong ∧
    (bump s page n).toc = s.toc ∧ (bump s page n).sec = s.sec ∧ (bump s page n).peal = s.peal ∧ (bump s page n).flows = s.flows ∧
    (bump s page n).keys = s.keys ∧ (bump s page n).portMode = s.portMode ∧ (bump s page n).excWin = s.excWin ∧ (bump s page n).stms = s.stms ∧
    (bump s page n).decs = s.decs ∧ (bump s page n).adaptIn = s.adaptIn ∧ (bump s page n).gates = s.gates ∧ (bump s page n).sframes = s.sframes ∧
    (bump s page n).pipes = s.pipes ∧ (bump s page n).rjobs = s.rjobs ∧ (bump s page n).ringAt = s.ringAt ∧ (bump s page n).clave = s.clave ∧
    (bump s page n).claveLast = s.claveLast ∧ (bump s page n).leases = s.leases ∧ (bump s page n).returns = s.returns ∧ (bump s page n).seqs = s.seqs ∧
    (bump s page n).engs = s.engs ∧ (bump s page n).cores = s.cores ∧ (bump s page n).batches = s.batches ∧ (bump s page n).sets = s.sets ∧
    (bump s page n).outlets = s.outlets ∧ (bump s page n).staging = s.staging ∧ (bump s page n).stageAt = s.stageAt ∧ (bump s page n).fwBlk = s.fwBlk ∧
    (bump s page n).evids = s.evids ∧ (bump s page n).encs = s.encs ∧ (bump s page n).snaps = s.snaps ∧ (bump s page n).encCpl = s.encCpl ∧
    (bump s page n).ajobs = s.ajobs ∧ (bump s page n).free = s.free := by
  obtain ⟨_, _, _, _, h⟩ := bump_frame s page n
  rw [h]
  exact ⟨rfl, rfl, rfl, rfl, rfl, rfl, rfl, rfl, rfl, rfl, rfl, rfl, rfl, rfl, rfl, rfl, rfl, rfl, rfl, rfl, rfl, rfl, rfl, rfl, rfl, rfl, rfl, rfl, rfl, rfl, rfl, rfl, rfl, rfl, rfl, rfl, rfl, rfl, rfl, rfl, rfl, rfl, rfl, rfl, rfl, rfl, rfl, rfl, rfl, rfl⟩

/-- Everything that `bumpN` can change. -/
theorem bumpN_frame (s : State) (page n k : Nat) :
    ∃ x0 x1 x2 x3, bumpN s page n k = { s with blks := x0, regs := x1, pcie := x2, out := x3 } := by
  induction k generalizing s with
  | zero => exact ⟨s.blks, s.regs, s.pcie, s.out, rfl⟩
  | succ k ih =>
    obtain ⟨b1, r1, p1, o1, h1⟩ := bump_frame s page n
    obtain ⟨b2, r2, p2, o2, h2⟩ := ih (bump s page n)
    exact ⟨b2, r2, p2, o2, by rw [bumpN, h2, h1]⟩

@[simp] theorem bumpN_same (s : State) (page n k : Nat) :
    (bumpN s page n k).pending = s.pending ∧ (bumpN s page n k).part = s.part ∧ (bumpN s page n k).tb = s.tb ∧ (bumpN s page n k).rvs = s.rvs ∧
    (bumpN s page n k).latch = s.latch ∧ (bumpN s page n k).ports = s.ports ∧ (bumpN s page n k).life = s.life ∧ (bumpN s page n k).mem = s.mem ∧
    (bumpN s page n k).pcieMem = s.pcieMem ∧ (bumpN s page n k).ecc = s.ecc ∧ (bumpN s page n k).ctxs = s.ctxs ∧ (bumpN s page n k).models = s.models ∧
    (bumpN s page n k).car = s.car ∧ (bumpN s page n k).ket = s.ket ∧ (bumpN s page n k).chans = s.chans ∧ (bumpN s page n k).gong = s.gong ∧
    (bumpN s page n k).toc = s.toc ∧ (bumpN s page n k).sec = s.sec ∧ (bumpN s page n k).peal = s.peal ∧ (bumpN s page n k).flows = s.flows ∧
    (bumpN s page n k).keys = s.keys ∧ (bumpN s page n k).portMode = s.portMode ∧ (bumpN s page n k).excWin = s.excWin ∧ (bumpN s page n k).stms = s.stms ∧
    (bumpN s page n k).decs = s.decs ∧ (bumpN s page n k).adaptIn = s.adaptIn ∧ (bumpN s page n k).gates = s.gates ∧ (bumpN s page n k).sframes = s.sframes ∧
    (bumpN s page n k).pipes = s.pipes ∧ (bumpN s page n k).rjobs = s.rjobs ∧ (bumpN s page n k).ringAt = s.ringAt ∧ (bumpN s page n k).clave = s.clave ∧
    (bumpN s page n k).claveLast = s.claveLast ∧ (bumpN s page n k).leases = s.leases ∧ (bumpN s page n k).returns = s.returns ∧ (bumpN s page n k).seqs = s.seqs ∧
    (bumpN s page n k).engs = s.engs ∧ (bumpN s page n k).cores = s.cores ∧ (bumpN s page n k).batches = s.batches ∧ (bumpN s page n k).sets = s.sets ∧
    (bumpN s page n k).outlets = s.outlets ∧ (bumpN s page n k).staging = s.staging ∧ (bumpN s page n k).stageAt = s.stageAt ∧ (bumpN s page n k).fwBlk = s.fwBlk ∧
    (bumpN s page n k).evids = s.evids ∧ (bumpN s page n k).encs = s.encs ∧ (bumpN s page n k).snaps = s.snaps ∧ (bumpN s page n k).encCpl = s.encCpl ∧
    (bumpN s page n k).ajobs = s.ajobs ∧ (bumpN s page n k).free = s.free := by
  obtain ⟨_, _, _, _, h⟩ := bumpN_frame s page n k
  rw [h]
  exact ⟨rfl, rfl, rfl, rfl, rfl, rfl, rfl, rfl, rfl, rfl, rfl, rfl, rfl, rfl, rfl, rfl, rfl, rfl, rfl, rfl, rfl, rfl, rfl, rfl, rfl, rfl, rfl, rfl, rfl, rfl, rfl, rfl, rfl, rfl, rfl, rfl, rfl, rfl, rfl, rfl, rfl, rfl, rfl, rfl, rfl, rfl, rfl, rfl, rfl, rfl⟩

/-- Everything that `updBlk` can change. -/
theorem updBlk_frame (s : State) (page : Nat) (f : Blk → Blk) :
    ∃ x0 x1 x2 x3, updBlk s page f = { s with blks := x0, regs := x1, pcie := x2, out := x3 } := by
  unfold updBlk
  obtain ⟨b, r, p, o, h⟩ := irqReqN_frame (setBlk s page (f (blk s page))) page
    (popBits ((statusOf (f (blk s page)) &&& ~~~ (f (blk s page)).irqMask) &&&
      ~~~ (statusOf (blk s page) &&& ~~~ (blk s page).irqMask)) 23)
  exact ⟨b, r, p, o, h⟩

@[simp] theorem updBlk_same (s : State) (page : Nat) (f : Blk → Blk) :
    (updBlk s page f).pending = s.pending ∧ (updBlk s page f).part = s.part ∧ (updBlk s page f).tb = s.tb ∧ (updBlk s page f).rvs = s.rvs ∧
    (updBlk s page f).latch = s.latch ∧ (updBlk s page f).ports = s.ports ∧ (updBlk s page f).life = s.life ∧ (updBlk s page f).mem = s.mem ∧
    (updBlk s page f).pcieMem = s.pcieMem ∧ (updBlk s page f).ecc = s.ecc ∧ (updBlk s page f).ctxs = s.ctxs ∧ (updBlk s page f).models = s.models ∧
    (updBlk s page f).car = s.car ∧ (updBlk s page f).ket = s.ket ∧ (updBlk s page f).chans = s.chans ∧ (updBlk s page f).gong = s.gong ∧
    (updBlk s page f).toc = s.toc ∧ (updBlk s page f).sec = s.sec ∧ (updBlk s page f).peal = s.peal ∧ (updBlk s page f).flows = s.flows ∧
    (updBlk s page f).keys = s.keys ∧ (updBlk s page f).portMode = s.portMode ∧ (updBlk s page f).excWin = s.excWin ∧ (updBlk s page f).stms = s.stms ∧
    (updBlk s page f).decs = s.decs ∧ (updBlk s page f).adaptIn = s.adaptIn ∧ (updBlk s page f).gates = s.gates ∧ (updBlk s page f).sframes = s.sframes ∧
    (updBlk s page f).pipes = s.pipes ∧ (updBlk s page f).rjobs = s.rjobs ∧ (updBlk s page f).ringAt = s.ringAt ∧ (updBlk s page f).clave = s.clave ∧
    (updBlk s page f).claveLast = s.claveLast ∧ (updBlk s page f).leases = s.leases ∧ (updBlk s page f).returns = s.returns ∧ (updBlk s page f).seqs = s.seqs ∧
    (updBlk s page f).engs = s.engs ∧ (updBlk s page f).cores = s.cores ∧ (updBlk s page f).batches = s.batches ∧ (updBlk s page f).sets = s.sets ∧
    (updBlk s page f).outlets = s.outlets ∧ (updBlk s page f).staging = s.staging ∧ (updBlk s page f).stageAt = s.stageAt ∧ (updBlk s page f).fwBlk = s.fwBlk ∧
    (updBlk s page f).evids = s.evids ∧ (updBlk s page f).encs = s.encs ∧ (updBlk s page f).snaps = s.snaps ∧ (updBlk s page f).encCpl = s.encCpl ∧
    (updBlk s page f).ajobs = s.ajobs ∧ (updBlk s page f).free = s.free := by
  obtain ⟨_, _, _, _, h⟩ := updBlk_frame s page f
  rw [h]
  exact ⟨rfl, rfl, rfl, rfl, rfl, rfl, rfl, rfl, rfl, rfl, rfl, rfl, rfl, rfl, rfl, rfl, rfl, rfl, rfl, rfl, rfl, rfl, rfl, rfl, rfl, rfl, rfl, rfl, rfl, rfl, rfl, rfl, rfl, rfl, rfl, rfl, rfl, rfl, rfl, rfl, rfl, rfl, rfl, rfl, rfl, rfl, rfl, rfl, rfl, rfl⟩

/-- Everything that `setStatus` can change. -/
theorem setStatus_frame (s : State) (page k : Nat) (v : Bool) :
    ∃ x0 x1 x2 x3, setStatus s page k v = { s with blks := x0, regs := x1, pcie := x2, out := x3 } := updBlk_frame s page _

@[simp] theorem setStatus_same (s : State) (page k : Nat) (v : Bool) :
    (setStatus s page k v).pending = s.pending ∧ (setStatus s page k v).part = s.part ∧ (setStatus s page k v).tb = s.tb ∧ (setStatus s page k v).rvs = s.rvs ∧
    (setStatus s page k v).latch = s.latch ∧ (setStatus s page k v).ports = s.ports ∧ (setStatus s page k v).life = s.life ∧ (setStatus s page k v).mem = s.mem ∧
    (setStatus s page k v).pcieMem = s.pcieMem ∧ (setStatus s page k v).ecc = s.ecc ∧ (setStatus s page k v).ctxs = s.ctxs ∧ (setStatus s page k v).models = s.models ∧
    (setStatus s page k v).car = s.car ∧ (setStatus s page k v).ket = s.ket ∧ (setStatus s page k v).chans = s.chans ∧ (setStatus s page k v).gong = s.gong ∧
    (setStatus s page k v).toc = s.toc ∧ (setStatus s page k v).sec = s.sec ∧ (setStatus s page k v).peal = s.peal ∧ (setStatus s page k v).flows = s.flows ∧
    (setStatus s page k v).keys = s.keys ∧ (setStatus s page k v).portMode = s.portMode ∧ (setStatus s page k v).excWin = s.excWin ∧ (setStatus s page k v).stms = s.stms ∧
    (setStatus s page k v).decs = s.decs ∧ (setStatus s page k v).adaptIn = s.adaptIn ∧ (setStatus s page k v).gates = s.gates ∧ (setStatus s page k v).sframes = s.sframes ∧
    (setStatus s page k v).pipes = s.pipes ∧ (setStatus s page k v).rjobs = s.rjobs ∧ (setStatus s page k v).ringAt = s.ringAt ∧ (setStatus s page k v).clave = s.clave ∧
    (setStatus s page k v).claveLast = s.claveLast ∧ (setStatus s page k v).leases = s.leases ∧ (setStatus s page k v).returns = s.returns ∧ (setStatus s page k v).seqs = s.seqs ∧
    (setStatus s page k v).engs = s.engs ∧ (setStatus s page k v).cores = s.cores ∧ (setStatus s page k v).batches = s.batches ∧ (setStatus s page k v).sets = s.sets ∧
    (setStatus s page k v).outlets = s.outlets ∧ (setStatus s page k v).staging = s.staging ∧ (setStatus s page k v).stageAt = s.stageAt ∧ (setStatus s page k v).fwBlk = s.fwBlk ∧
    (setStatus s page k v).evids = s.evids ∧ (setStatus s page k v).encs = s.encs ∧ (setStatus s page k v).snaps = s.snaps ∧ (setStatus s page k v).encCpl = s.encCpl ∧
    (setStatus s page k v).ajobs = s.ajobs ∧ (setStatus s page k v).free = s.free := by
  obtain ⟨_, _, _, _, h⟩ := setStatus_frame s page k v
  rw [h]
  exact ⟨rfl, rfl, rfl, rfl, rfl, rfl, rfl, rfl, rfl, rfl, rfl, rfl, rfl, rfl, rfl, rfl, rfl, rfl, rfl, rfl, rfl, rfl, rfl, rfl, rfl, rfl, rfl, rfl, rfl, rfl, rfl, rfl, rfl, rfl, rfl, rfl, rfl, rfl, rfl, rfl, rfl, rfl, rfl, rfl, rfl, rfl, rfl, rfl, rfl, rfl⟩

/-- Everything that `readyEdge` can change. -/
theorem readyEdge_frame (s : State) (was is : Bool) :
    ∃ x0 x1 x2 x3, readyEdge s was is = { s with blks := x0, regs := x1, pcie := x2, out := x3 } := by
  unfold readyEdge
  dsimp only
  split
  · obtain ⟨b1, r1, p1, o1, h1⟩ := bump_frame s 0x001 0
    obtain ⟨b2, r2, p2, o2, h2⟩ := setStatus_frame (bump s 0x001 0) 0x001 8 (allReady (bump s 0x001 0))
    exact ⟨b2, r2, p2, o2, by rw [h2, h1]⟩
  · split
    · obtain ⟨b1, r1, p1, o1, h1⟩ := bump_frame s 0x001 1
      obtain ⟨b2, r2, p2, o2, h2⟩ := setStatus_frame (bump s 0x001 1) 0x001 8 (allReady (bump s 0x001 1))
      exact ⟨b2, r2, p2, o2, by rw [h2, h1]⟩
    · exact setStatus_frame s 0x001 8 (allReady s)

@[simp] theorem readyEdge_same (s : State) (was is : Bool) :
    (readyEdge s was is).pending = s.pending ∧ (readyEdge s was is).part = s.part ∧ (readyEdge s was is).tb = s.tb ∧ (readyEdge s was is).rvs = s.rvs ∧
    (readyEdge s was is).latch = s.latch ∧ (readyEdge s was is).ports = s.ports ∧ (readyEdge s was is).life = s.life ∧ (readyEdge s was is).mem = s.mem ∧
    (readyEdge s was is).pcieMem = s.pcieMem ∧ (readyEdge s was is).ecc = s.ecc ∧ (readyEdge s was is).ctxs = s.ctxs ∧ (readyEdge s was is).models = s.models ∧
    (readyEdge s was is).car = s.car ∧ (readyEdge s was is).ket = s.ket ∧ (readyEdge s was is).chans = s.chans ∧ (readyEdge s was is).gong = s.gong ∧
    (readyEdge s was is).toc = s.toc ∧ (readyEdge s was is).sec = s.sec ∧ (readyEdge s was is).peal = s.peal ∧ (readyEdge s was is).flows = s.flows ∧
    (readyEdge s was is).keys = s.keys ∧ (readyEdge s was is).portMode = s.portMode ∧ (readyEdge s was is).excWin = s.excWin ∧ (readyEdge s was is).stms = s.stms ∧
    (readyEdge s was is).decs = s.decs ∧ (readyEdge s was is).adaptIn = s.adaptIn ∧ (readyEdge s was is).gates = s.gates ∧ (readyEdge s was is).sframes = s.sframes ∧
    (readyEdge s was is).pipes = s.pipes ∧ (readyEdge s was is).rjobs = s.rjobs ∧ (readyEdge s was is).ringAt = s.ringAt ∧ (readyEdge s was is).clave = s.clave ∧
    (readyEdge s was is).claveLast = s.claveLast ∧ (readyEdge s was is).leases = s.leases ∧ (readyEdge s was is).returns = s.returns ∧ (readyEdge s was is).seqs = s.seqs ∧
    (readyEdge s was is).engs = s.engs ∧ (readyEdge s was is).cores = s.cores ∧ (readyEdge s was is).batches = s.batches ∧ (readyEdge s was is).sets = s.sets ∧
    (readyEdge s was is).outlets = s.outlets ∧ (readyEdge s was is).staging = s.staging ∧ (readyEdge s was is).stageAt = s.stageAt ∧ (readyEdge s was is).fwBlk = s.fwBlk ∧
    (readyEdge s was is).evids = s.evids ∧ (readyEdge s was is).encs = s.encs ∧ (readyEdge s was is).snaps = s.snaps ∧ (readyEdge s was is).encCpl = s.encCpl ∧
    (readyEdge s was is).ajobs = s.ajobs ∧ (readyEdge s was is).free = s.free := by
  obtain ⟨_, _, _, _, h⟩ := readyEdge_frame s was is
  rw [h]
  exact ⟨rfl, rfl, rfl, rfl, rfl, rfl, rfl, rfl, rfl, rfl, rfl, rfl, rfl, rfl, rfl, rfl, rfl, rfl, rfl, rfl, rfl, rfl, rfl, rfl, rfl, rfl, rfl, rfl, rfl, rfl, rfl, rfl, rfl, rfl, rfl, rfl, rfl, rfl, rfl, rfl, rfl, rfl, rfl, rfl, rfl, rfl, rfl, rfl, rfl, rfl⟩

/-- Everything that `setSt` can change. -/
theorem setSt_frame (s : State) (page : Nat) (st : BlkSt) :
    ∃ x0 x1 x2 x3, setSt s page st = { s with blks := x0, regs := x1, pcie := x2, out := x3 } := by
  unfold setSt
  dsimp only
  obtain ⟨b1, r1, p1, o1, h1⟩ := updBlk_frame s page (fun b => { b with st := st })
  split
  · split
    · exact ⟨b1, r1, p1, o1, h1⟩
    · obtain ⟨b2, r2, p2, o2, h2⟩ := readyEdge_frame (updBlk s page (fun b => { b with st := st })) (blk s page).st.ready
        st.ready
      exact ⟨b2, r2, p2, o2, by rw [h2, h1]⟩
  · exact ⟨b1, r1, p1, o1, h1⟩

@[simp] theorem setSt_same (s : State) (page : Nat) (st : BlkSt) :
    (setSt s page st).pending = s.pending ∧ (setSt s page st).part = s.part ∧ (setSt s page st).tb = s.tb ∧ (setSt s page st).rvs = s.rvs ∧
    (setSt s page st).latch = s.latch ∧ (setSt s page st).ports = s.ports ∧ (setSt s page st).life = s.life ∧ (setSt s page st).mem = s.mem ∧
    (setSt s page st).pcieMem = s.pcieMem ∧ (setSt s page st).ecc = s.ecc ∧ (setSt s page st).ctxs = s.ctxs ∧ (setSt s page st).models = s.models ∧
    (setSt s page st).car = s.car ∧ (setSt s page st).ket = s.ket ∧ (setSt s page st).chans = s.chans ∧ (setSt s page st).gong = s.gong ∧
    (setSt s page st).toc = s.toc ∧ (setSt s page st).sec = s.sec ∧ (setSt s page st).peal = s.peal ∧ (setSt s page st).flows = s.flows ∧
    (setSt s page st).keys = s.keys ∧ (setSt s page st).portMode = s.portMode ∧ (setSt s page st).excWin = s.excWin ∧ (setSt s page st).stms = s.stms ∧
    (setSt s page st).decs = s.decs ∧ (setSt s page st).adaptIn = s.adaptIn ∧ (setSt s page st).gates = s.gates ∧ (setSt s page st).sframes = s.sframes ∧
    (setSt s page st).pipes = s.pipes ∧ (setSt s page st).rjobs = s.rjobs ∧ (setSt s page st).ringAt = s.ringAt ∧ (setSt s page st).clave = s.clave ∧
    (setSt s page st).claveLast = s.claveLast ∧ (setSt s page st).leases = s.leases ∧ (setSt s page st).returns = s.returns ∧ (setSt s page st).seqs = s.seqs ∧
    (setSt s page st).engs = s.engs ∧ (setSt s page st).cores = s.cores ∧ (setSt s page st).batches = s.batches ∧ (setSt s page st).sets = s.sets ∧
    (setSt s page st).outlets = s.outlets ∧ (setSt s page st).staging = s.staging ∧ (setSt s page st).stageAt = s.stageAt ∧ (setSt s page st).fwBlk = s.fwBlk ∧
    (setSt s page st).evids = s.evids ∧ (setSt s page st).encs = s.encs ∧ (setSt s page st).snaps = s.snaps ∧ (setSt s page st).encCpl = s.encCpl ∧
    (setSt s page st).ajobs = s.ajobs ∧ (setSt s page st).free = s.free := by
  obtain ⟨_, _, _, _, h⟩ := setSt_frame s page st
  rw [h]
  exact ⟨rfl, rfl, rfl, rfl, rfl, rfl, rfl, rfl, rfl, rfl, rfl, rfl, rfl, rfl, rfl, rfl, rfl, rfl, rfl, rfl, rfl, rfl, rfl, rfl, rfl, rfl, rfl, rfl, rfl, rfl, rfl, rfl, rfl, rfl, rfl, rfl, rfl, rfl, rfl, rfl, rfl, rfl, rfl, rfl, rfl, rfl, rfl, rfl, rfl, rfl⟩

/-- Everything that `account` can change. -/
theorem account_frame (s : State) (cnt kind : Nat) (m : Master) (wr : Bool) (page ofs : Nat) :
    ∃ x0 x1 x2 x3, account s cnt kind m wr page ofs = { s with blks := x0, regs := x1, pcie := x2, out := x3 } := by
  obtain ⟨b, r, p, o, h⟩ := bump_frame s 0x000 cnt
  exact ⟨b, _, p, o, by rw [account, h]; rfl⟩

@[simp] theorem account_same (s : State) (cnt kind : Nat) (m : Master) (wr : Bool) (page ofs : Nat) :
    (account s cnt kind m wr page ofs).pending = s.pending ∧ (account s cnt kind m wr page ofs).part = s.part ∧ (account s cnt kind m wr page ofs).tb = s.tb ∧ (account s cnt kind m wr page ofs).rvs = s.rvs ∧
    (account s cnt kind m wr page ofs).latch = s.latch ∧ (account s cnt kind m wr page ofs).ports = s.ports ∧ (account s cnt kind m wr page ofs).life = s.life ∧ (account s cnt kind m wr page ofs).mem = s.mem ∧
    (account s cnt kind m wr page ofs).pcieMem = s.pcieMem ∧ (account s cnt kind m wr page ofs).ecc = s.ecc ∧ (account s cnt kind m wr page ofs).ctxs = s.ctxs ∧ (account s cnt kind m wr page ofs).models = s.models ∧
    (account s cnt kind m wr page ofs).car = s.car ∧ (account s cnt kind m wr page ofs).ket = s.ket ∧ (account s cnt kind m wr page ofs).chans = s.chans ∧ (account s cnt kind m wr page ofs).gong = s.gong ∧
    (account s cnt kind m wr page ofs).toc = s.toc ∧ (account s cnt kind m wr page ofs).sec = s.sec ∧ (account s cnt kind m wr page ofs).peal = s.peal ∧ (account s cnt kind m wr page ofs).flows = s.flows ∧
    (account s cnt kind m wr page ofs).keys = s.keys ∧ (account s cnt kind m wr page ofs).portMode = s.portMode ∧ (account s cnt kind m wr page ofs).excWin = s.excWin ∧ (account s cnt kind m wr page ofs).stms = s.stms ∧
    (account s cnt kind m wr page ofs).decs = s.decs ∧ (account s cnt kind m wr page ofs).adaptIn = s.adaptIn ∧ (account s cnt kind m wr page ofs).gates = s.gates ∧ (account s cnt kind m wr page ofs).sframes = s.sframes ∧
    (account s cnt kind m wr page ofs).pipes = s.pipes ∧ (account s cnt kind m wr page ofs).rjobs = s.rjobs ∧ (account s cnt kind m wr page ofs).ringAt = s.ringAt ∧ (account s cnt kind m wr page ofs).clave = s.clave ∧
    (account s cnt kind m wr page ofs).claveLast = s.claveLast ∧ (account s cnt kind m wr page ofs).leases = s.leases ∧ (account s cnt kind m wr page ofs).returns = s.returns ∧ (account s cnt kind m wr page ofs).seqs = s.seqs ∧
    (account s cnt kind m wr page ofs).engs = s.engs ∧ (account s cnt kind m wr page ofs).cores = s.cores ∧ (account s cnt kind m wr page ofs).batches = s.batches ∧ (account s cnt kind m wr page ofs).sets = s.sets ∧
    (account s cnt kind m wr page ofs).outlets = s.outlets ∧ (account s cnt kind m wr page ofs).staging = s.staging ∧ (account s cnt kind m wr page ofs).stageAt = s.stageAt ∧ (account s cnt kind m wr page ofs).fwBlk = s.fwBlk ∧
    (account s cnt kind m wr page ofs).evids = s.evids ∧ (account s cnt kind m wr page ofs).encs = s.encs ∧ (account s cnt kind m wr page ofs).snaps = s.snaps ∧ (account s cnt kind m wr page ofs).encCpl = s.encCpl ∧
    (account s cnt kind m wr page ofs).ajobs = s.ajobs ∧ (account s cnt kind m wr page ofs).free = s.free := by
  obtain ⟨_, _, _, _, h⟩ := account_frame s cnt kind m wr page ofs
  rw [h]
  exact ⟨rfl, rfl, rfl, rfl, rfl, rfl, rfl, rfl, rfl, rfl, rfl, rfl, rfl, rfl, rfl, rfl, rfl, rfl, rfl, rfl, rfl, rfl, rfl, rfl, rfl, rfl, rfl, rfl, rfl, rfl, rfl, rfl, rfl, rfl, rfl, rfl, rfl, rfl, rfl, rfl, rfl, rfl, rfl, rfl, rfl, rfl, rfl, rfl, rfl, rfl⟩

/-- Everything that `logRec` can change. -/
theorem logRec_frame (s : State) (kind code orig flags id page desc detail : Nat) :
    ∃ x0 x1 x2 x3 x4, logRec s kind code orig flags id page desc detail = { s with blks := x0, regs := x1, pcie := x2, out := x3, toc := x4 } := by
  have one : ∀ (c : Prop) [Decidable c] (t : State) (n : Nat), ∃ b r p o, (if c then bump t 0x1A0 n else t) =
      { t with blks := b, regs := r, pcie := p, out := o } := by
    intro c _ t n
    by_cases h : c
    · simp only [h, if_true]; exact bump_frame t 0x1A0 n
    · simp only [h, if_false]; exact ⟨t.blks, t.regs, t.pcie, t.out, rfl⟩
  have two : ∀ (c : Bool) (lg : Tbl (List Byte)) (w : BitVec 32), ∃ x0 x1 x2 x3 x4,
      (if c then bump (if kind = 0 then bump (putR { s with toc := { s.toc with log := lg } } 0x1A0 0x100 w) 0x1A0 0
        else putR { s with toc := { s.toc with log := lg } } 0x1A0 0x100 w) 0x1A0 5
        else if kind = 0 then bump (putR { s with toc := { s.toc with log := lg } } 0x1A0 0x100 w) 0x1A0 0
        else putR { s with toc := { s.toc with log := lg } } 0x1A0 0x100 w) =
      { s with blks := x0, regs := x1, pcie := x2, out := x3, toc := x4 } := by
    intro c lg w
    obtain ⟨b1, r1, p1, o1, h1⟩ := one (kind = 0) (putR { s with toc := { s.toc with log := lg } } 0x1A0 0x100 w) 0
    rw [h1]
    obtain ⟨b2, r2, p2, o2, h2⟩ := one (c = true) { putR { s with toc := { s.toc with log := lg } } 0x1A0 0x100 w with
      blks := b1, regs := r1, pcie := p1, out := o1 } 5
    rw [h2]
    exact ⟨b2, r2, p2, o2, _, rfl⟩
  exact two _ _ _

@[simp] theorem logRec_same (s : State) (kind code orig flags id page desc detail : Nat) :
    (logRec s kind code orig flags id page desc detail).pending = s.pending ∧ (logRec s kind code orig flags id page desc detail).part = s.part ∧ (logRec s kind code orig flags id page desc detail).tb = s.tb ∧ (logRec s kind code orig flags id page desc detail).rvs = s.rvs ∧
    (logRec s kind code orig flags id page desc detail).latch = s.latch ∧ (logRec s kind code orig flags id page desc detail).ports = s.ports ∧ (logRec s kind code orig flags id page desc detail).life = s.life ∧ (logRec s kind code orig flags id page desc detail).mem = s.mem ∧
    (logRec s kind code orig flags id page desc detail).pcieMem = s.pcieMem ∧ (logRec s kind code orig flags id page desc detail).ecc = s.ecc ∧ (logRec s kind code orig flags id page desc detail).ctxs = s.ctxs ∧ (logRec s kind code orig flags id page desc detail).models = s.models ∧
    (logRec s kind code orig flags id page desc detail).car = s.car ∧ (logRec s kind code orig flags id page desc detail).ket = s.ket ∧ (logRec s kind code orig flags id page desc detail).chans = s.chans ∧ (logRec s kind code orig flags id page desc detail).gong = s.gong ∧
    (logRec s kind code orig flags id page desc detail).sec = s.sec ∧ (logRec s kind code orig flags id page desc detail).peal = s.peal ∧ (logRec s kind code orig flags id page desc detail).flows = s.flows ∧ (logRec s kind code orig flags id page desc detail).keys = s.keys ∧
    (logRec s kind code orig flags id page desc detail).portMode = s.portMode ∧ (logRec s kind code orig flags id page desc detail).excWin = s.excWin ∧ (logRec s kind code orig flags id page desc detail).stms = s.stms ∧ (logRec s kind code orig flags id page desc detail).decs = s.decs ∧
    (logRec s kind code orig flags id page desc detail).adaptIn = s.adaptIn ∧ (logRec s kind code orig flags id page desc detail).gates = s.gates ∧ (logRec s kind code orig flags id page desc detail).sframes = s.sframes ∧ (logRec s kind code orig flags id page desc detail).pipes = s.pipes ∧
    (logRec s kind code orig flags id page desc detail).rjobs = s.rjobs ∧ (logRec s kind code orig flags id page desc detail).ringAt = s.ringAt ∧ (logRec s kind code orig flags id page desc detail).clave = s.clave ∧ (logRec s kind code orig flags id page desc detail).claveLast = s.claveLast ∧
    (logRec s kind code orig flags id page desc detail).leases = s.leases ∧ (logRec s kind code orig flags id page desc detail).returns = s.returns ∧ (logRec s kind code orig flags id page desc detail).seqs = s.seqs ∧ (logRec s kind code orig flags id page desc detail).engs = s.engs ∧
    (logRec s kind code orig flags id page desc detail).cores = s.cores ∧ (logRec s kind code orig flags id page desc detail).batches = s.batches ∧ (logRec s kind code orig flags id page desc detail).sets = s.sets ∧ (logRec s kind code orig flags id page desc detail).outlets = s.outlets ∧
    (logRec s kind code orig flags id page desc detail).staging = s.staging ∧ (logRec s kind code orig flags id page desc detail).stageAt = s.stageAt ∧ (logRec s kind code orig flags id page desc detail).fwBlk = s.fwBlk ∧ (logRec s kind code orig flags id page desc detail).evids = s.evids ∧
    (logRec s kind code orig flags id page desc detail).encs = s.encs ∧ (logRec s kind code orig flags id page desc detail).snaps = s.snaps ∧ (logRec s kind code orig flags id page desc detail).encCpl = s.encCpl ∧ (logRec s kind code orig flags id page desc detail).ajobs = s.ajobs ∧
    (logRec s kind code orig flags id page desc detail).free = s.free := by
  obtain ⟨_, _, _, _, _, h⟩ := logRec_frame s kind code orig flags id page desc detail
  rw [h]
  exact ⟨rfl, rfl, rfl, rfl, rfl, rfl, rfl, rfl, rfl, rfl, rfl, rfl, rfl, rfl, rfl, rfl, rfl, rfl, rfl, rfl, rfl, rfl, rfl, rfl, rfl, rfl, rfl, rfl, rfl, rfl, rfl, rfl, rfl, rfl, rfl, rfl, rfl, rfl, rfl, rfl, rfl, rfl, rfl, rfl, rfl, rfl, rfl, rfl, rfl⟩

/-- Everything that `holdFault` can change. -/
theorem holdFault_frame (s : State) (page code space id : Nat) :
    ∃ x0 x1 x2 x3, holdFault s page code space id = { s with blks := x0, regs := x1, pcie := x2, out := x3 } := by
  unfold holdFault
  split
  · exact ⟨s.blks, s.regs, s.pcie, s.out, rfl⟩
  · exact updBlk_frame s page _

@[simp] theorem holdFault_same (s : State) (page code space id : Nat) :
    (holdFault s page code space id).pending = s.pending ∧ (holdFault s page code space id).part = s.part ∧ (holdFault s page code space id).tb = s.tb ∧ (holdFault s page code space id).rvs = s.rvs ∧
    (holdFault s page code space id).latch = s.latch ∧ (holdFault s page code space id).ports = s.ports ∧ (holdFault s page code space id).life = s.life ∧ (holdFault s page code space id).mem = s.mem ∧
    (holdFault s page code space id).pcieMem = s.pcieMem ∧ (holdFault s page code space id).ecc = s.ecc ∧ (holdFault s page code space id).ctxs = s.ctxs ∧ (holdFault s page code space id).models = s.models ∧
    (holdFault s page code space id).car = s.car ∧ (holdFault s page code space id).ket = s.ket ∧ (holdFault s page code space id).chans = s.chans ∧ (holdFault s page code space id).gong = s.gong ∧
    (holdFault s page code space id).toc = s.toc ∧ (holdFault s page code space id).sec = s.sec ∧ (holdFault s page code space id).peal = s.peal ∧ (holdFault s page code space id).flows = s.flows ∧
    (holdFault s page code space id).keys = s.keys ∧ (holdFault s page code space id).portMode = s.portMode ∧ (holdFault s page code space id).excWin = s.excWin ∧ (holdFault s page code space id).stms = s.stms ∧
    (holdFault s page code space id).decs = s.decs ∧ (holdFault s page code space id).adaptIn = s.adaptIn ∧ (holdFault s page code space id).gates = s.gates ∧ (holdFault s page code space id).sframes = s.sframes ∧
    (holdFault s page code space id).pipes = s.pipes ∧ (holdFault s page code space id).rjobs = s.rjobs ∧ (holdFault s page code space id).ringAt = s.ringAt ∧ (holdFault s page code space id).clave = s.clave ∧
    (holdFault s page code space id).claveLast = s.claveLast ∧ (holdFault s page code space id).leases = s.leases ∧ (holdFault s page code space id).returns = s.returns ∧ (holdFault s page code space id).seqs = s.seqs ∧
    (holdFault s page code space id).engs = s.engs ∧ (holdFault s page code space id).cores = s.cores ∧ (holdFault s page code space id).batches = s.batches ∧ (holdFault s page code space id).sets = s.sets ∧
    (holdFault s page code space id).outlets = s.outlets ∧ (holdFault s page code space id).staging = s.staging ∧ (holdFault s page code space id).stageAt = s.stageAt ∧ (holdFault s page code space id).fwBlk = s.fwBlk ∧
    (holdFault s page code space id).evids = s.evids ∧ (holdFault s page code space id).encs = s.encs ∧ (holdFault s page code space id).snaps = s.snaps ∧ (holdFault s page code space id).encCpl = s.encCpl ∧
    (holdFault s page code space id).ajobs = s.ajobs ∧ (holdFault s page code space id).free = s.free := by
  obtain ⟨_, _, _, _, h⟩ := holdFault_frame s page code space id
  rw [h]
  exact ⟨rfl, rfl, rfl, rfl, rfl, rfl, rfl, rfl, rfl, rfl, rfl, rfl, rfl, rfl, rfl, rfl, rfl, rfl, rfl, rfl, rfl, rfl, rfl, rfl, rfl, rfl, rfl, rfl, rfl, rfl, rfl, rfl, rfl, rfl, rfl, rfl, rfl, rfl, rfl, rfl, rfl, rfl, rfl, rfl, rfl, rfl, rfl, rfl, rfl, rfl⟩

/-- Everything that `raiseFault` can change. -/
theorem raiseFault_frame (s : State) (sub : Subj) (code page desc detail orig tagFlags : Nat) :
    ∃ x0 x1 x2 x3 x4 x5, raiseFault s sub code page desc detail orig tagFlags = { s with blks := x0, regs := x1, pcie := x2, out := x3, toc := x4, ctxs := x5 } := by
  unfold raiseFault
  split
  · next n =>
    dsimp only
    obtain ⟨b1, r1, p1, o1, t1, h1⟩ := logRec_frame s 0 code orig
      (4 * b2n ((decide ((ctx s n).st = .teardown)) || inReset s n) + tagFlags) n page desc detail
    split
    · exact ⟨b1, r1, p1, o1, t1, s.ctxs, h1⟩
    · obtain ⟨b2, r2, p2, o2, h2⟩ := holdFault_frame (logRec s 0 code orig
        (4 * b2n ((decide ((ctx s n).st = .teardown)) || inReset s n) + tagFlags) n page desc detail) page code 0 n
      split
      · exact ⟨b2, r2, p2, o2, t1, _, by rw [h2, h1]; rfl⟩
      · exact ⟨b2, r2, p2, o2, t1, s.ctxs, by rw [h2, h1]⟩
  · obtain ⟨b1, r1, p1, o1, t1, h1⟩ := logRec_frame s 0 code orig (sub.space + tagFlags) sub.id page desc detail
    obtain ⟨b2, r2, p2, o2, h2⟩ := holdFault_frame (logRec s 0 code orig (sub.space + tagFlags) sub.id page desc detail) page
      code sub.space sub.id
    exact ⟨b2, r2, p2, o2, t1, s.ctxs, by rw [h2, h1]⟩

@[simp] theorem raiseFault_same (s : State) (sub : Subj) (code page desc detail orig tagFlags : Nat) :
    (raiseFault s sub code page desc detail orig tagFlags).pending = s.pending ∧ (raiseFault s sub code page desc detail orig tagFlags).part = s.part ∧ (raiseFault s sub code page desc detail orig tagFlags).tb = s.tb ∧ (raiseFault s sub code page desc detail orig tagFlags).rvs = s.rvs ∧
    (raiseFault s sub code page desc detail orig tagFlags).latch = s.latch ∧ (raiseFault s sub code page desc detail orig tagFlags).ports = s.ports ∧ (raiseFault s sub code page desc detail orig tagFlags).life = s.life ∧ (raiseFault s sub code page desc detail orig tagFlags).mem = s.mem ∧
    (raiseFault s sub code page desc detail orig tagFlags).pcieMem = s.pcieMem ∧ (raiseFault s sub code page desc detail orig tagFlags).ecc = s.ecc ∧ (raiseFault s sub code page desc detail orig tagFlags).models = s.models ∧ (raiseFault s sub code page desc detail orig tagFlags).car = s.car ∧
    (raiseFault s sub code page desc detail orig tagFlags).ket = s.ket ∧ (raiseFault s sub code page desc detail orig tagFlags).chans = s.chans ∧ (raiseFault s sub code page desc detail orig tagFlags).gong = s.gong ∧ (raiseFault s sub code page desc detail orig tagFlags).sec = s.sec ∧
    (raiseFault s sub code page desc detail orig tagFlags).peal = s.peal ∧ (raiseFault s sub code page desc detail orig tagFlags).flows = s.flows ∧ (raiseFault s sub code page desc detail orig tagFlags).keys = s.keys ∧ (raiseFault s sub code page desc detail orig tagFlags).portMode = s.portMode ∧
    (raiseFault s sub code page desc detail orig tagFlags).excWin = s.excWin ∧ (raiseFault s sub code page desc detail orig tagFlags).stms = s.stms ∧ (raiseFault s sub code page desc detail orig tagFlags).decs = s.decs ∧ (raiseFault s sub code page desc detail orig tagFlags).adaptIn = s.adaptIn ∧
    (raiseFault s sub code page desc detail orig tagFlags).gates = s.gates ∧ (raiseFault s sub code page desc detail orig tagFlags).sframes = s.sframes ∧ (raiseFault s sub code page desc detail orig tagFlags).pipes = s.pipes ∧ (raiseFault s sub code page desc detail orig tagFlags).rjobs = s.rjobs ∧
    (raiseFault s sub code page desc detail orig tagFlags).ringAt = s.ringAt ∧ (raiseFault s sub code page desc detail orig tagFlags).clave = s.clave ∧ (raiseFault s sub code page desc detail orig tagFlags).claveLast = s.claveLast ∧ (raiseFault s sub code page desc detail orig tagFlags).leases = s.leases ∧
    (raiseFault s sub code page desc detail orig tagFlags).returns = s.returns ∧ (raiseFault s sub code page desc detail orig tagFlags).seqs = s.seqs ∧ (raiseFault s sub code page desc detail orig tagFlags).engs = s.engs ∧ (raiseFault s sub code page desc detail orig tagFlags).cores = s.cores ∧
    (raiseFault s sub code page desc detail orig tagFlags).batches = s.batches ∧ (raiseFault s sub code page desc detail orig tagFlags).sets = s.sets ∧ (raiseFault s sub code page desc detail orig tagFlags).outlets = s.outlets ∧ (raiseFault s sub code page desc detail orig tagFlags).staging = s.staging ∧
    (raiseFault s sub code page desc detail orig tagFlags).stageAt = s.stageAt ∧ (raiseFault s sub code page desc detail orig tagFlags).fwBlk = s.fwBlk ∧ (raiseFault s sub code page desc detail orig tagFlags).evids = s.evids ∧ (raiseFault s sub code page desc detail orig tagFlags).encs = s.encs ∧
    (raiseFault s sub code page desc detail orig tagFlags).snaps = s.snaps ∧ (raiseFault s sub code page desc detail orig tagFlags).encCpl = s.encCpl ∧ (raiseFault s sub code page desc detail orig tagFlags).ajobs = s.ajobs ∧ (raiseFault s sub code page desc detail orig tagFlags).free = s.free := by
  obtain ⟨_, _, _, _, _, _, h⟩ := raiseFault_frame s sub code page desc detail orig tagFlags
  rw [h]
  exact ⟨rfl, rfl, rfl, rfl, rfl, rfl, rfl, rfl, rfl, rfl, rfl, rfl, rfl, rfl, rfl, rfl, rfl, rfl, rfl, rfl, rfl, rfl, rfl, rfl, rfl, rfl, rfl, rfl, rfl, rfl, rfl, rfl, rfl, rfl, rfl, rfl, rfl, rfl, rfl, rfl, rfl, rfl, rfl, rfl, rfl, rfl, rfl, rfl⟩

/-- Everything that `ctxFault` can change. -/
theorem ctxFault_frame (s : State) (n code page desc : Nat) :
    ∃ x0 x1 x2 x3 x4 x5, ctxFault s n code page desc = { s with blks := x0, regs := x1, pcie := x2, out := x3, toc := x4, ctxs := x5 } := raiseFault_frame s (.ctx n) code page desc 0 0 0

@[simp] theorem ctxFault_same (s : State) (n code page desc : Nat) :
    (ctxFault s n code page desc).pending = s.pending ∧ (ctxFault s n code page desc).part = s.part ∧ (ctxFault s n code page desc).tb = s.tb ∧ (ctxFault s n code page desc).rvs = s.rvs ∧
    (ctxFault s n code page desc).latch = s.latch ∧ (ctxFault s n code page desc).ports = s.ports ∧ (ctxFault s n code page desc).life = s.life ∧ (ctxFault s n code page desc).mem = s.mem ∧
    (ctxFault s n code page desc).pcieMem = s.pcieMem ∧ (ctxFault s n code page desc).ecc = s.ecc ∧ (ctxFault s n code page desc).models = s.models ∧ (ctxFault s n code page desc).car = s.car ∧
    (ctxFault s n code page desc).ket = s.ket ∧ (ctxFault s n code page desc).chans = s.chans ∧ (ctxFault s n code page desc).gong = s.gong ∧ (ctxFault s n code page desc).sec = s.sec ∧
    (ctxFault s n code page desc).peal = s.peal ∧ (ctxFault s n code page desc).flows = s.flows ∧ (ctxFault s n code page desc).keys = s.keys ∧ (ctxFault s n code page desc).portMode = s.portMode ∧
    (ctxFault s n code page desc).excWin = s.excWin ∧ (ctxFault s n code page desc).stms = s.stms ∧ (ctxFault s n code page desc).decs = s.decs ∧ (ctxFault s n code page desc).adaptIn = s.adaptIn ∧
    (ctxFault s n code page desc).gates = s.gates ∧ (ctxFault s n code page desc).sframes = s.sframes ∧ (ctxFault s n code page desc).pipes = s.pipes ∧ (ctxFault s n code page desc).rjobs = s.rjobs ∧
    (ctxFault s n code page desc).ringAt = s.ringAt ∧ (ctxFault s n code page desc).clave = s.clave ∧ (ctxFault s n code page desc).claveLast = s.claveLast ∧ (ctxFault s n code page desc).leases = s.leases ∧
    (ctxFault s n code page desc).returns = s.returns ∧ (ctxFault s n code page desc).seqs = s.seqs ∧ (ctxFault s n code page desc).engs = s.engs ∧ (ctxFault s n code page desc).cores = s.cores ∧
    (ctxFault s n code page desc).batches = s.batches ∧ (ctxFault s n code page desc).sets = s.sets ∧ (ctxFault s n code page desc).outlets = s.outlets ∧ (ctxFault s n code page desc).staging = s.staging ∧
    (ctxFault s n code page desc).stageAt = s.stageAt ∧ (ctxFault s n code page desc).fwBlk = s.fwBlk ∧ (ctxFault s n code page desc).evids = s.evids ∧ (ctxFault s n code page desc).encs = s.encs ∧
    (ctxFault s n code page desc).snaps = s.snaps ∧ (ctxFault s n code page desc).encCpl = s.encCpl ∧ (ctxFault s n code page desc).ajobs = s.ajobs ∧ (ctxFault s n code page desc).free = s.free := by
  obtain ⟨_, _, _, _, _, _, h⟩ := ctxFault_frame s n code page desc
  rw [h]
  exact ⟨rfl, rfl, rfl, rfl, rfl, rfl, rfl, rfl, rfl, rfl, rfl, rfl, rfl, rfl, rfl, rfl, rfl, rfl, rfl, rfl, rfl, rfl, rfl, rfl, rfl, rfl, rfl, rfl, rfl, rfl, rfl, rfl, rfl, rfl, rfl, rfl, rfl, rfl, rfl, rfl, rfl, rfl, rfl, rfl, rfl, rfl, rfl, rfl⟩

end Sys2Proof.Machine
end

