-- ==== Sys2Proof/Laws/Ops.lean ====
section
/-!
SUPPORT. Laws/Ops.lean: what the shared operations leave in the registers and in the headers: reads after writes,
and that counting and interrupts change no header field but counts.
-/
namespace Sys2Proof.Machine

/-! ### Registers -/

theorem rkey_inj {p o q r : Nat} (ho : o < 0x10000) (hr : r < 0x10000) (h : rkey p o = rkey q r) : p = q ∧ o = r := by
  unfold rkey at h; omega

@[simp] theorem getR_putR (s : State) (p o : Nat) (w : Word) (h : tget s.rvs (rkey p o) = none) :
    getR (putR s p o w) p o = w := by
  simp [getR, putR, h]

theorem getR_putR_ne (s : State) {p o q r : Nat} (w : Word) (h : rkey p o ≠ rkey q r) :
    getR (putR s p o w) q r = getR s q r := by
  simp [getR, putR, tgetD_tset_ne _ _ _ h]

theorem getR_putR_page (s : State) {p o q r : Nat} (w : Word) (ho : o < 0x10000) (hr : r < 0x10000) (h : p ≠ q) :
    getR (putR s p o w) q r = getR s q r := getR_putR_ne s w (fun e => h (rkey_inj ho hr e).1)

theorem getR_congr {s t : State} (h : t.regs = s.regs) (h' : t.rvs = s.rvs) (p o : Nat) : getR t p o = getR s p o := by
  simp [getR, h, h']

@[simp] theorem maj_all (w : Word) : (Tri.all w).maj = w := by simp [Tri.maj, Tri.all]

@[simp] theorem getR_putRV (s : State) (p o : Nat) (w : Word) : getR (putRV s p o w) p o = w := by
  simp [getR, putRV]

theorem getR_putRV_ne (s : State) {p o q r : Nat} (w : Word) (h : rkey p o ≠ rkey q r) :
    getR (putRV s p o w) q r = getR s q r := by
  simp [getR, putRV, tget_tset_ne _ _ h]

/-! ### Headers -/

@[simp] theorem blk_setBlk (s : State) (p : Nat) (b : Blk) : blk (setBlk s p b) p = b := by simp [blk, setBlk]

theorem blk_setBlk_ne (s : State) {p q : Nat} (b : Blk) (h : p ≠ q) : blk (setBlk s p b) q = blk s q := by
  simp [blk, setBlk, tgetD_tset_ne _ _ _ h]

theorem blk_congr {s t : State} (h : t.blks = s.blks) (p : Nat) : blk t p = blk s p := by simp [blk, h]

@[simp] theorem blk_putR (s : State) (p o : Nat) (w : Word) (q : Nat) : blk (putR s p o w) q = blk s q := rfl

/-- Two headers that differ in their event counts at most. -/
def cntOnly (a b : Blk) : Prop := ∃ c, b = { a with cnt := c }

theorem cntOnly.refl (a : Blk) : cntOnly a a := ⟨a.cnt, rfl⟩

theorem cntOnly.trans {a b c : Blk} (h : cntOnly a b) (k : cntOnly b c) : cntOnly a c := by
  obtain ⟨x, rfl⟩ := h
  obtain ⟨y, rfl⟩ := k
  exact ⟨y, rfl⟩

/-- Every page's counts but one page's are unchanged, and every header is but for counts. -/
def cntPage (s t : State) (p : Nat) : Prop := ∀ q, cntOnly (blk s q) (blk t q) ∧ (q ≠ p → blk t q = blk s q)

theorem cntAdd_blk (s : State) (p n : Nat) : cntPage s (cntAdd s p n) p := by
  intro q
  by_cases h : p = q
  · subst h
    exact ⟨⟨_, by rw [cntAdd, blk_setBlk]⟩, fun e => absurd rfl e⟩
  · have e : blk (cntAdd s p n) q = blk s q := by rw [cntAdd, blk_setBlk_ne _ _ h]
    exact ⟨e ▸ cntOnly.refl _, fun _ => e⟩

theorem cntPage.same {s t : State} (h : t.blks = s.blks) (p : Nat) : cntPage s t p := by
  intro q
  have e := blk_congr h q
  exact ⟨e ▸ cntOnly.refl _, fun _ => e⟩

theorem cntPage.trans {s t u : State} {p : Nat} (h : cntPage s t p) (k : cntPage t u p) : cntPage s u p :=
  fun q => ⟨(h q).1.trans (k q).1, fun e => ((k q).2 e).trans ((h q).2 e)⟩

/-- An interrupt request changes no header but for the counts of page 0x180. -/
theorem msixReq_blk (s : State) (v : Nat) : cntPage s (msixReq s v) 0x180 := by
  have k : ∀ (t : State) (u : Nat), cntPage t (msixTake t u) 0x180 := fun t u => by
    obtain ⟨r, p, o, h⟩ := msixTake_frame t u
    exact cntPage.same (by rw [h]) _
  have m : cntPage s (msixMerge s) 0x180 := by
    unfold msixMerge
    dsimp only
    split
    · exact cntAdd_blk s 0x180 5
    · split
      · exact (cntAdd_blk s 0x180 5).trans (k _ _)
      · exact cntAdd_blk s 0x180 5
  unfold msixReq
  split
  · exact cntPage.same rfl _
  · split
    · exact m.trans (k _ _)
    · exact k _ _

theorem irqReq_blk (s : State) (p : Nat) : cntPage s (irqReq s p) 0x180 := by
  unfold irqReq
  split
  · exact msixReq_blk _ _
  · exact cntPage.same rfl _

theorem irqReqN_blk (s : State) (p n : Nat) : cntPage s (irqReqN s p n) 0x180 := by
  induction n generalizing s with
  | zero => exact cntPage.same rfl _
  | succ n ih => exact (irqReq_blk s p).trans (ih _)

/-- A counted event changes no header but for counts. -/
theorem bump_cntOnly (s : State) (p n q : Nat) : cntOnly (blk s q) (blk (bump s p n) q) := by
  unfold bump
  dsimp only
  split
  · exact (cntAdd_blk s p n q).1
  · exact (cntAdd_blk s p n q).1.trans (irqReq_blk (cntAdd s p n) p q).1

/-- A counted event adds one to its counter, saturating (R45); page 0x180 can count a coalesced interrupt besides. -/
theorem bump_cnt (s : State) (p n : Nat) (h : p ≠ 0x180) :
    tgetD (blk (bump s p n) p).cnt n 0 = satInc (tgetD (blk s p).cnt n 0) := by
  have e : tgetD (blk (cntAdd s p n) p).cnt n 0 = satInc (tgetD (blk s p).cnt n 0) := by simp [cntAdd]
  unfold bump
  dsimp only
  split
  · exact e
  · rw [(irqReq_blk (cntAdd s p n) p p).2 h]; exact e

/-- A counted event changes no header of another page but page 0x180's counts. -/
theorem bump_blk_ne (s : State) (p n q : Nat) (h : q ≠ p) (h' : q ≠ 0x180) : blk (bump s p n) q = blk s q := by
  unfold bump
  dsimp only
  split
  · exact (cntAdd_blk s p n q).2 h
  · rw [(irqReq_blk (cntAdd s p n) p q).2 h']; exact (cntAdd_blk s p n q).2 h

theorem bump_st (s : State) (p n q : Nat) : (blk (bump s p n) q).st = (blk s q).st := by
  obtain ⟨c, h⟩ := bump_cntOnly s p n q; rw [h]

/-- Registers outside the PBA. -/
theorem msixTake_getR (s : State) (v q r : Nat) (h : q ≠ 0x202) (hv : v < 2048) (hr : r < 0x10000) :
    getR (msixTake s v) q r = getR s q r := by
  unfold msixTake
  split
  · have p : ∀ t : State, getR (msixPme t) q r = getR t q r := by
      intro t; refine getR_congr ?_ ?_ q r <;> (rw [msixPme]; split <;> rfl)
    rw [p]
    unfold pbaSet
    rw [getR_putR_page _ _ (by omega) hr (fun e => h e.symm)]
  · refine getR_congr ?_ ?_ q r <;> (rw [msixSend]; dsimp only; split <;> rfl)

theorem irqVec_lt {b : Blk} {u : Nat} (h : irqVec b = some u) : u < 2048 := by
  unfold irqVec at h
  split at h
  · cases h; exact Nat.mod_lt _ (by decide)
  · cases h

theorem msixMerge_getR (s : State) (q r : Nat) (h : q ≠ 0x202) (hr : r < 0x10000) : getR (msixMerge s) q r = getR s q r := by
  unfold msixMerge
  dsimp only
  split
  · rfl
  · split
    · next e => rw [msixTake_getR _ _ _ _ h (irqVec_lt e) hr]; rfl
    · rfl

theorem msixReq_getR (s : State) (v q r : Nat) (h : q ≠ 0x202) (hr : r < 0x10000) :
    getR (msixReq s v) q r = getR s q r := by
  unfold msixReq
  split
  · rfl
  · next hc =>
    have hv : v < 2048 := by
      simp only [Bool.or_eq_true, decide_eq_true_eq, not_or, Nat.not_le] at hc; exact hc.2
    rw [msixTake_getR _ _ _ _ h hv hr]
    split
    · exact msixMerge_getR _ _ _ h hr
    · rfl

theorem irqReq_getR (s : State) (p q r : Nat) (h : q ≠ 0x202) (hr : r < 0x10000) : getR (irqReq s p) q r = getR s q r := by
  unfold irqReq
  split
  · exact msixReq_getR _ _ _ _ h hr
  · rfl

/-- A counted event changes no register but in the PBA. -/
theorem bump_getR (s : State) (p n q r : Nat) (h : q ≠ 0x202) (hr : r < 0x10000) : getR (bump s p n) q r = getR s q r := by
  unfold bump
  dsimp only
  split
  · rfl
  · rw [irqReq_getR _ _ _ _ h hr]; rfl

theorem irqReqN_getR (s : State) (p n q r : Nat) (h : q ≠ 0x202) (hr : r < 0x10000) :
    getR (irqReqN s p n) q r = getR s q r := by
  induction n generalizing s with
  | zero => rfl
  | succ n ih => rw [irqReqN, ih, irqReq_getR _ _ _ _ h hr]

/-- A changed header: its page shows the change but for page 0x180's counts, the other pages show none. -/
theorem updBlk_cntOnly (s : State) (p : Nat) (f : Blk → Blk) : cntOnly (f (blk s p)) (blk (updBlk s p f) p) := by
  unfold updBlk
  have h := (irqReqN_blk (setBlk s p (f (blk s p))) p
    (popBits ((statusOf (f (blk s p)) &&& ~~~ (f (blk s p)).irqMask) &&& ~~~ (statusOf (blk s p) &&& ~~~ (blk s p).irqMask)) 23) p).1
  rwa [blk_setBlk] at h

theorem updBlk_blk_ne (s : State) (p : Nat) (f : Blk → Blk) (q : Nat) (h : q ≠ p) :
    cntOnly (blk s q) (blk (updBlk s p f) q) := by
  unfold updBlk
  have k := (irqReqN_blk (setBlk s p (f (blk s p))) p
    (popBits ((statusOf (f (blk s p)) &&& ~~~ (f (blk s p)).irqMask) &&& ~~~ (statusOf (blk s p) &&& ~~~ (blk s p).irqMask)) 23) q).1
  rwa [blk_setBlk_ne _ _ (fun e => h e.symm)] at k

theorem updBlk_getR (s : State) (p : Nat) (f : Blk → Blk) (q r : Nat) (h : q ≠ 0x202) (hr : r < 0x10000) :
    getR (updBlk s p f) q r = getR s q r := by
  unfold updBlk; rw [irqReqN_getR _ _ _ _ _ h hr]; rfl

theorem setStatus_st (s : State) (p k : Nat) (v : Bool) (q : Nat) : (blk (setStatus s p k v) q).st = (blk s q).st := by
  unfold setStatus
  by_cases h : q = p
  · subst h
    obtain ⟨c, e⟩ := updBlk_cntOnly s q (fun b => { b with status := setBits b.status k k (b2n v) })
    rw [e]
  · obtain ⟨c, e⟩ := updBlk_blk_ne s p (fun b => { b with status := setBits b.status k k (b2n v) }) q h
    rw [e]

theorem readyEdge_st (s : State) (a b : Bool) (q : Nat) : (blk (readyEdge s a b) q).st = (blk s q).st := by
  unfold readyEdge
  dsimp only
  rw [setStatus_st]
  split
  · exact bump_st _ _ _ _
  · split
    · exact bump_st _ _ _ _
    · rfl

/-- A block that changes state shows that state; every other block keeps its own. -/
theorem setSt_st (s : State) (p : Nat) (x : BlkSt) : (blk (setSt s p x) p).st = x := by
  have h : (blk (updBlk s p (fun b => { b with st := x })) p).st = x := by
    obtain ⟨c, e⟩ := updBlk_cntOnly s p (fun b => { b with st := x }); rw [e]
  unfold setSt
  dsimp only
  split
  · split
    · exact h
    · rw [readyEdge_st]; exact h
  · exact h

theorem setSt_st_ne (s : State) (p : Nat) (x : BlkSt) (q : Nat) (hq : q ≠ p) : (blk (setSt s p x) q).st = (blk s q).st := by
  have h : (blk (updBlk s p (fun b => { b with st := x })) q).st = (blk s q).st := by
    obtain ⟨c, e⟩ := updBlk_blk_ne s p (fun b => { b with st := x }) q hq; rw [e]
  unfold setSt
  dsimp only
  split
  · split
    · exact h
    · rw [readyEdge_st]; exact h
  · exact h

/-! ### Contexts and channels -/

@[simp] theorem ctx_setCtx (s : State) (n : Nat) (c : Ctx) : ctx (setCtx s n c) n = c := by simp [ctx, setCtx]

theorem ctx_setCtx_ne (s : State) {n k : Nat} (c : Ctx) (h : n ≠ k) : ctx (setCtx s n c) k = ctx s k := by
  simp [ctx, setCtx, tgetD_tset_ne _ _ _ h]

@[simp] theorem ctx_updCtx (s : State) (n : Nat) (f : Ctx → Ctx) : ctx (updCtx s n f) n = f (ctx s n) := by simp [updCtx]

theorem ctx_updCtx_ne (s : State) {n k : Nat} (f : Ctx → Ctx) (h : n ≠ k) : ctx (updCtx s n f) k = ctx s k := by
  simp [updCtx, ctx_setCtx_ne _ _ h]

@[simp] theorem chan_setChan (s : State) (c : Nat) (x : Chan) : chan (setChan s c x) c = x := by simp [chan, setChan]

end Sys2Proof.Machine
end

