-- ==== Sys2Proof/Laws/Ports.lean ====
section
/-!
SUPPORT. Laws/Ports.lean: what the command ports do: a command carried out, and its result register.
-/
namespace Sys2Proof.Machine

/-- A write that a master may make has its effect. -/
theorem guarded_reaches (m : Master) (page ofs : Nat) (s : State) (eff : State → State) (h : reaches s m page ofs = true) :
    guarded m page ofs s eff = eff s := by
  simp only [reaches, Bool.and_eq_true, beq_iff_eq] at h
  simp [guarded, h.1, h.2]

theorem portResult_getR_page (s : State) (p : Port) (tag c d q r : Nat) (h : p.page ≠ q) (hr : r < 0x10000) :
    getR (portResult s p tag c d) q r = getR s q r := by
  unfold portResult
  refine getR_putR_page _ _ ?_ hr h
  cases p <;> simp only [Port.resOfs] <;> omega

theorem stopping_portResult (s : State) (p : Port) (tag c d : Nat) : stopping (portResult s p tag c d) = stopping s := by
  unfold stopping
  rw [portResult_getR_page, portResult_getR_page] <;> first | omega | (cases p <;> simp [Port.page])

theorem lowEvent_portResult (s : State) (p : Port) (tag c d : Nat) : lowEvent (portResult s p tag c d) = lowEvent s := by
  unfold lowEvent gongState
  rw [portResult_getR_page _ _ _ _ _ _ _ (by cases p <;> simp [Port.page]) (by omega)]
  rfl

theorem targetDisp_portResult (s : State) (p q : Port) (tag c d op idx : Nat) (o : List Byte) :
    targetDisp (portResult s p tag c d) q op idx o = targetDisp s q op idx o := by
  have hd : ∀ g, dispOf (portResult s p tag c d) g = dispOf s g := fun _ => rfl
  unfold targetDisp
  cases q <;> simp only [hd] <;> rfl

theorem portDisp_portResult (s : State) (p q : Port) (tag c d op idx : Nat) (o : List Byte) :
    portDisp (portResult s p tag c d) q op idx o = portDisp s q op idx o := by
  unfold portDisp
  rw [stopping_portResult, lowEvent_portResult, targetDisp_portResult]
  rfl

/-- A command that its port takes is carried out on the state that shows its result PENDING, and its result is written. -/
theorem portCmd_takes (p : Port) (m : Master) (op tag idx : Nat) (run : POp) (s : State)
    (h : portTakes s p m op idx = true) (h5 : p ≠ .flow ∨ op ≠ 5) :
    portCmd p m op tag idx run s =
      portResult (run idx (staged s p) tag (portResult s p tag 0xF 0)).1 p tag
        (run idx (staged s p) tag (portResult s p tag 0xF 0)).2.1 (run idx (staged s p) tag (portResult s p tag 0xF 0)).2.2 := by
  simp only [portTakes, Bool.and_eq_true, beq_iff_eq, List.isEmpty_iff] at h
  obtain ⟨⟨hr, hq⟩, hd⟩ := h
  have h5' : (decide (p = .flow) && decide (op = 5)) = false := by
    simp only [Bool.and_eq_false_iff, decide_eq_false_iff_not]; exact h5
  have hq' : portQ (portResult s p tag 0xF 0) p = [] := hq
  unfold portCmd
  rw [guarded_reaches _ _ _ _ _ hr]
  dsimp only
  rw [h5']
  simp only [Bool.false_eq_true, if_false, hq, hq', List.length_nil, portDisp_portResult]
  rw [show getRec s p.page p.stageOfs p.stageN = staged s p from rfl, hd]
  simp [portRun]

@[simp] theorem resultAt_portResult (s : State) (p : Port) (tag c d : Nat) :
    resultAt (portResult s p tag c d) p tag = resultWord c d := by
  simp [resultAt, portResult, putR, resultWord]

theorem portRefuse_idle (s : State) (p : Port) (h : portQ s p = []) :
    portRefuse s p = { s with ports := tset s.ports p.key [] } := by
  simp [portRefuse, h, setPortQ]

theorem portQ_setPortQ (s : State) (p q : Port) (l : List PCmd) :
    portQ (setPortQ s p l) q = if p = q then l else portQ s q := by
  by_cases h : p = q
  · subst h; simp [portQ, setPortQ]
  · have : p.key ≠ q.key := by cases p <;> cases q <;> simp_all [Port.key]
    simp [portQ, setPortQ, tgetD_tset_ne _ _ _ this, h]

/-- With nothing waiting anywhere the held commands' settlement changes nothing but the form of the empty queues. -/
theorem heldSettle_idle (s : State) (h : heldIdle s = true) :
    ∃ q, heldSettle s = { s with ports := q } ∧ ∀ p, portQ { s with ports := q } p = [] := by
  simp only [heldIdle, Bool.and_eq_true, List.all_eq_true, List.isEmpty_iff] at h
  obtain ⟨hp, hc⟩ := h
  have key : ∀ (l : List Port) (u : State), (∀ p, portQ u p = []) →
      ∃ q, l.foldl portRefuse u = { u with ports := q } ∧ ∀ p, portQ { u with ports := q } p = [] := by
    intro l
    induction l with
    | nil => exact fun u hu => ⟨u.ports, rfl, hu⟩
    | cons p l ih =>
      intro u hu
      have e := portRefuse_idle u p (hu p)
      obtain ⟨q, hq, hr⟩ := ih (portRefuse u p) (by
        intro r; rw [e]
        have := portQ_setPortQ u p r []
        unfold setPortQ at this
        rw [this]; split
        · rfl
        · exact hu r)
      refine ⟨q, ?_, ?_⟩
      · rw [List.foldl_cons, hq, e]
      · intro r; have := hr r; rw [e] at this; exact this
  obtain ⟨q, hq, hr⟩ := key allPorts s (fun p => hp p (by cases p <;> decide))
  refine ⟨q, ?_, hr⟩
  have hw : portsWaiting { s with ports := q } = 0 := by simp only [portsWaiting, hr]; rfl
  have ht : tailsWaiting { s with ports := q } = 0 := by
    have : s.ctxs.map (fun (q : Nat × Ctx) => q.2.heldTails.length) = s.ctxs.map (fun _ => 0) :=
      List.map_congr_left (fun x hx => by simp [hc x hx])
    simp only [tailsWaiting, this]
    induction s.ctxs with
    | nil => rfl
    | cons a l ih => simpa using ih
  unfold heldSettle
  simp only [portsRefuse, hq, hw, portsRun, ht, tailsRun]

end Sys2Proof.Machine
end

