-- ==== Sys2Proof/Tests/Slice0.lean ====
section
/-!
SUPPORT. Tests/Slice0.lean: small checks of the model, and for the hypotheses of every statement a state and operands that
meet them together.
-/
namespace Sys2Proof.Tests

open Sys2Proof Sys2Proof.Machine

set_option Elab.async false

/-! ### A powered module, for the witnesses -/

/-- A profile that enables all four partitions. -/
def prof : List Byte := putAt (zeros 0x180) 0x103 [0x0F]

/-- The pages whose blocks run in it. -/
def livePages : List Nat :=
  [0x000, 0x001, 0x002, 0x003, 0x004, 0x010, 0x011, 0x012, 0x013, 0x040, 0x041, 0x042, 0x043, 0x100, 0x101, 0x102, 0x103,
   0x11E, 0x11F, 0x120, 0x121, 0x128, 0x129, 0x12A, 0x12B, 0x130, 0x131, 0x132, 0x133, 0x140, 0x15F, 0x160, 0x170, 0x171,
   0x172, 0x180, 0x181, 0x190, 0x191, 0x1A0, 0x1B0, 0x1B1, 0x1B2, 0x1C0, 0x1D0, 0x1E0, 0x1F0]

/-- A module that is up: every domain is on, BAR0 is enabled. -/
def live : State := { State.reset with
  life := { phase := .up, refclk := true, secReady := true, mgtReady := true, profile := some prof }
  blks := livePages.map (fun p => (p, { st := .run }))
  regs := (List.range 72).map (fun n => (rkey 0x1B1 (0x100 + 4 * n), 0x20000000#32))
  pcie := { memEn := true } }

/-- The state after a command, where it answers one. -/
def after (c : Instr) (s : State) : State :=
  match exec c s with
  | .next t => t
  | _ => s

/-! ### Well-formedness: each check refuses a term that breaks it -/

theorem wf_checks : okOfs 2 = false ∧ okOfs 65536 = false ∧ okUpsets [⟨0, 3, 1⟩] = false ∧ okUpsets [⟨1, 0, 1⟩] = false ∧
    okFn (.page 1024) = false ∧ okHeld (.port 9) = false ∧ okHeld (.doorbell 4096) = false ∧ okHeld (.dma 4096 0 0) = false ∧
    okHeld (.dma 0 48 0) = false ∧ okCores [48] = false ∧ okCores [3, 3] = false ∧ (Instr.registerRead .host 1024 0).wf = false ∧
    (Instr.registerRead .host 0 2).wf = false ∧ (Instr.rvFieldRead .host 0 0 [⟨0, 3, 1⟩]).wf = false ∧
    (Instr.bringupBoundExpiry (.page 1024)).wf = false ∧ (Instr.heldCommandTimeout (.port 9)).wf = false ∧
    (Instr.invocationGrant 0 [1, 1]).wf = false ∧ (Instr.flowOpen .host 256 0).wf = false ∧
    (Instr.ptmUpdate ⟨8, 0, false, none, 0, none⟩).wf = false ∧
    (Instr.packetReceive ⟨8, [], true, true, true, [], [], 0⟩).wf = false ∧ (Instr.gongSample 4095 4095 true).wf = true ∧
    (Instr.flowOpen .host 255 8191).wf = true ∧ (Instr.registerRead .host 1023 0xFFFC).wf = true := by decide +kernel

theorem wf_ranges1 : ([
    .registerWrite .host 16 0 0 0, .registerWrite .host 0 1024 0 0, .loReadLatch .host 1024 0, .rvFieldRead .host 1024 0 [],
    .rvBackgroundSweep 1024 [], .registerCrossingTimeout .host false 1024 0, .phaseBStart 4 0, .phaseBStart 0 16,
    .resetReqPartition .host 16, .quiesceSet .host 1024, .quiesceClear .host 1024, .blockQuiesced 1024,
    .fenceSet .host 1024, .fenceDrainComplete 1024, .fenceClear .host 1024, .profileSwitch .host 4,
    .profileSwitchDecoderAbandon 32, .exceptionRateWindow 8, .jitterWindowExpiry 4096, .accessUnitWritten 4096 [],
    .portModeWrite .host 2 0, .linkUp 8 false, .linkDown 8, .qsfpInsert 2 0 0 false, .qsfpInsert 0 0 256 false,
    .qsfpRemove 2, .flowOpen .host 0 8192, .flowClose .host 0 8192, .flowReadStatus .host 0 8192, .setSr .host 0 8192,
    .keyLoad .host 0 8192, .keyErase .host 0 8192, .relearnSsrc .host 0 8192, .setKeys .host 0 8192, .stmOpen .host 0 1024,
    .stmClose .host 0 1024, .stmReadStatus .host 0 1024, .setParams .host 0 1024 false, .submit .host 0 1024,
    .stmFlush .host 0 1024, .setPriority .host 0 1024, .resync .host 0 1024, .codingBlockCycleBound 32,
    .decoderHangWatchdog 32 false, .gateSet .host 0 1024, .scaleSet .host 0 1024, .gateRead .host 0 1024,
    .gateReset .host 0 1024, .ringReset .host 0 1024, .gatingDecide 1024, .pipeTakeEntry 32, .cropEntryComplete 32,
    .scalerClaimStaleExpiry 1024, .scalerPipeWatchdog 4 false, .enginePauseWrite .host 1024 false, .engInjectArm .host 1024 0] : List Instr).all (fun i => !i.wf) = true := by decide +kernel

theorem wf_ranges2 : ([
    .mpass 4096 0, .mpass 0 48, .ppass 4096 0, .ppass 0 48, .cpass 4096 0, .cpass 0 48, .drain 4096 0, .drain 0 48,
    .crossedTensorCommit 4096 0, .crossedTensorCommit 0 1024, .dmaCopy 4096 0, .dmaCopy 0 48, .dmaFill 4096 0,
    .dmaFill 0 48, .dmaTranspose 4096 0, .dmaTranspose 0 48, .reshard 4096 0, .reshard 0 48, .reshardWatchdog 4096 0,
    .reshardWatchdog 0 48, .waitRowReady 4096 0, .waitRowReady 0 48, .waitClave 4096 0, .waitClave 0 48,
    .waitSatisfied 4096 0, .waitSatisfied 0 48, .waitWatchdogExpiry 4096 0, .waitWatchdogExpiry 0 48,
    .signalRowReady 4096 0, .signalRowReady 0 48, .signalClave 4096 0, .signalClave 0 48, .signalClaveSet 4096 0,
    .signalClaveSet 0 48, .claim 4096 0, .claim 0 48, .claimTake 4096 0, .claimTake 0 48, .claveValWrite .host 256 0,
    .fenceLocal 4096 0, .fenceLocal 0 48, .fenceMemory 4096 0, .fenceMemory 0 48, .fenceBarrier 4096 0, .fenceBarrier 0 48,
    .barrierRelease 4096, .fenceEnd 4096 0, .fenceEnd 0 48, .spec 4096 0, .spec 0 48, .commit 4096 0, .commit 0 48,
    .squash 4096 0, .squash 0 48, .tagCommitComplete 4096 0 0, .tagCommitComplete 0 48 0] : List Instr).all (fun i => !i.wf) = true := by decide +kernel

theorem wf_ranges3 : ([
    .tagSquashComplete 4096 0 0, .tagSquashComplete 0 48 0, .killScrubComplete 48 0, .killScrubComplete 0 4096,
    .pendingScrubDeadline 48, .spDebugRetain .host 48 0, .spDebugRelease .host 48 0, .ctxOpen .host 0 4096,
    .ctxClose .host 0 4096, .ctxRead .host 0 4096, .ctxKill .host 0 4096, .ctxResume .host 0 4096, .modelLoad .host 0 4096,
    .modelUnload .host 0 4096, .ctxSave .host 0 4096, .ctxRestore .host 0 4096, .dbTail 4096 0 0, .dbTail 0 16 0,
    .dbCplCons 4096 0 0, .dbCplCons 0 16 0, .invocationGrant 4096 [], .invocationComplete 4096, .sliceExpiry 4096,
    .parkComplete 4096 [], .unparkRestore 4096, .evictionComplete 4096 [], .restoreComplete 4096,
    .contextFault 4096 0 0 0 0, .contextFault 0 256 0 0 0, .teardownComplete 4096, .teardownWatchdog 4096 [] false,
    .contextProgressWatchdog 4096, .batchOpen .host 0 4096, .batchClose .host 0 4096, .seqRead .host 0 4096,
    .seqEnd .host 0 4096, .tokenPoll 64, .tokenWaitExpiry 64, .stepCadenceExpiry 64, .stepPlan 64, .trackSet .host 0 4096,
    .outletSet .host 0 4096, .trackOrderRelease 1024, .outletIrqTimer 256, .udpFlushExpiry 256, .udpRateWindow 256,
    .ptxTailWrite .host 8 0, .evidSet .host 0 1024, .clip .host 0 1024, .snap .host 0 1024, .evidRead .host 0 1024,
    .encoderTakePicture 2, .encoderRowWatchdog 2 false, .adaptOpen .host 0 1024, .adaptStop .host 0 1024,
    .adaptRead .host 0 1024] : List Instr).all (fun i => !i.wf) = true := by decide +kernel

theorem wf_ranges4 : ([
    .adaptClose .host 0 1024, .adaptStepLoadDone 4, .adaptConditionChange 4, .poolCreate .host 0 1024,
    .poolDestroy .host 0 1024, .poolQuota .host 0 1024, .poolRead .host 0 1024, .ketAlloc .host 0 1024,
    .ketClaim .host 0 1024, .ketRelease .host 0 1024, .ketFree .host 0 1024, .patrolScrubRead 32, .recentre 32 [],
    .mcRetrain .host 32, .retrainSlice 32 none, .bankIdleClose 32 0, .bankIdleClose 0 16, .refresh 32 0 0, .refresh 0 16 0,
    .selfRefreshEntry 32, .bar2Read 68719476736 0, .bar2Write 68719476736 [], .xltCfgWrite .host 256 0,
    .outwCfgWrite .host 64 0, .pcieCompletionTimeout 1024, .msixPendingSend 2048, .msixHoldoffExpiry 2048,
    .gongSample 4096 0 false, .gongSample 0 4096 false, .pdOn .host 72 false, .pdOff .host 72, .pdSwitchOnComplete 72,
    .nocTimeout 4096 0 0 false, .nocTimeout 0 48 0 false, .unitReset 1024 0 false, .tbUtimerExpiry 6,
    .updStage .host 0 1024, .updActivate .host 0 1024, .updCommit .host 0 1024, .updAbandon .host 0 1024,
    .updRead .host 0 1024, .peerHbChange 16, .peerSilentTimeout 16, .peerMessageReceive 16, .expect .host 0 1024,
    .migrate .host 0 1024, .trackSend .host 0 1024, .cancel .host 0 1024, .registerRead .host 1024 0] : List Instr).all (fun i => !i.wf) = true := by decide +kernel

theorem wf_facts :
    (∀ (f0 : CutFact), (Instr.fenceCut 1024 f0).wf = false) ∧
    (∀ (f0 : AuHdr), (Instr.decoderDispatch 32 f0).wf = false) ∧
    (∀ (f0 : DecFact), (Instr.decodeWritebackComplete 32 f0).wf = false) ∧
    (∀ (f0 : AuHdr) (f1 : DecFact), (Instr.decodeBudgetExpiry 1024 f0 f1).wf = false) ∧
    (∀ (f0 : ExecFact), (Instr.passComplete 4096 0 0 f0).wf = false) ∧
    (∀ (f0 : ExecFact), (Instr.passComplete 0 48 0 f0).wf = false) ∧
    (∀ (f0 : ExecFact), (Instr.drainComplete 4096 0 f0).wf = false) ∧
    (∀ (f0 : ExecFact), (Instr.drainComplete 0 48 f0).wf = false) ∧
    (∀ (f0 : ExecFact), (Instr.dmaComplete 4096 0 0 f0).wf = false) ∧
    (∀ (f0 : ExecFact), (Instr.dmaComplete 0 48 0 f0).wf = false) ∧
    (∀ (f0 : ExecFact), (Instr.reshardComplete 4096 0 f0).wf = false) ∧
    (∀ (f0 : ExecFact), (Instr.reshardComplete 0 48 f0).wf = false) ∧
    (∀ (f0 : VecFact), (Instr.vec 4096 0 f0).wf = false) ∧
    (∀ (f0 : VecFact), (Instr.vec 0 48 f0).wf = false) ∧
    (∀ (f0 : EncFact), (Instr.encoderPictureComplete 2 f0).wf = false) ∧
    (∀ (f0 : CplSt), (Instr.pcieCompletionReceive 1024 f0).wf = false) ∧
    (∀ (f0 : FwSubj), (Instr.fwAssert f0 1024).wf = false) :=
  ⟨fun _ => rfl, fun _ => rfl, fun _ => rfl, fun _ _ => rfl, fun _ => rfl, fun _ => rfl, fun _ => rfl, fun _ => rfl, fun _ => rfl, fun _ => rfl, fun _ => rfl, fun _ => rfl, fun _ => rfl, fun _ => rfl, fun _ => rfl, fun _ => rfl, fun _ => rfl⟩

/-- No row of the table gives bits: no word spells a command. -/
theorem test_no_words (n w : Nat) : decodeTableWord n w = none ∧ live.withFetchWord n w = live := ⟨rfl, rfl⟩

/-! ### Chapter 02 -/

theorem wit_step : ({ live with pending := [.perstNAssert] } : State).pending = .perstNAssert :: [] := rfl

theorem wit_idle : live.pending = [] ∧ (blk live 0x1F0).st ≠ .reset ∧ (blk State.reset 0x1F0).st = .reset := by decide +kernel

theorem wit_header : hasHeader 0x000 = true ∧ hasHeader 0x1F0 = true := by decide +kernel

theorem wit_invariant : Holds Config.part live ∧ step live = .next (idle live) := ⟨⟨rfl, rfl, rfl⟩, rfl⟩

theorem wit_read_disposals : okOfs 0xFFFC = true ∧ accessOf live .host 0x3FF 0xFFFC = .reserved ∧
    accessOf { live with part := .m32 } .host 0x11E 0xFFFC = .off ∧
    accessOf { live with blks := [(0x160, { st := .fenced })] } .host 0x160 0xFFFC = .fenced := by decide +kernel

/-- The worked example of chapter 02: BLK_ID of page 0x11E on a CX932-M48. -/
theorem test_read_absent_decoder : (after (.registerRead .host 0x11E 0x000) { live with part := .m32 }).out.head? =
    some (.data [0xFF, 0xFF, 0xFF, 0xFF]) ∧
    getR (after (.registerRead .host 0x11E 0x000) { live with part := .m32 }) 0x000 0x110 = 0x13478000#32 := by decide +kernel

/-- The same read on a CX960-M48. -/
theorem test_read_decoder_id : (after (.registerRead .host 0x11E 0x000) live).out.head? =
    some (.data [0x1E, 0x00, 0x20, 0x00]) ∧
    (after (.registerRead .host 0x11E 0x00C) live).out.head? = some (.data [0x41, 0, 0, 0]) := by decide +kernel

theorem wit_read_reach : accessOf live .host 0x11F 0x00C = .reach ∧ guardHit .host 0x11F 0x00C (regFlds 0x11F 0x00C) = false ∧
    hasRv 0x11F 0x00C = false ∧ regLo 0x11F 0x00C = false ∧ tget live.latch (rkey 0x11F 0x00C) = none := by decide +kernel

theorem wit_read_lo : accessOf live .host 0x160 0x100 = .reach ∧ guardHit .host 0x160 0x100 (regFlds 0x160 0x100) = false ∧
    hasRv 0x160 0x100 = false ∧ regLo 0x160 0x100 = true := by decide +kernel

theorem wit_read_latched : let s := after (.loReadLatch .host 0x160 0x100) live
    accessOf s .host 0x160 0x104 = .reach ∧ guardHit .host 0x160 0x104 (regFlds 0x160 0x104) = false ∧
    hasRv 0x160 0x104 = false ∧ regLo 0x160 0x104 = false ∧ tget s.latch (rkey 0x160 0x104) = some 0 := by decide +kernel

theorem wit_ready_map : accessOf live .user 0x001 0x100 = .reach := by decide +kernel

theorem wit_voted_read : let u := [⟨0x018, 2, 1⟩]
    hasRv 0x160 0x018 = true ∧ pageOn live 0x160 = true ∧ accessOf (upsets live 0x160 u) .host 0x160 0x018 = .reach ∧
    guardHit .host 0x160 0x018 (regFlds 0x160 0x018) = false ∧ regLo 0x160 0x018 = false ∧
    tget live.latch (rkey 0x160 0x018) = none ∧
    (regFlds 0x160 0x018).filter (fun g => g.acc == .rv &&
      disagree (copiesOf (upsets live 0x160 u) 0x160 0x018) (maskW g.hi g.lo) != 0) = [fRvP 0 0] := by decide +kernel

/-- One upset bit is voted away, rewritten and counted (R42). -/
theorem test_scrub : let t := after (.rvFieldRead .host 0x160 0x018 [⟨0x018, 2, 1⟩]) live
    (blk t 0x160).fence = ⟨0, 0, 0⟩ ∧ (blk t 0x160).voteErr = 0x00060001#32 ∧ tgetD (blk t 0x000).cnt 6 0 = 1 := by
  decide +kernel

theorem wit_sweep : hasHeader 0x1F0 = true ∧ pageOn live 0x1F0 = true := by decide +kernel

theorem wit_write : accessOf live .host 0x1F0 0x044 = .reach ∧ prOpen .host 0x1F0 0x044 = true ∧
    accessOf live .fw 0x004 0x040 = .reach ∧ prOpen .fw 0x004 0x040 = true ∧ accessOf live .mgmt 0x11F 0x03C = .reach ∧
    pageMsix 0x11F = false ∧ accessOf live .host 0x1B0 0x114 = .reach ∧ tget live.rvs (rkey 0x1B0 0x114) = none := by
  decide +kernel

theorem wit_write_dropped : okOfs 0xFFFC = true ∧ accessOf live .host 0x3FF 0xFFFC ≠ .unserved ∧
    accessOf live .host 0x1C0 0x040 = .reach ∧ guardHit .host 0x1C0 0x040 (regFlds 0x1C0 0x040) = true := by decide +kernel

theorem wit_crossing : accessOf live .host 0x1E0 0xFFFC = .reach := by decide +kernel

/-! ### Chapter 03 -/

/-- A live module with the header of one page replaced. -/
def withBlk (p : Nat) (b : Blk) : State := setBlk live p b

theorem wit_power_on : State.reset.life.phase = .off ∧ imageLeft State.reset.sec = none := by decide +kernel

/-- Without an image the first power-on ends in recovery, with RESET_CAUSE 1 (R58, R60). -/
theorem test_power_on : let t := after (.powerOnReset ⟨true, false, false⟩) State.reset
    t.life.recovery = true ∧ t.life.phase = .waitPerst ∧ getR t 0x004 0x100 = 1 ∧ (blk t 0x1C0).st = .failed := by
  decide +kernel

theorem wit_perst : live.life.phase = .up := rfl

theorem test_perst : let t := after .perstNAssert live
    t.life.phase = .waitPerst ∧ getR t 0x004 0x100 = 2 ∧ (blk t 0x160).st = .reset := by decide +kernel

theorem wit_phase_b : let s := { live with life := { live.life with phase := .waitPerst } }
    s.life.phase = .waitPerst ∧ s.life.secReady = true ∧ profOf s 3 = none := by decide +kernel

theorem wit_warm : reaches live .host 0x004 0x104 = true ∧ warmFree live = true := by decide +kernel

theorem test_warm : let t := after (.resetReqWarmChip .host) { live with mem := [(3, 7), (0x004000000000, 9)] }
    getR t 0x004 0x100 = 0x103#32 ∧ t.mem = [(3, 7)] ∧ tgetD (blk t 0x004).cnt 0 0 = 1 ∧
    bits (getR t 0x1A0 0x124) 31 28 = 4 := by decide +kernel

theorem wit_partition : reaches live .host 0x004 0x104 = true ∧ live.toc.oos = false ∧ lowEvent live = false ∧
    (recentTimes live (tgetD live.toc.hist3 3 []) (60 * Config.tSec)).length < 2 := by decide +kernel

theorem wit_function_ready : let s := withBlk 0x160 { st := .selftest }
    heldIdle s = true ∧ comingUp s 0x160 = true ∧ pageOn s 0x160 = true := by decide +kernel

theorem wit_quad_ready : let s := withBlk 0x133 { st := .init }
    heldIdle s = true ∧ comingUp s 0x133 = true ∧ pageOn s 0x133 = true ∧
    quadFails s 3 ⟨true, List.replicate 160 0x10001000#32, 0, 0, []⟩ = false ∧
    quadFails s 3 ⟨true, List.replicate 160 0x10000F00#32, 0, 0, []⟩ = true := by decide +kernel

theorem wit_mgmt_ready : let s := { live with life := { live.life with mgtReady := false } }
    heldIdle s = true ∧ s.life.phase = .up ∧ s.life.secReady = true ∧ s.life.mgtReady = false := by decide +kernel

theorem wit_core_group : live.life.phase = .up ∧ live.life.groups < 12 ∧ fnReady live 8 = true ∧ fnReady live 102 = true := by
  decide +kernel

theorem wit_refclk : let s := withBlk 0x180 {}
    s.life.phase = .up ∧ (blk s 0x180).st = .reset ∧ pdOn s 60 = true := by decide +kernel

theorem wit_quiesce : hasHeader 0x1F0 = true ∧ reaches live .host 0x1F0 0x014 = true := by decide +kernel

theorem wit_quiesced : let s := withBlk 0x160 { st := .run, ctrl := Tri.all 1 }
    (blk s 0x160).st = .run ∧ quiesceOf (blk s 0x160) = true ∧ inFlight s 0x160 = false ∧ pageOn s 0x160 = true := by
  decide +kernel

theorem wit_quiesce_clear : let s := withBlk 0x160 { st := .quiesced, ctrl := Tri.all 1 }
    hasHeader 0x160 = true ∧ reaches s .host 0x160 0x014 = true ∧ heldIdle s = true ∧ (blk s 0x160).st = .quiesced := by
  decide +kernel

theorem wit_fence_set : hasHeader 0x160 = true ∧ reaches live .host 0x160 0x018 = true ∧ heldIdle live = true ∧
    (blk live 0x160).st ∈ [BlkSt.run, .updating, .retraining, .quiesced] := by decide +kernel

theorem wit_fence_drain : let s := after (.fenceSet .host 0x160) live
    (tget s.toc.fences 0x160).isSome = true ∧ inFlight s 0x160 = false ∧ (blk s 0x160).st = .fenced ∧
    reaches s .host 0x160 0x018 = true ∧ s.toc.oos = false := by decide +kernel

theorem wit_fence_cut : let s := { live with
      toc := { live.toc with fences := [(0x160, 0)] }, tb := { live.tb with t := 16000 },
      ctxs := [(4095, { st := .running })] }
    tget s.toc.fences 0x160 = some 0 ∧ 0 + 100 * Config.tUs ≤ now s ∧ (ctx s 4095).st.live = true ∧
    inReset s 4095 = false := by decide +kernel

theorem wit_port_disposals : reaches live .host (portPage live .ket) 0x400 = true ∧ portQ live .ket = [] ∧
    portDisp (withBlk 0x160 { st := .failed }) .ket 4 0 [] = .notReady ∧
    portDisp (withBlk 0x160 { st := .init }) .ket 4 0 [] = .held ∧
    reaches (withBlk 0x160 { st := .failed }) .host (portPage (withBlk 0x160 { st := .failed }) .ket) 0x400 = true ∧
    reaches (withBlk 0x160 { st := .init }) .host (portPage (withBlk 0x160 { st := .init }) .ket) 0x400 = true := by
  decide +kernel

theorem wit_port_fenced : let s := putR live 0x1B2 0x100 4
    reaches s .host (portPage s .ket) 0x400 = true ∧ portDisp s .ket 4 0 [] = .fenced := by decide +kernel

theorem wit_port_full : let s := setPortQ live .ket (List.replicate 256 ⟨4, 0, 0, [], 0⟩)
    reaches s .host (portPage s .ket) 0x400 = true ∧ (portQ s .ket).length = 256 := by decide +kernel

theorem wit_held_timeout : let s := { setPortQ (withBlk 0x160 { st := .init }) .ket [⟨4, 7, 0, [], 0⟩] with
      tb := { live.tb with t := 320000000 } }
    allPorts[6]? = some .ket ∧ portQ s .ket = [⟨4, 7, 0, [], 0⟩] ∧ portDisp s .ket 4 0 [] = .held ∧
    switchHolds s .ket 4 = false ∧ 0 + 2 * Config.tSec ≤ now s ∧ portQ s .upd = [] := by decide +kernel

theorem wit_held_event : let s := { live with gong := { low := some ⟨5, 1544, true, false, 120, true, false⟩ } }
    stopping s = false ∧ lowEvent s = true ∧ targetDisp s .ket 4 0 [] = .run ∧ portDisp s .ket 4 0 [] = .held ∧
    targetDisp (withBlk 0x160 { st := .failed }) .ket 4 0 [] = .notReady ∧
    switchHolds s .ket 4 = false := by decide +kernel

/-- A record that passes Table 03-8, but for its signature. -/
def goodProf : List Byte :=
  let w := fun (l : List Byte) (f : Nat × Nat × Nat) => putAt l f.1 (leBytes f.2.1 f.2.2)
  [(0, 4, 0x46505843), (4, 2, 1), (6, 1, 3), (0xC, 4, 1024), (0x100, 2, 120), (0x102, 1, 24), (0x103, 1, 7),
   (0x104, 2, 1024), (0x106, 2, 4096), (0x108, 4, 16000), (0x10C, 2, 4095), (0x10E, 1, 20), (0x10F, 1, 8), (0x115, 1, 3),
   (0x11E, 2, 40000), (0x120, 2, 1500), (0x122, 2, 90), (0x124, 4, 600)].foldl w (zeros 0x500)

/-- A live module whose slot 3 holds that record. -/
def switchable : State := { live with sec := { live.sec with
  owner := some ⟨0, 0⟩, profs := [(3, { bytes := goodProf, signer := 0, sigOk := true })] } }

theorem wit_switch : reaches switchable .host 0x002 0x104 = true ∧ (profOf switchable 3).isSome = true ∧
    profOf switchable 2 = none ∧ switchable.life.switchTo = none ∧ switchCheck switchable goodProf = 1 := by decide +kernel

theorem wit_switch_apply : let s := after (.profileSwitch .host 3) switchable
    s.life.switchTo = some goodProf ∧ atBoundary s goodProf = true ∧ heldIdle s = true ∧
    reaches s .host 0x002 0x104 = true := by decide +kernel

/-- A plain picture header, for the witnesses. -/
def hdr0 : AuHdr := ⟨true, true, true, true, true, none, false, 1, false, 64, 64, 8, 4, 64, 64, false, false, true, 0, [], [], 0⟩

theorem wit_switch_abandon : let au : Au := { addr := 0, len := 1, stamp := 0, entry := 0 }
    let j : Job := { stm := 5, au := au, hdr := hdr0, pic := 0, map := 0, frameNo := 0, grantAt := 0 }
    let s := { live with life := { live.life with switchTo := some goodProf }, decs := [(24, { job := some j })],
                         tb := { live.tb with t := 7200000 } }
    s.life.switchTo = some goodProf ∧ (dec s 24).job = some j ∧ (byteAt goodProf 0x103).testBit (24 / 8) = false ∧
    s.life.switchAt + 45 * Config.tMs ≤ now s := by decide +kernel

/-! ### Chapter 04 -/

/-- A 2 KiB pool of 64 blocks in quad 0's region. -/
def pool0 : KPool := { log2 := 11, region := 1, nblocks := 64, base := 0x100000, metaAt := 0x200000 }

/-- A 64 KiB pool. -/
def pool1 : KPool := { log2 := 16, region := 1, nblocks := 16, base := 0x400000, metaAt := 0x600000 }

/-- A flow record: H.264, port 0, 10.14.2.31 to 10.14.2.1, ports 5000 to 6000, stream 5, pools 0 and 1. -/
def flowRec : List Byte :=
  let w := fun (l : List Byte) (f : Nat × Nat × Nat) => putAt l f.1 (leBytes f.2.1 f.2.2)
  [(0x08, 4, 0x1F020E0A), (0x18, 4, 0x01020E0A), (0x28, 2, 5000), (0x2A, 2, 6000), (0x2C, 4, 7), (0x30, 2, 5),
   (0x34, 2, 0xFFFF), (0x36, 2, 80), (0x38, 2, 512), (0x3A, 2, 64), (0x3C, 4, 90000), (0x4E, 2, 1)].foldl w (zeros 128)

/-- A live module with pools, port 0's address 10.14.2.1 and ADMIT_FLOWS 4096, and a record staged at the flow port. -/
def net : State :=
  putRec { live with
    ket := { live.ket with pools := [(0, pool0), (1, pool1)] }
    life := { live.life with profile := some (putAt (putAt (zeros 0x280) 0x103 [0x0F, 0, 4, 0, 16])
      0x180 [2, 0, 0x5E, 0x10, 0, 1, 0, 0, 10, 14, 2, 1]) } } 0x172 0x200 flowRec

theorem wit_flow_open : portTakes net .flow .host 1 4095 = true ∧ (flow net 4095).st = 0 ∧
    flowBad net (staged net .flow) = none ∧
    (openFlows net).find? (fun q => keysEqual (flowKey7 (staged net .flow)) (leAt (staged net .flow) 0x2C 4)
      ((byteAt (staged net .flow) 0).testBit 2) q.2) = none ∧ byteAt (staged net .flow) 3 = 0 ∧
    portIp (portAddr net (byteAt (staged net .flow) 1)) ((byteAt (staged net .flow) 0).testBit 1) =
      slice (staged net .flow) 0x18 16 ∧ (openFlows net).length + 1 ≤ profF net 0x106 2 0 := by decide +kernel

theorem wit_flow_bad : portTakes live .flow .host 1 0 = true ∧ flowBad live (staged live .flow) = some 0x28 := by decide +kernel

/-- The module with the flow open as flow 9. -/
def netOpen : State := after (.flowOpen .host 3 9) net

theorem test_flow_open : (flow netOpen 9).st = 1 ∧ resultAt netOpen .flow 3 = 0x10000000#32 := by decide +kernel

/-- The key of an open flow is not opened twice (R89). -/
theorem test_flow_duplicate : resultAt (after (.flowOpen .host 4 8) netOpen) .flow 4 = 0x30000009#32 := by decide +kernel

theorem wit_flow_close : portTakes netOpen .flow .host 2 9 = true ∧ portTakes netOpen .flow .host 3 9 = true ∧
    portTakes netOpen .flow .host 4 9 = true ∧ portTakes netOpen .flow .host 7 9 = true ∧
    portTakes netOpen .flow .host 8 9 = true ∧ (flow netOpen 9).st ≠ 0 ∧ (flow netOpen 9).writing = [] ∧
    (openFlows netOpen).find? (fun q => q.1 != 9 && flowKey7 q.2.recd == flowKey7 (flow netOpen 9).recd) = none := by
  decide +kernel

theorem wit_key_load : let s := putR live 0x172 0x200 1
    portTakes s .flow .host 5 8191 = true ∧ keyBad (staged s .flow) = none := by decide +kernel

theorem wit_key_erase : portTakes live .flow .host 6 8191 = true ∧ keyUser live 8191 = none ∧
    keyUser { live with flows := [(4095, { st := 1, recd := putAt (zeros 128) 3 [1], keyA := 0 })] } 0 = some 4095 := by
  decide +kernel

theorem wit_set_keys : let s := putRec netOpen 0x172 0x200 ([0xFF, 0xFF] ++ zeros 6 ++ leBytes 8 (2 ^ 48 - 1))
    portTakes s .flow .host 8 9 = true ∧ leAt (staged s .flow) 8 8 < 2 ^ 48 ∧ leAt (staged s .flow) 0 2 = 0xFFFF := by
  decide +kernel

theorem wit_port_mode : reaches live .host 0x171 0x100 = true ∧
    (let s := withBlk 0x171 { st := .quiesced }
     reaches s .host 0x171 0x100 = true ∧ (blk s 0x171).st = .quiesced) := by decide +kernel

/-- Port 0 up, with an active module. -/
def linked : State := after (.linkUp 0 true) (after (.qsfpInsert 0 4 40 true) net)

theorem wit_link : lportPresent live 4 = true ∧ ready live (lportPage 4) = true ∧ linkUp linked 0 = true ∧
    modState linked 0 = 2 ∧ lportPresent linked 0 = true ∧ ready linked 0x170 = true ∧
    tget linked.rvs (rkey 0x170 0x104) = none := by decide +kernel

/-- An RTP packet of the flow: sequence number 1, marker set, one NAL unit byte. -/
def rtpFrame : List Byte :=
  [2, 0, 0x5E, 0x10, 0, 1, 2, 0, 0, 0, 0, 9, 8, 0, 0x45, 0, 0, 41, 0, 0, 0, 0, 64, 17, 0, 0, 10, 14, 2, 31, 10, 14, 2, 1,
   0x13, 0x88, 0x17, 0x70, 0, 21, 0, 0, 0x80, 0xE0, 0, 1, 0, 0, 0, 9, 0, 0, 0, 7, 0x41]

/-- The packet as received. -/
def rtpPacket : Packet := ⟨0, rtpFrame, true, false, false, [], [], 0⟩

/-- Flow 9 open, port 0 up, stream 5 open. -/
def netUp : State := { linked with flows := netOpen.flows, stms := [(5, { st := 1, recd := zeros 64 })] }

theorem wit_packet_fcs : linkUp netUp 0 = true ∧ ready netUp (lportPage 0) = true ∧ ready netUp 0x172 = true ∧
    stopping netUp = false := by decide +kernel

theorem wit_packet : rtpCandidate netUp rtpPacket = true ∧ flowHit netUp rtpPacket = some 9 ∧ (flow netUp 9).cipher = 0 ∧
    (flow netUp 9).learnt = true ∧ (flow netUp 9).stray = none ∧ isStray (flow netUp 9) 1 = false ∧
    (flow netUp 9).seen = [] ∧ (flow netUp 9).hi = none ∧ jitterExpired netUp (flow netUp 9) = false ∧
    isLate (flow netUp 9) (estIdx (flow netUp 9) 1) 9 = false ∧
    (flow netUp 9).held.length < (flow netUp 9).jpkts ∧
    depad (udpPayload rtpFrame (etherOf rtpFrame)) [0x41] = some [0x41] ∧ pool netUp (flow netUp 9).jbPool = some pool0 ∧
    poolUsable netUp (flow netUp 9).jbPool = true ∧ netUp.ecc = [] ∧ pool0.broken = false ∧
    quotaRule netUp pool0 3 9 0 (cdiv 33 pool0.bsize) = .ok [] := by decide +kernel

/-- The packet's frame is complete at once, is released, and its access unit is written and queued. -/
def netAu : State := after (.packetReceive rtpPacket) netUp

theorem test_packet : (flow netAu 9).accepted = 1 ∧ (flow netAu 9).held = [] ∧ (flow netAu 9).writing.length = 1 := by
  decide +kernel

theorem wit_access_unit : (flow netAu 9).writing.length = 1 ∧ (flow netAu 9).closing = none ∧ netAu.peal.migIn = none ∧
    netAu.peal.migOut = none ∧ (stm netAu 5).st ≠ 0 ∧ (stm netAu 5).host = false := by decide +kernel

theorem test_access_unit : (stm (after (.accessUnitWritten 9 []) netAu) 5).queue.length = 1 ∧
    rdMem (after (.accessUnitWritten 9 []) netAu) 0x400000 5 = [0, 0, 0, 1, 0x41] := by decide +kernel

theorem wit_jitter : let x : Flow := { st := 2, recd := flowRec, held := [⟨65540, 9, 0, false, 1, []⟩] }
    let s := { netUp with flows := [(9, x)], tb := { netUp.tb with t := 12800000 } }
    (flow s 9).st ≠ 0 ∧ jitterExpired s (flow s 9) = true := by decide +kernel

theorem wit_tb_src : reaches live .host 0x1F0 0x100 = true := by decide +kernel

theorem wit_ptp : let s := putR (putR live 0x1F0 0x100 0x1) 0x170 0x104 1
    ready s 0x1F0 = true ∧ bits (getR s 0x1F0 0x100) 1 0 = 1 ∧ bits (getR s 0x1F0 0x100) 6 4 = 0 ∧
    bits (getR s 0x1F0 0x100) 14 8 = 0 ∧ bit (getR s 0x170 0x104) 0 = true ∧
    s.tb.lastSync + 10 * Config.tSec ≤ now { s with tb := { s.tb with t := 1600000000 } } := by decide +kernel

theorem wit_ptm : let s := { putR live 0x1F0 0x100 2 with pcie := { live.pcie with link := 2, ptmEn := true } }
    ready s 0x1F0 = true ∧ bits (getR s 0x1F0 0x100) 1 0 = 2 ∧ fnReady s 2 = true ∧ s.pcie.link = 2 := by decide +kernel

/-! ### Chapter 05 -/

/-- A stream record: H.264, host-fed, 64 by 64 pictures, 1 kpix/s, pools 1 and 0. -/
def stmRec : List Byte :=
  let w := fun (l : List Byte) (f : Nat × Nat × Nat) => putAt l f.1 (leBytes f.2.1 f.2.2)
  [(1, 1, 1), (2, 1, 3), (3, 1, 4), (4, 2, 64), (6, 2, 64), (8, 1, 8), (9, 1, 0xFF), (0xA, 2, 10), (0x10, 4, 100),
   (0x14, 2, 100), (0x16, 1, 1), (0x17, 1, 0), (0x18, 2, 16)].foldl w (zeros 64)

/-- The live module with pools, a profile that admits streams, and that record staged at the stream port. -/
def vid : State :=
  let r := putAt (net.life.profile.getD []) 0x104 [0, 4, 0, 16, 0xFF, 0xFF]
  putRec { net with life := { net.life with profile := some r } } 0x100 0x500 stmRec

theorem wit_stm_open : portTakes vid .stm .host 1 1023 = true ∧ (stm vid 1023).st = 0 ∧ stmBad vid (staged vid .stm) = none ∧
    (openStms vid).length + 1 ≤ profF vid 0x104 2 0 ∧
    stmRate vid + leAt (staged vid .stm) 0x10 4 ≤ rateLimit vid := by decide +kernel

theorem wit_stm_rate : let s := { vid with stms := [(1, { st := 1, recd := putAt stmRec 0x10 (leBytes 4 12000000) })] }
    let s := putR s 0x100 0x510 12000000
    portTakes s .stm .host 1 0 = true ∧ stmBad s (staged s .stm) = none ∧
    (openStms s).length + 1 ≤ profF s 0x104 2 0 ∧ rateLimit s < stmRate s + leAt (staged s .stm) 0x10 4 := by
  decide +kernel

theorem wit_stm_bad : let s := putR vid 0x100 0x508 0x0000FF07
    portTakes s .stm .host 1 0 = true ∧ stmBad s (staged s .stm) = some 8 := by decide +kernel

/-- Stream 5 open and idle. -/
def stmUp : State := after (.stmOpen .host 1 5) vid

theorem wit_stm_cmds : portTakes stmUp .stm .host 2 5 = true ∧ portTakes stmUp .stm .host 3 5 = true ∧
    portTakes stmUp .stm .host 7 5 = true ∧ portTakes stmUp .stm .host 8 5 = true ∧ (stm stmUp 5).st = 1 ∧
    stmUp.peal.migIn = none ∧ stmUp.peal.migOut = none ∧ (stm stmUp 5).dec = none ∧
    byteAt (staged (putR stmUp 0x100 0x500 7) .stm) 0 < 8 := by decide +kernel

/-- SUBMIT of 100 bytes at 0x4000 to stream 5, whose queue then holds it with both blocks granted. -/
def stmFed : State := after (.submit .host 2 5) (putRec stmUp 0x100 0x500 (leBytes 8 0x4000 ++ leBytes 4 100 ++ zeros 52))

theorem wit_submit : let s := putRec stmUp 0x100 0x500 (leBytes 8 0x4000 ++ leBytes 4 100 ++ zeros 52)
    portTakes s .stm .host 5 5 = true ∧ (stm s 5).host = true ∧
    leAt (staged s .stm) 8 4 ≤ leAt (stm s 5).recd 0x18 2 * 1024 ∧ (stm s 5).queue.length < 16 ∧
    portTakes s .stm .host 0x104 5 = true ∧ portTakes s .stm .host 4 5 = true ∧ 1 ≤ leAt (staged s .stm) 8 4 ∧
    leAt (staged s .stm) 8 4 ≤ 16384 ∧ s.ecc = [] ∧ portTakes s .stm .host 6 5 = true ∧
    (unitRead s (leAt (staged s .stm) 0 8) (leAt (staged s .stm) 8 4)).2.2 = true ∧
    locate (leAt (staged s .stm) 0 8) = .gddr := by decide +kernel

theorem test_submit : resultAt stmFed .stm 2 = 0x10000000#32 ∧ (stm stmFed 5).picBlk = some 0x400000 ∧
    (stm stmFed 5).mapBlk = some 0x100000 := by decide +kernel

/-- Decoder 0 takes the frame. -/
def stmRun : State := after (.decoderDispatch 0 hdr0) stmFed

theorem wit_dispatch : decFree stmFed 0 = true ∧ decPick stmFed 0 = some (5, stm stmFed 5) ∧
    (stm stmFed 5).queue.length = 1 ∧ shedLevel stmFed 5 ≠ 2 ∧ hdr0.rap = true ∧ hdr0.rasl = false ∧
    hdr0.unsupported = false ∧ overMaxima (stm stmFed 5) hdr0 = false ∧ (stm stmFed 5).limitBad = false ∧
    hdr0.parses = true ∧ hdr0.existing = none ∧ aged stmFed 0 (stm stmFed 5).stale = false ∧
    (stm stmFed 5).st = 1 ∧ (stm stmFed 5).adapt = false := by decide +kernel

theorem wit_decode : (dec stmRun 0).job.isSome = true ∧ (stm stmRun 5).ending = none ∧ (stm stmRun 5).dec = some 0 ∧
    (stm stmRun 5).adapt = false ∧ unitResets stmRun 0x100 = true ∧ heldIdle stmRun = true ∧
    now stmRun + copyTicks (stm stmRun 5) < 0 + (stm stmRun 5).budget ∧
    (let s := { stmRun with tb := { stmRun.tb with t := 16000000 } }
     0 + (stm s 5).budget ≤ now s + copyTicks (stm s 5)) ∧
    portTakes stmRun .stm .host 2 5 = true ∧ ((dec stmRun 0).job.map (·.au.intr)) = some 0 := by decide +kernel

/-- The picture sizes of R112: an 8-bit 64 by 64 picture has 96 tiles of 66 bytes, its map 16 entries. -/
theorem test_pic_size : picSize 64 64 8 = 6336 ∧ mapSize 64 64 = 128 := by decide +kernel

/-! ### Chapter 06 -/

/-- A gate record: 32 by 32 tiles, record pool 0, consumer 7. -/
def gateRec : List Byte :=
  let w := fun (l : List Byte) (f : Nat × Nat × Nat) => putAt l f.1 (leBytes f.2.1 f.2.2)
  [(0, 1, 1), (4, 2, 32), (6, 2, 32), (0xE, 2, 7), (0x18, 2, 0xFFFF)].foldl w (zeros 64)

theorem wit_gate_set : let s := putRec stmUp 0x128 0x500 gateRec
    portTakes s .scl .host 1 5 = true ∧ (stm s 5).st ≠ 0 ∧ gateBad s (stm s 5) (staged s .scl) = none ∧
    portTakes s .scl .host 3 5 = true ∧ portTakes s .scl .host 4 5 = true ∧ portTakes s .scl .host 5 31 = true := by
  decide +kernel

theorem wit_gate_bad : portTakes stmUp .scl .host 1 5 = true ∧ gateBad stmUp (stm stmUp 5) (staged stmUp .scl) = some 4 := by
  decide +kernel

theorem wit_scale_set : let s := putRec stmUp 0x128 0x500 (leBytes 8 0x4000 ++ leBytes 4 8)
    portTakes s .scl .host 2 5 = true ∧ leAt (staged s .scl) 8 4 = 8 ∧ (unitRead s 0x4000 1024).2.2 = true ∧
    portTakes stmUp .scl .host 2 5 = true ∧ leAt (staged stmUp .scl) 8 4 = 0 := by decide +kernel

theorem wit_scale_unread : let s := putRec stmUp 0x128 0x500 (leBytes 8 0xFFFFFFFFFFF0 ++ leBytes 4 1)
    portTakes s .scl .host 2 5 = true ∧ leAt (staged s .scl) 8 4 = 1 ∧ (unitRead s 0xFFFFFFFFFFF0 128).2.2 = false := by
  decide +kernel

/-- A crop entry: bilinear, luma, UINT8, the whole 64 by 64 picture to block 1 of pool 1. -/
def cropRec : List Byte :=
  let w := fun (l : List Byte) (f : Nat × Nat × Nat) => putAt l f.1 (leBytes f.2.1 f.2.2)
  [(0, 1, 0x10), (1, 1, 4), (3, 1, 1), (8, 2, 64), (0xA, 2, 64), (0xC, 2, 64), (0xE, 2, 64), (0x40, 8, 0x410000),
   (0x48, 4, 64)].foldl w (zeros 128)

/-- A picture of stream 5 whose standing list is runnable. -/
def frame0 : SFrame := { stm := 5, frameNo := 3, pic := 0x400000, map := 0x100000, stamp := 0, cluster := 0, w := 64, h := 64,
                         cw := 64, ch := 64, list := [cropRec], phase := 1 }

/-- Cluster 0 with that frame; block 1 of pool 1 belongs to context 7. -/
def sclUp : State := { stmUp with
  sframes := [frame0]
  ket := { stmUp.ket with pools := [(0, pool0), (1, { pool1 with owners := [(1, [⟨1, 1, 0, 7⟩])] })] } }

theorem wit_take : takesEntry sclUp 0 0 = true ∧
    firstCand sclUp 0 = some { prio := 3, cls := 0, at' := 0, stm := 5, fr := frame0, idx := 0 } ∧
    entryBad cropRec false 64 64 = none ∧ cPool cropRec = false ∧ byteAt cropRec 0x50 = 0 ∧
    entryBad2 cropRec (destBad sclUp cropRec none) true = none ∧
    consumerOf sclUp { prio := 3, cls := 0, at' := 0, stm := 5, fr := frame0, idx := 0 } = none := by decide +kernel

theorem wit_take_bad : let f := { frame0 with list := [putAt cropRec 1 [5]] }
    let s := { sclUp with sframes := [f] }
    takesEntry s 0 0 = true ∧ firstCand s 0 = some { prio := 3, cls := 0, at' := 0, stm := 5, fr := f, idx := 0 } ∧
    entryBad (putAt cropRec 1 [5]) false 64 64 = some 1 := by decide +kernel

/-- The entry is in pipe 0. -/
def sclBusy : State := after (.pipeTakeEntry 0) sclUp

theorem wit_entry : (tget sclBusy.pipes 0).isSome = true ∧ lowEvent sclBusy = false ∧
    (sclBusy.pipes.any fun q => q.1 / 8 == 0) = true ∧ unitResets sclBusy (sclPage 0) = true ∧ heldIdle sclBusy = true ∧
    statusBit sclBusy 0x128 8 = true := by decide +kernel

theorem wit_gating : let s := { sclUp with sframes := [{ frame0 with phase := 0 }], gates := [(5, { recd := gateRec })] }
    s.sframes.find? (fun g => g.stm == 5 && g.phase == 0) = some { frame0 with phase := 0 } ∧ (gate s 5).gated = true ∧
    rdLe s (0x100000 + 5) 1 = 0 ∧ (gate sclUp 5).gated = false ∧ aged sclUp 0 (stm sclUp 5).stale = false ∧
    shedLevel sclUp 5 = 0 ∧ (stm sclUp 5).adapt = false ∧
    (gate { sclUp with gates := [(5, { list := [cropRec] })] } 5).list ≠ [] := by decide +kernel

/-- A constant 8-bit tile is DPCM of width 0: header, BASE, zeros (R155, R156). -/
theorem test_tile_flat : encodeTile 8 0 (List.replicate 64 77) = fitBytes 66 [1, 0, 77] := by decide +kernel

/-- V-14: with K = 8, tile 67 is not due at GATE_NO 1,203, and a 135-tile record takes 263 bytes. -/
theorem test_gate_phase : (1203 + 67) % 8 = 6 ∧ 2 + cdiv (8 + 63 * 3) 8 = 27 ∧ 2 + cdiv (8 + 63 * 2) 8 = 19 := by
  decide +kernel

theorem wit_tile : (List.replicate 64 255).length = 64 ∧ (∀ v ∈ List.replicate 64 255, v < 2 ^ 8) := by decide +kernel

/-! ### Chapters 07 to 12 -/

/-- A 64-byte descriptor of context 7 with an OPCODE and further fields (offset, size, value). -/
def desc (op : Nat) (l : List (Nat × Nat × Nat)) : List Byte :=
  (([(0, 1, op), (2, 2, 7), (4, 3, 1000)] : List (Nat × Nat × Nat)) ++ l).foldl
    (fun d f => putAt d f.1 (leBytes f.2.1 f.2.2)) (zeros 64)

/-- A handle entry: a SCRATCH handle of logical core 0, INT8, scale 1.0, at an offset with an extent. -/
def hnd (base ext : Nat) : List Byte :=
  [1, 0, 0, 0] ++ leBytes 4 0x3F800000 ++ leBytes 8 base ++ leBytes 8 ext

/-- Context 7 runs on core 0 with a stream at 0x8000 that holds some descriptors; handles 1, 2, 3 are scratch. -/
def strm (ds : List (List Byte)) : State :=
  wrMem { live with
    ctxs := [(7, { st := .running, cores := [0], model := putAt (zeros 64) 4 [4] })]
    seqs := [(448, { core := 0, base := 0x8000, stop := 0x8000 + 64 * ds.length, pc := 0x8000, st := 1,
                     handles := [(1, hnd 0 0x4000), (2, hnd 0x4000 0x4000), (3, hnd 0x8000 0x4000)] })] } 0x8000 ds.flatten

/-- The descriptor that a stream issues next. -/
def nextOf (ds : List (List Byte)) : Iss := { addr := 0x8000, d := ds.getD 0 [] }

def dMpass : List Byte := desc 1 [(0xC, 2, 1), (0xE, 1, 1), (0xF, 1, 2)]
def dDrain : List Byte := desc 4 [(0xA, 2, 1), (0xC, 1, 1), (0xE, 2, 0xFFFF), (0x10, 1, 3), (0x13, 1, 2)]
def dPpass : List Byte := desc 2 [(0xC, 2, 1), (0xE, 1, 1), (0xF, 1, 2), (0x10, 2, 1), (0x12, 1, 1), (0x13, 1, 1)]
def dCpass : List Byte :=
  desc 3 [(0xE, 2, 1), (0x12, 2, 1), (0x14, 2, 1), (0x16, 2, 0x101), (0x18, 2, 0x1111), (0x22, 2, 1)]
def dReshard : List Byte := desc 9 [(0xC, 4, 1), (0x10, 4, 64), (0x14, 1, 1), (0x15, 1, 1), (0x16, 1, 3), (0x18, 8, 1)]
def dFill : List Byte := desc 8 [(8, 1, 0x14), (0xA, 1, 3), (0xB, 1, 1), (0xC, 4, 1), (0x20, 4, 64), (0x2C, 4, 0x04030201)]
def dCopy : List Byte := desc 8 [(8, 1, 4), (0xA, 1, 3), (0xB, 1, 1), (0xC, 4, 1), (0x10, 8, 0x8000), (0x20, 4, 64)]
def dTrans : List Byte :=
  desc 8 [(8, 1, 0xC), (0xA, 1, 3), (0xB, 1, 1), (0xC, 4, 2), (0x10, 8, 0x8000), (0x20, 4, 8), (0x24, 4, 8), (0x28, 4, 8)]
def dVec : List Byte := desc 0x20 [(8, 2, 3), (0xA, 1, 1), (0xB, 1, 3)]

theorem wit_issue_pass : (issues (strm [dMpass]) 7 0 (nextOf [dMpass]) = true ∧
      passesOf (strm [dMpass]) 0 0 < 4) ∧
    (issues (strm [dPpass, dDrain]) 7 0 (nextOf [dPpass]) = true ∧
      byteAt (rdMem (strm [dPpass, dDrain]) 0x8040 64) 0 = 4 ∧
      byteAt (rdMem (strm [dPpass, dDrain]) 0x8040 64) 8 % 4 = 0) ∧
    issues (strm [dCpass]) 7 0 (nextOf [dCpass]) = true := by decide +kernel

theorem wit_issue_drain : issues (strm [dDrain]) 7 0 (nextOf [dDrain]) = true ∧ (seq (strm [dDrain]) 7 0).ppass = none ∧
    (byteAt dDrain 8).testBit 3 = false := by decide +kernel

theorem wit_issue_reshard : issues (strm [dReshard]) 7 0 (nextOf [dReshard]) = true ∧ (partsOf dReshard).contains 0 = true := by
  decide +kernel

theorem wit_issue_dma : (issues (strm [dFill]) 7 0 (nextOf [dFill]) = true ∧ (nextOf [dFill]).fill = true) ∧
    (issues (strm [dCopy]) 7 0 (nextOf [dCopy]) = true ∧ (nextOf [dCopy]).transp = false) ∧
    (issues (strm [dTrans]) 7 0 (nextOf [dTrans]) = true ∧ (nextOf [dTrans]).transp = true) ∧
    (dmaOf (strm [dFill]) 0 0).length < 8 := by decide +kernel

theorem wit_issue_dma_held : let d := putAt dCopy 1 [4]
    let d := putAt d 8 [0]
    let d := putAt d 0xA [0]
    let s := updSeq (strm [d]) 7 0 (fun q => q.setTag 0 { st := 1 })
    let i : Iss := { addr := 0x8000, d := d, tag := some 0 }
    issues s 7 0 i = true ∧ (i.tag.isSome && dmaHeldDst s 7 0 i) = true := by decide +kernel

theorem wit_issue_vec : let v : Iss := { addr := 0x7000, d := dVec }
    let w : Iss := { addr := 0x6FC0, d := dDrain }
    let s := updSeq (strm [dVec]) 7 0 (fun q => { q with issued := [w, v] })
    issues s 7 0 (nextOf [dVec]) = true ∧ (nextOf [dVec]).prog' < vprogN s 7 ∧
    (seq s 7 0).issued.find? (fun j => j.kind == 0x20) = some v ∧ vecClear s 7 0 v (.topK 0 1 1) = false := by
  decide +kernel

theorem wit_engine_regs : isEngine 0x0FF = true ∧ isEngine 0x040 = true ∧ reaches live .host 0x040 0x014 = true ∧
    reaches live .host 0x040 0x130 = true ∧ bits 0xA0000005#32 30 29 = 1 ∧ bits 0x80000005#32 30 29 = 0 := by decide +kernel

/-- A pass of no rows, issued: the kernel evaluates no product for it. -/
def passUp : State :=
  updSeq (strm [dMpass]) 7 0 (fun q => { q with issued := [nextOf [putAt dMpass 0xC [0]]] })

/-- No hardware error and no parity error. -/
def fine : ExecFact := ⟨false, false, [], []⟩

theorem wit_pass : ((seq passUp 7 0).issued.find? (fun j => j.isPass && j.engine == 0)).isSome = true ∧
    seqLive passUp 7 0 = true ∧ engStops passUp 0 0 = false ∧ ((seq passUp 7 0).eng 0).slots = [] ∧
    gatesOf passUp 7 0 (nextOf [putAt dMpass 0xC [0]]) = 0 ∧
    (seq passUp 7 0).clear (nextOf [putAt dMpass 0xC [0]]) = true ∧
    ppassMay (seq passUp 7 0) (nextOf [putAt dMpass 0xC [0]]) = true ∧
    ((passRun passUp 7 0 (nextOf [putAt dMpass 0xC [0]]) 0 fine).map (fun r => (r.1.fault, r.1.fails))) = some (none, []) := by
  decide +kernel

/-- A DRAIN issued over slot 0, with FP32 output to handle 3. -/
def drainUp : State := after (.drain 7 0) (strm [dDrain])

theorem wit_drain : drainMay drainUp 7 0 (nextOf [dDrain]) = true ∧
    (drainRun drainUp 7 0 (nextOf [dDrain]) 0 fine).2 = none := by decide +kernel

theorem wit_crossed : let g : Grp := { entry := 0, iss := { addr := 0, d := dDrain }, vals := [], crossed := true }
    let s := updSeq (strm [dMpass]) 7 0 (fun q => { q with grps := [g] })
    crossedOpen s 7 0 = [(0, g)] ∧ (ctx s 7).st = .running ∧
    levelOf (clv s (leAt (scaleEnt s 7 0) 2 2)).toNat ≤ g.level ∧ g.iss.tag = none := by decide +kernel

theorem wit_matrix_row : let p : Plan := { mode := 0, aFmt := 0, acc := false, base := 0, m := 1 }
    p.mode ≤ 1 ∧ p.diag = none ∧ p.pack = 1 ∧ p.nprob = 1 := ⟨by decide, rfl, rfl, rfl⟩

/-! ### Streams: moves, waits, claims, tags, scratchpads -/

/-- Context 7's stream with descriptors issued, in a state where nothing holds them back. -/
def busy (l : List Iss) : State := updSeq (strm [dMpass]) 7 0 (fun q => { q with issued := l })

theorem wit_dma_complete : let i := nextOf [dFill]
    let s := busy [i]
    (seq s 7 0).issued.find? (fun j => j.kind == 8 && byteAt j.d 8 % 2 == 0) = some i ∧ seqLive s 7 0 = true ∧
    (seq s 7 0).clear i = true ∧ gatesOf s 7 0 i = 0 ∧ dmaWaits s 7 0 i = false ∧ dmaArrived s 7 0 i = true ∧
    (dmaRun s 7 0 i i.prog i.dmaBytes).2.2 = none ∧ i.fill = true ∧ i.transp = false ∧ leAt i.d 0xC 4 = 1 ∧
    i.dst.isH = true ∧ (href s 7 0 (i.dst.hb % 64)).isSome = true ∧
    ((href s 7 0 (i.dst.hb % 64)).map (fun h => (h.scr, h.ro, decide (0 + leAt i.d 0x20 4 ≤ h.ext)))) = some (true, false, true) ∧
    (i.dst.base + iselOf i i.dst.hb) % 2 ^ 32 = 0 := by decide +kernel

theorem test_fill : let t := after (.dmaComplete 7 0 0 fine) (busy [nextOf [dFill]])
    rdMem t (scratchAddr 0 0x8000) 6 = [1, 2, 3, 4, 1, 2] ∧ memRd t.mem (scratchAddr 0 0x8040) = 0 ∧
    (seq t 7 0).issued = [] := by decide +kernel

theorem wit_reshard : let i := nextOf [dReshard]
    let s := busy [i]
    reshardMet s 7 0 i = true ∧ (reshardPushes 7 i.d ((partsOf i.d).takeWhile (· != 0)).length s).2 = none := by decide +kernel

theorem wit_reshard_missing : let d := putAt (putAt dReshard 0x18 [3]) 8 [4]
    let i : Iss := { addr := 0x8000, d := d }
    let s := { busy [i] with ctxs := [(7, { st := .running, cores := [0, 1] })] }
    (seq s 7 0).issued.find? (fun j => j.kind == 9) = some i ∧ seqLive s 7 0 = true ∧ inReset s 7 = false ∧
    ((partners i.d ((partsOf i.d).takeWhile (· != 0)).length).any fun k =>
      (partsOf i.d).getD k 64 != 0 && !i.got.contains ((partsOf i.d).getD k 64) &&
        (reshardAt s 7 ((partsOf i.d).getD k 64) i.d).isNone) = true ∧ i.since + wdogTicks s 7 ≤ now s ∧
    (let u := { s with ctxs := [(7, { st := .running, cores := [0, 1], recd := putAt (zeros 64) 0x1C [1] })] }
     now u < i.since + wdogTicks u 7) := by decide +kernel

theorem wit_topk : let i := nextOf [dVec]
    let s := busy [i]
    vecReady s 7 0 (.topK 0 4 2) = some i ∧ vecGates s 7 0 i (.topK 0 4 2) = 0 ∧ i.tag = none ∧
    ((href s 7 0 (i.h 0 % 64)).map (fun h => (h.scr, decide (0 + 4 * 4 ≤ h.ext)))) = some (true, true) ∧
    ((href s 7 0 (i.h 1 % 64)).map (fun h => (h.scr, h.ro, decide (0 + 8 * 2 ≤ h.ext)))) = some (true, false, true) := by
  decide +kernel

/-- Logits 1.0, 3.0, 2.0, 3.0: the top two are tokens 1 and 3, in that order (R350). -/
def topS : State := wrMem (busy [nextOf [dVec]]) (scratchAddr 0 0)
  (leBytes 4 0x3F800000 ++ leBytes 4 0x40400000 ++ leBytes 4 0x40000000 ++ leBytes 4 0x40400000)

/-- R350: the larger first, the lower index before the higher among equals. -/
theorem test_topk : rdLe (after (.vec 7 0 ⟨.topK 0 4 2, false, false⟩) topS) (scratchAddr 0 0x8000) 4 = 1 ∧
    rdLe (after (.vec 7 0 ⟨.topK 0 4 2, false, false⟩) topS) (scratchAddr 0 0x8008) 4 = 3 ∧
    (seq (after (.vec 7 0 ⟨.topK 0 4 2, false, false⟩) topS) 7 0).issued = [] := by decide +kernel

def dWait : List Byte := desc 0x10 [(0xA, 2, 3), (0xC, 4, 5)]
def dWaitC : List Byte := desc 0x10 [(8, 1, 1), (0xA, 2, 200), (0xC, 4, 5)]
def dSig (flags ctr : Nat) : List Byte := desc 0x11 [(8, 1, flags), (0xA, 2, ctr), (0xC, 4, 5)]

/-- The same, with Clave counter 200 owned by context 7. -/
def owned (ds : List (List Byte)) : State := putR (strm ds) 0x190 (0x804 + 16 * 200) 0xC0000007#32

theorem wit_wait : issues (strm [dWait]) 7 0 (nextOf [dWait]) = true ∧ issues (owned [dWaitC]) 7 0 (nextOf [dWaitC]) = true ∧
    clvOwned (owned [dWaitC]) 200 7 = true := by decide +kernel

theorem wit_wait_ends : let w : Wait := ⟨false, 0, 3, 0xFFFFFFFF#32, 0, 10⟩
    let s := updSeq (strm [dWait]) 7 0 (fun q => { q with st := 2, wait := some w })
    let v := updSeq (strm [dWait]) 7 0 (fun q => { q with st := 2, wait := some { w with thresh := 1 } })
    (waitValue s 7 w - w.thresh).toNat < 2 ^ 31 ∧ seqLive s 7 0 = true ∧ now s < w.since + w.budget ∧ inReset s 7 = false ∧
    2 ^ 31 ≤ (waitValue v 7 { w with thresh := 1 } - 1#32).toNat ∧
    w.since + w.budget ≤ now { s with tb := { s.tb with t := 10 } } := by decide +kernel

theorem wit_signal : issues (strm [dSig 0 15]) 7 0 (nextOf [dSig 0 15]) = true ∧
    issues (owned [dSig 1 200]) 7 0 (nextOf [dSig 1 200]) = true ∧
    issues (owned [dSig 3 200]) 7 0 (nextOf [dSig 3 200]) = true ∧ (seq (strm [dSig 0 15]) 7 0).issued = [] ∧
    clvOwned (owned [dSig 3 200]) 200 7 = true ∧ reaches live .host 0x190 (0x800 + 16 * 255) = true := by decide +kernel

theorem wit_signal_held : let d := putAt (dSig 1 200) 1 [4]
    let s := updSeq (owned [d]) 7 0 (fun q => q.setTag 0 { st := 1 })
    issues s 7 0 { addr := 0x8000, d := d, tag := some 0 } = true ∧ clvOwned s 200 7 = true := by decide +kernel

def dClaim : List Byte := desc 0x12 [(8, 1, 1), (0xA, 2, 200), (0xC, 2, 1), (0xE, 2, 2), (0x10, 4, 10), (0x14, 4, 64)]
def dFence (scope : Nat) : List Byte := desc 0x30 [(8, 1, scope)]

theorem wit_claim : let s := owned [dClaim, dMpass, dFence 3]
    issues s 7 0 (nextOf [dClaim]) = true ∧ clvOwned s 200 7 = true ∧ bit (getR s 0x190 (0x804 + 16 * 200)) 30 = true ∧
    bodyOk s 0x8040 1 = true ∧ (seq s 7 0).claim = none := by decide +kernel

theorem wit_claim_take : let c : Claim := ⟨200, true, 0x8040, 0x8080, 2, 10, [64, 0, 0], none, true, 0⟩
    let s := updSeq (owned [dClaim, dMpass, dFence 3]) 7 0 (fun q => { q with claim := some c })
    let u := { s with returns := [(200, [10])] }
    (seq s 7 0).claim = some c ∧ seqLive s 7 0 = true ∧ (seq s 7 0).st = 1 ∧ s.leases.length < 1024 ∧
    (tgetD s.returns c.ctr []).headD (clv s c.ctr).toNat = 0 ∧ (tgetD u.returns c.ctr []).headD (clv u c.ctr).toNat = 10 := by
  decide +kernel

theorem wit_fence : issues (strm [dFence 0]) 7 0 (nextOf [dFence 0]) = true ∧
    issues (strm [dFence 1]) 7 0 (nextOf [dFence 1]) = true ∧ issues (strm [dFence 2]) 7 0 (nextOf [dFence 2]) = true ∧
    issues (strm [dFence 3]) 7 0 (nextOf [dFence 3]) = true ∧
    (let s := updSeq (strm [dFence 1]) 7 0 (fun q => { q with issued := [nextOf [dFill]] })
     issues s 7 0 (nextOf [dFence 1]) = true) ∧
    (seq (strm [dFence 3]) 7 0).pc + 64 = (seq (strm [dFence 3]) 7 0).stop := by decide +kernel

theorem wit_barrier : let s := updSeq (strm [dFence 2]) 7 0 (fun q => { q with st := 2, barrier := some (0, 0) })
    (ctx s 7).st = .running ∧ lcores s 7 = [0] ∧ (seq s 7 0).barrier.isSome = true := by decide +kernel

def dTag (op t : Nat) : List Byte := desc op [(8, 1, t)]

theorem wit_tags : issues (strm [dTag 0x18 7]) 7 0 (nextOf [dTag 0x18 7]) = true ∧
    issues (strm [dTag 0x19 7]) 7 0 (nextOf [dTag 0x19 7]) = true ∧
    issues (strm [dTag 0x1A 7]) 7 0 (nextOf [dTag 0x1A 7]) = true ∧
    (let s := updSeq (strm [dTag 0x19 7]) 7 0 (fun q => q.setTag 7 { st := 2 })
     issues s 7 0 (nextOf [dTag 0x19 7]) = true ∧ ((seq s 7 0).tag 7).st ∈ [1, 2, 3] ∧ closeReady (seq s 7 0) 7 false = true) ∧
    (let s := updSeq (strm [dTag 0x19 7]) 7 0 (fun q => q.setTag 7 { st := 4 })
     seqLive s 7 0 = true ∧ ((seq s 7 0).tag 7).st = 4 ∧ (seq s 7 0).held = []) := by decide +kernel

/-- Two streams of tags: SPEC opens, COMMIT closes, the commit frees (Table 12-2). -/
theorem test_tags : let s := after (.tagCommitComplete 7 0 2) (after (.commit 7 0) (after (.spec 7 0)
      (strm [dTag 0x18 2, dTag 0x19 2])))
    (seq s 7 0).tag 2 = {} ∧ (seq s 7 0).pc = 0x8080 ∧ getR s 0x010 0x534 = 1 := by decide +kernel

theorem wit_scrub : let s := setCore live 0 { st := 1, rows := [(0, 4)] }
    (coreSt s 0).st = 1 ∧
    (let u := { strm [dMpass] with ctxs := [(7, { st := .teardown, cores := [0] })] }
     (ctx u 7).st = .teardown ∧ (ctx u 7).cores.contains 0 = true ∧ (ctx u 7).acked.contains 0 = false ∧
     bit (getR u (corePg 0) 0x408) 31 = false ∧ localRows u 7 0 = [(0, 256), (256, 512), (512, 768)]) := by decide +kernel

theorem wit_pending : let s := setCore { live with tb := { live.tb with t := 10240 } } 0 { pend := [(0, 4)] }
    (coreSt s 0).pend ≠ [] ∧ (coreSt s 0).pendAt + 64 * Config.tUs ≤ now s ∧
    reaches live .host (corePg 0) 0x408 = true ∧
    (coreSt (setCore live 0 { st := 3, rows := [(0, 4)] }) 0).st = 3 := by decide +kernel

/-! ### Chapter 13 -/

/-- A context record of class 1 with rings of 16 entries at 0x9000 and 0xA000. -/
def ctxRec : List Byte :=
  putAt (putAt (zeros 64) 0 [1]) 8 (leBytes 8 0x9000 ++ leBytes 8 0xA000 ++ [4, 4, 0xFF, 0xFF] ++ leBytes 4 1000)

/-- A module whose profile admits 64 contexts. -/
def carUp : State := { live with life := { live.life with profile := some (putAt (putAt prof 0x10C (leBytes 2 64)) 0x102 [4]) } }

/-- The same with one context 7. -/
def withCtx (c : Ctx) : State := { carUp with ctxs := [(7, c)] }

/-- The operand of Carillon's port. -/
def carStage (s : State) (l : List Byte) : State := putRec s 0x190 0x500 (fitBytes 64 l)

/-- A model entry of one scale and 4 KiB of weights. -/
def modelRec : List Byte := putAt (putAt (zeros 64) 0 [1, 0, 1, 0]) 0x10 (leBytes 8 4096)

theorem wit_ctx_open : let s := carStage carUp ctxRec
    portTakes s .car .host 1 7 = true ∧ (ctx s 7).st = .closed ∧ ctxBad (staged s .car) = none ∧ ctxsOpen s < admitCtx s ∧
    ctxBad (staged (carStage carUp (putAt ctxRec 0x18 [3])) .car) = some 0x18 ∧
    admitCtx (carStage live ctxRec) ≤ ctxsOpen (carStage live ctxRec) ∧ ctxBad (staged (carStage live ctxRec) .car) = none ∧
    portTakes (carStage live ctxRec) .car .host 1 7 = true := by decide +kernel

theorem wit_ctx_close : let s := withCtx { st := .faulted, recd := ctxRec }
    portTakes s .car .host 2 7 = true ∧ (ctx s 7).st = .faulted ∧ (ctx s 7).queue = [] ∧ (ctx s 7).cur = none ∧
    portTakes s .car .host 3 7 = true ∧ portTakes s .car .host 5 7 = true ∧ s.stms = [] := by decide +kernel

theorem wit_ctx_kill : let s := withCtx { st := .running, recd := ctxRec, cores := [0] }
    portTakes s .car .host 4 7 = true ∧ (ctx s 7).st.live = true := by decide +kernel

theorem wit_model : let s := carStage carUp modelRec
    portTakes s .car .host 6 255 = true ∧ modelBad (staged s .car) = none ∧ byteAt (staged s .car) 0 = 1 ∧
    modelBad (staged (carStage carUp []) .car) = some 2 ∧
    modelBad (staged (carStage carUp (putAt modelRec 0 [0])) .car) = none ∧
    portTakes { carUp with models := [(255, modelRec)] } .car .host 7 255 = true := by decide +kernel

/-- A list of one stream on core 0 at 0x8000, and the record that names it. -/
def listHdr : List Byte :=
  putAt (putAt ([0x43, 0x58, 0x4D, 0x4C, 1, 0, 1, 0] ++ zeros 8 ++ [0] ++ List.replicate 47 0xFF ++ zeros 448) 0x40 [8]) 0x44 [1]
def invRec : List Byte := leBytes 8 0x8000 ++ leBytes 8 0xC000 ++ leBytes 8 99 ++ [0xFF, 0xFF] ++ zeros 38
def inv7 : Inv := { recd := invRec, arrival := 5, ring := true, seq := 3 }

/-- The cells of bytes at an address. -/
def cells (a : Nat) (l : List Byte) : List Host.Cell := (l.zipIdx.map (fun q => (a + q.2, q.1))).filter (fun c => c.2 != 0)

/-- Context 7 with that invocation waiting. -/
def waiting7 : State :=
  { withCtx { st := .waiting, recd := ctxRec, queue := [inv7], ringProd := 1 } with mem := cells 0x8000 listHdr }

theorem wit_db_tail : let s := withCtx { st := .idle, recd := ctxRec }
    s.pcie.frozen = false ∧ s.pcie.dstate = 0 ∧ s.pcie.memEn = true ∧ tailDisp s = .run ∧
    (ctx s 7).heldTails = [] ∧ (ctx s 7).st ≠ .closed ∧ batchOf s 7 = none ∧ jobOf s 7 = none ∧
    (ctx s 7).ringProd = (ctx s 7).ringCons ∧ s.ecc = [] ∧ locate (leAt (ctx s 7).recd 8 8) = .gddr ∧
    2 ^ byteAt (ctx s 7).recd 0x18 < ((17 : Word) - (ctx s 7).ringCons).toNat ∧ (ctx s 7).cplWait = [] := by decide +kernel

theorem wit_grant : (ctx waiting7 7).queue = [inv7] ∧ grantsNow waiting7 = true ∧ selectable waiting7 7 = true ∧
    selBefore waiting7 7 = [] ∧ invStale waiting7 inv7 = false ∧ invCode waiting7 7 inv7 = 0 ∧
    placeOk waiting7 7 (shapeOf waiting7 7 inv7) [0] (fun _ c => coreFree waiting7 7 c) = true ∧
    placeBest waiting7 7 (shapeOf waiting7 7 inv7) [0] = true := by decide +kernel

/-- Context 7 at the end of its invocation. -/
def ended7 : State := withCtx { st := .running, recd := ctxRec, cur := some inv7, cores := [0], ended := [0], ringProd := 1 }

theorem wit_complete : (ctx ended7 7).ended.length = (ctx ended7 7).cores.length ∧ (ctx ended7 7).scaleUpd = [] ∧
    (ctx ended7 7).evict = none ∧ (ctx ended7 7).want = [] ∧ (ctx ended7 7).cplWait = [] ∧
    ((ctx ended7 7).cplProd - (ctx ended7 7).cplCons).toNat < 2 ^ byteAt (ctx ended7 7).recd 0x19 ∧ ended7.ecc = [] ∧
    leAt (ctx ended7 7).recd 0x10 8 + 32 * ((ctx ended7 7).cplProd.toNat % 2 ^ byteAt (ctx ended7 7).recd 0x19) + 32 ≤
      0x000E00000000 ∧ (∀ q ∈ ended7.ctxs, q.2.want.length ≤ 48) := by decide +kernel

/-- R314: the completion names the invocation's tag and sequence number with STATUS 0. -/
theorem test_completion : let t := after (.invocationComplete 7) ended7
    rdLe t 0xA000 8 = 99 ∧ rdLe t 0xA008 4 = 0xFFFF0000 ∧ rdLe t 0xA00C 4 = 3 ∧ (ctx t 7).st = .idle ∧
    (ctx t 7).ringCons = 1 := by decide +kernel

theorem wit_slice : let s := withCtx { st := .running, recd := ctxRec, cores := [0], sliceEnd := 10 }
    (ctx s 7).st = .running ∧ clsOf s 7 ≠ 0 ∧ now s < (ctx s 7).sliceEnd ∧
    sliceWaiter { s with tb := { s.tb with t := 10 } } 7 = none := by decide +kernel

theorem wit_slice_waiter : let s := { carUp with
      tb := { carUp.tb with t := 10 }
      mem := cells 0x8000 listHdr
      ctxs := [(7, { st := .running, recd := ctxRec, cores := [0], sliceEnd := 10 }),
               (8, { st := .waiting, recd := ctxRec, queue := [inv7] })] }
    (ctx s 7).sliceEnd ≤ now s ∧ (sliceWaiter s 7).isSome = true := by decide +kernel

/-- Context 7 at its pause on core 0, for which the urgent context 8 waits. -/
def park7 : State := { carUp with
  ctxs := [(7, { st := .running, recd := ctxRec, cores := [0] }),
           (8, { st := .waiting, recd := putAt ctxRec 0 [0], queue := [inv7], want := [0] })]
  seqs := [(448, { core := 0, base := 0x8200, stop := 0x8240, pc := 0x8200, st := 1 })]
  car := { reserved := [(0, 8)] } }

theorem wit_park : (ctx park7 7).st = .running ∧ parkCores park7 7 ≠ [] ∧ pausedAll park7 7 = true := by decide +kernel

theorem wit_unpark : let s := { withCtx { st := .parked, recd := ctxRec, cores := [0] } with car := { parkedOn := [(0, 7)] } }
    (ctx s 7).st = .parked ∧ (∀ q ∈ s.car.parkedOn, q.2 = 7 → coreUsers s q.1 = [] ∧ (coreSt s q.1).st = 0 ∧
      reservedOther s 7 q.1 = false) := by decide +kernel

theorem wit_save : let s := carStage park7 (leBytes 8 0x10000 ++ leBytes 4 0x10000)
    portTakes s .car .host 8 7 = true ∧ leAt (staged s .car) 0 8 % 64 = 0 ∧ imageLen s 7 ≤ leAt (staged s .car) 8 4 := by
  decide +kernel

/-- Context 7 asked to leave its core for a save to 0x10000. -/
def save7 : State := { park7 with
  ctxs := [(7, { st := .evicting, recd := ctxRec, cores := [0], evict := some (.save 0x10000 0x10000 4) })] }

theorem wit_evict : (ctx save7 7).evict = some (.save 0x10000 0x10000 4) ∧ (∀ q ∈ save7.car.parkedOn, q.2 ≠ 7) ∧
    pausedAll save7 7 = true ∧ imageLen (pauseCtx save7 7 []) 7 ≤ 0x10000 ∧ (ctx save7 7).want = [] ∧
    (imagePlace (overrun (pauseCtx save7 7 []) 7) 7 (.save 0x10000 0x10000 4) (imageLen (pauseCtx save7 7 []) 7)).2 =
      some 0x10000 := by decide +kernel

/-- Context 7 at the end of its slice, with a pool for images. -/
def slice7 : State := { park7 with
  ctxs := [(7, { st := .evicting, recd := putAt ctxRec 0x20 [2], cores := [0], evict := some .slice })]
  ket := { pools := [(2, pool1)] } }

theorem wit_evict_slice : (ctx slice7 7).evict = some .slice ∧ pausedAll slice7 7 = true ∧ (ctx slice7 7).want = [] ∧
    (imagePlace (overrun (pauseCtx slice7 7 []) 7) 7 .slice (imageLen (pauseCtx slice7 7 []) 7)).2 = some 0x400000 := by
  decide +kernel

/-- An image's header with one section at 512, for the list at 0x8000 and model 0. -/
def imgHdr (flags : Nat) : List Byte :=
  [0x43, 0x58, 0x43, 0x49, 1] ++ leBytes 1 flags ++ [1] ++ zeros 9 ++ leBytes 4 0x2000 ++ leBytes 4 11 ++ zeros 8 ++
    leBytes 8 4096 ++ zeros 24 ++ ctxRec ++ invRec ++ [0] ++ List.replicate 47 0xFF ++ zeros 16 ++ leBytes 4 8 ++ zeros 252

/-- Memory with that image and list. -/
def imaged (flags : Nat) (l : List (Nat × Ctx)) : State :=
  { carStage { carUp with ctxs := l, models := [(0, modelRec)] } (leBytes 8 0x10000) with
    mem := cells 0x8000 listHdr ++ cells 0x10000 (imgHdr flags) ++ cells 0x10200 (leBytes 8 0x8200) }

theorem wit_restore : let s := imaged 2 []
    portTakes s .car .host 9 7 = true ∧ leAt (staged s .car) 0 8 = 0x10000 ∧ leAt (staged s .car) 8 8 = 0 ∧
    imageCheck s 0x10000 = 0 ∧ ctxBad ((peek s 0x10000 512).drop 0x40 |>.take 64) = none ∧ ctxsOpen s < admitCtx s := by
  decide +kernel

theorem wit_restored : let l := [(7, ({ st := .restoring, recd := ctxRec, cur := some inv7, cores := [0], image := 0x10000 } : Ctx))]
    (ctx (imaged 2 l) 7).cur = some inv7 ∧ (∀ k ∈ (ctx (imaged 2 l) 7).cores, ready (imaged 2 l) (corePg k) = true) ∧
    imgMid (imaged 2 l) 7 = true ∧ imgMid (imaged 0 l) 7 = false := by decide +kernel

theorem wit_context_fault : let s := withCtx { st := .running, recd := ctxRec, cores := [0] }
    (ctx s 7).st.live = true ∧ inReset s 7 = false ∧ pageReserved 0x040 = false := by
  decide +kernel

/-- Context 7 in TEARDOWN with its core scrubbed. -/
def torn7 (killed : Bool) : State :=
  withCtx { st := .teardown, recd := ctxRec, cur := some inv7, cores := [0], acked := [0], killed := killed, code := 9 }

theorem wit_teardown : (∀ k ∈ (ctx (torn7 true) 7).cores, k ∈ (ctx (torn7 true) 7).acked) ∧
    (ctx (torn7 true) 7).killed = true ∧ (ctx (torn7 false) 7).killed = false ∧ (ctx (torn7 false) 7).flag 0 = false ∧
    (∀ q ∈ (torn7 true).ctxs, q.2.want.length ≤ 48) := by decide +kernel

/-- R334: a fault ends FAULTED with STATUS 1 and its code. -/
theorem test_teardown : let t := after (.teardownComplete 7) (torn7 false)
    (ctx t 7).st = .faulted ∧ (ctx t 7).epoch = 1 ∧ rdLe t 0xA008 4 = 0xFFFF0901 := by decide +kernel

theorem wit_teardown_watchdog : let s := withCtx { st := .teardown, recd := ctxRec, cores := [0] }
    s.toc.oos = false ∧ lowEvent s = false ∧ (∀ q, q < 4 → (recentTimes s (tgetD s.toc.hist3 q []) (60 * Config.tSec)).length < 2) ∧
    now s < (ctx s 7).tearAt + 50 * Config.tUs ∧
    (ctx s 7).tearAt + 50 * Config.tUs ≤ now { s with tb := { s.tb with t := 50 * Config.tUs } } := by decide +kernel

theorem wit_progress : let s := withCtx { st := .running, recd := ctxRec, cores := [0] }
    corePaused s 7 0 = false ∧ inReset s 7 = false ∧ now s < (ctx s 7).progress + wdogTicks s 7 ∧
    (ctx s 7).progress + wdogTicks s 7 ≤ now { s with tb := { s.tb with t := wdogTicks s 7 } } := by decide +kernel

/-! ### Chapters 14 and 17 -/

/-- A list table of one entry: 4 rows, 64 prompt tokens. -/
def listTab : List Byte := leBytes 8 0x8000 ++ leBytes 8 0xC000 ++ [4, 0, 0, 0, 64, 0, 0, 0] ++ zeros 8

/-- A batch record on context 7: 2 slots, TOP_K 1, 8 tokens a page, 64 tokens a sequence. -/
def batchRec : List Byte :=
  [7, 0, 2, 0, 1, 1, 8, 0, 64, 0, 32, 0] ++ leBytes 4 100 ++ leBytes 4 64 ++ [2, 3, 0, 0] ++ leBytes 8 0x20000 ++
    leBytes 8 0x21000 ++ leBytes 8 0x22000 ++ leBytes 8 0x23000 ++ [4, 6, 200, 0, 10, 0, 20, 0]

def pool2 : KPool := { log2 := 16, region := 1, nblocks := 16, base := 0x800000, metaAt := 0xA00000 }

/-- A module with pools for pages and blocks, the list table, and context 7 idle. -/
def stepUp : State := { carUp with
  ctxs := [(7, { st := .idle, recd := ctxRec })]
  ket := { pools := [(2, pool1), (3, pool2)] }
  mem := cells 0x20000 listTab }

theorem wit_batch_open : let s := carStage stepUp batchRec
    let r := unitRead s (leAt (staged s .car) 0x18 8) (32 * byteAt (staged s .car) 5)
    portTakes s .car .host 0xA 63 = true ∧ batchBad s ((staged s .car).take 64) r.2.1 = none ∧ (ctx s 7).st = .idle ∧
    (ctx s 7).flag 1 = false ∧ clsOf s 7 = 1 ∧ batchOf s 7 = none := by decide +kernel

theorem wit_batch_blocks : let s := carStage stepUp batchRec
    (takeBlocks s 3 7 2 2).2 = some [0x800000, 0x810000] ∧
    (takeBlocks (takeBlocks s 3 7 2 2).1 2 7 2 1).2 = some [0x400000] := by decide +kernel

/-- The batch open as number 5. -/
def batch5 (x : Batch) : State := { stepUp with
  batches := [(5, { x with recd := batchRec, lists := listTab, plan := 0x800000, out := 0x810000, null := 0x400000 })] }

/-- A sequence whose last step was 9. -/
def seq9 : SeqSlot :=
  { tag := 77, prompt := 0x30000, plen := 4, maxNew := 8, stm := 0xFFFF, cap := 0, joinStep := 1, len := 9,
    logits := 5, lastStep := 9, pages := [0x410000, 0x420000] }

theorem wit_batch_port : let s := carStage (batch5 { st := 1, slots := [(0, seq9)] }) []
    portTakes s .car .host 0xB 5 = true ∧ portTakes s .car .host 0xC 5 = true ∧ portTakes s .car .host 0xD 5 = true ∧
    (batch s 5).st = 1 ∧ (batch (batch5 { st := 3 }) 5).st = 3 ∧
    tget (batch s 5).slots (byteAt (staged s .car) 0) = some seq9 := by decide +kernel

/-- The same with the token table's first entry. -/
def tokUp : State := { batch5 { st := 1, slots := [(0, seq9)], step := 9 } with mem := cells 0x21000 [9, 0, 0, 0, 42] }

theorem wit_token_poll : let s := tokUp
    s.ecc = [] ∧ leAt (batch s 5).recd 0x20 8 + 16 * (batch s 5).maxSeq ≤ 0x000E00000000 ∧
    joinsWaiting s (batch s 5) ≤ 2 ^ byteAt (batch s 5).recd 0x38 ∧ 0 < (batch s 5).maxSeq ∧
    leAt (rdMem s (leAt (batch s 5).recd 0x20 8) 16) 0 4 = seq9.lastStep % 2 ^ 32 ∧ seq9.logits ≠ 0 ∧ seq9.ans = none := by
  decide +kernel

/-- R343: the token 42 answers slot 0. -/
theorem test_token_poll :
    (tget (batch (after (.tokenPoll 5) tokUp) 5).slots 0).map (fun q => (q.ans, q.hist)) = some (some (42, false), [42]) := by decide +kernel

theorem wit_windows : let s := batch5 { st := 1 }
    let v := { s with tb := { s.tb with t := 1000 * Config.tUs } }
    (batch s 5).st ≠ 0 ∧ now s < (batch s 5).commitAt + leAt (batch s 5).recd 0x3C 2 * Config.tUs ∧
    now s < (batch s 5).startAt + leAt (batch s 5).recd 0x3E 2 * Config.tUs ∧
    (batch v 5).commitAt + leAt (batch v 5).recd 0x3C 2 * Config.tUs ≤ now v ∧
    (batch v 5).startAt + leAt (batch v 5).recd 0x3E 2 * Config.tUs ≤ now v := by decide +kernel

/-- A join of 12 tokens waits in the ring of an empty batch. -/
def joinE : List Byte := leBytes 8 55 ++ leBytes 8 0x30000 ++ [12, 0, 8, 0, 0xFF, 0xFF] ++ zeros 42
def joinUp (past : Bool) : State := { batch5 { st := 1, cadOver := past } with clave := [(200, 1#32)], mem := cells 0x22000 joinE }

theorem wit_step_plan : let s := joinUp true
    let x := batch s 5
    x.st = 1 ∧ x.ctx = 7 ∧ (ctx s 7).st = .idle ∧ ready s 0x190 = true ∧ 2 * x.maxSeq + 16 ≤ logitFree s x ∧ s.ecc = [] ∧
    x.slots = [] ∧ x.full = false ∧ x.cadOver = true ∧ x.tokOver = true ∧ joinsWaiting s x = 1 ∧
    (batch (joinUp false) 5).cadOver = false := by decide +kernel

theorem wit_step_join : let s := joinUp true
    let x := batch s 5
    let e := rdMem s (leAt x.recd 0x28 8 + 64 * (x.joinCons % 2 ^ byteAt x.recd 0x38)) 64
    joinOk x e = true ∧ leAt e 0x10 2 = 12 ∧ 1 ≤ x.maxSeq ∧ 1 ≤ x.lastCap.1 ∧ 12 ≤ x.lastCap.2 ∧
    cdiv 12 x.pageTok + leAt x.recd 0x16 2 ≤ pagesAvail s x.kvPool 7 ∧
    (takeBlocks s x.kvPool 7 3 (cdiv 12 x.pageTok)).2 = some [0x400000, 0x410000] := by decide +kernel

theorem wit_commit : let i : Inv := { recd := zeros 64, arrival := 0, ring := false, special := 1, owner := 5 }
    let s := { batch5 { st := 3, step := 9 } with
      ctxs := [(7, { st := .running, recd := ctxRec, cur := some i, cores := [0], ended := [0] })] }
    (ctx s 7).cur = some i ∧ (ctx s 7).ended.length = (ctx s 7).cores.length ∧ (batch s 5).closing = none := by decide +kernel

/-- A job of one sample per step, read in place, on context 7 of class 3 with a pool of step blocks. -/
def jobRec : List Byte :=
  putAt ([7, 0, 0xFF, 0xFF] ++ leBytes 4 10 ++ leBytes 8 0x40000 ++ zeros 16 ++ leBytes 8 0x50000 ++ zeros 8 ++ leBytes 4 20 ++
    [1, 0, 0, 0, 128, 0, 0, 0, 6, 3, 0, 0]) 0 [7]
def adaptUp (x : AJob) : State := { stepUp with
  ctxs := [(7, { st := .idle, recd := putAt ctxRec 0 [3] })]
  models := [(0, modelRec)]
  ajobs := if x.st = 0 then [] else [(2, { x with recd := jobRec, blks := [0x800000, 0x810000] })] }
def adaptStage (s : State) (l : List Byte) : State := putRec s 0x1D0 0x500 (fitBytes 64 l)

theorem wit_adapt_open : let s := adaptStage (adaptUp {}) jobRec
    portTakes s .adapt .host 1 2 = true ∧ leAt (staged s .adapt) 0 2 = 7 ∧ adaptBad s ((staged s .adapt).take 64) = none ∧
    (ctx s 7).flag 1 = false ∧ clsOf s 7 = 3 ∧ batchOf s 7 = none ∧ jobOf s 7 = none ∧
    (match ketAlloc s (byteAt (staged s .adapt) 0x3D) 4 6 2 2 with
      | (_, .ok l) => l == [0x800000, 0x810000]
      | _ => false) = true := by decide +kernel

theorem wit_adapt_port : portTakes (adaptUp { st := 1, run := true }) .adapt .host 2 2 = true ∧
    (ajob (adaptUp { st := 1, run := true }) 2).run = true ∧ portTakes (adaptUp { st := 2 }) .adapt .host 2 2 = true ∧
    (ajob (adaptUp { st := 2 }) 2).run = false ∧ portTakes (adaptUp { st := 2 }) .adapt .host 3 2 = true ∧
    portTakes (adaptUp { st := 3 }) .adapt .host 4 2 = true := by decide +kernel

/-- The same in an adaptation window of a whole day. -/
def inDay (s : State) : State := { s with life := { s.life with
  profile := some (putAt (s.life.profile.getD []) 0x11A (leBytes 2 1440)) } }

theorem wit_adapt_step : let p : APos := { orig := 0, idx := 0, st := 2 }
    let s := adaptUp { st := 1, loading := true, pos := [p] }
    s.adaptIn = [] ∧ (ajob s 2).loading = true ∧ (∀ q ∈ (ajob s 2).pos, 2 ≤ q.st) ∧ adaptMay s 2 = false ∧
    adaptMay (inDay s) 2 = true ∧ adaptMay (inDay (adaptUp { st := 2 })) 2 = true ∧ adaptMay (adaptUp { st := 1 }) 2 = false := by
  decide +kernel

theorem wit_rng : reaches live .host 0x1D0 0x120 = true ∧ (∀ k, k < 3 → getR live 0x1D0 (0x100 + 4 * k) = 0) ∧
    (∀ k, k < 4 → getR live 0x1D0 (0x110 + 4 * k) = 0) := by decide +kernel

/-- The last row of Table 17-1. -/
theorem test_rng : let t := after (.rngTestGo .host 1) live
    (List.range 4).map (fun k => getR t 0x1D0 (0x130 + 4 * k)) = [0x55DF6778#32, 0x3AD8F6AE#32, 0xA96E16F3#32, 0x0BA64307#32] := by
  decide +kernel

/-! ### Chapters 15 and 16 -/

/-- A track set record of 4 slots with posts to context 7. -/
def trkRec : List Byte :=
  [1, 0, 7, 0] ++ leBytes 4 0 ++ [4, 0, 1, 1, 0, 0, 0, 0] ++ leBytes 4 0x3F800000 ++ zeros 8 ++ leBytes 4 0x3F000000 ++
    leBytes 4 0x3E800000 ++ leBytes 4 0x3F800000 ++ leBytes 4 0x3F800000 ++ leBytes 4 0x3F800000 ++ zeros 4 ++ [8, 0, 3, 0] ++ zeros 8

/-- Context 7 is open and TRIGGERED. -/
def trkUp : State := { stepUp with ctxs := [(7, { st := .idle, recd := putAt ctxRec 1 [2] })] }

theorem wit_track_set : let s := carStage trkUp trkRec
    portTakes s .car .host 0xE 5 = true ∧ trackBad s 5 (staged s .car) = none ∧ ctxTriggered s 7 = true ∧
    leAt (staged s .car) 2 2 = 7 ∧ (trkSet s 5).on = false ∧
    trackBad (carStage trkUp (putAt trkRec 0xA [0])) 5 (staged (carStage trkUp (putAt trkRec 0xA [0])) .car) = some 0xA := by
  decide +kernel

/-- A ring outlet of 64 entries at 0x50000 with its index at 0x60000. -/
def ringOut : List Byte :=
  [1, 0, 9, 0, 6, 0, 0, 0] ++ leBytes 8 0x50000 ++ leBytes 8 0x60000 ++ [4, 0, 100, 0] ++ zeros 36

theorem wit_outlet_set : let s := carStage carUp ringOut
    portTakes s .car .host 0xF 255 = true ∧ outletBad s (staged s .car) = none ∧ (outlet s 255).dgram = [] ∧
    byteAt (staged s .car) 0 = 1 := by decide +kernel

/-- Set 5 with an earliest entry, posted or not. -/
def orderUp (post : Option Nat) : State := { trkUp with sets := [(5, { recd := trkRec, passed := 3, ents := [
  { frameNo := 4, stamp := 100, seq := 2, post := post }, { frameNo := 5, stamp := 200, seq := 3 }] })] }

theorem wit_order : (trkSet (orderUp none) 5).on = true ∧ (trkSet (orderUp none) 5).ending = false ∧
    (trkSet (orderUp none) 5).busy = none ∧ ready (orderUp none) 0x190 = true ∧ ctxTriggered (orderUp none) 7 = true ∧
    (firstEnt (trkSet (orderUp none) 5).ents).map (fun e => (e.stamp, e.post)) = some (100, none) ∧
    (firstEnt (trkSet (orderUp (some 0x800000)) 5).ents).map (fun e => e.seq + 1 + (trkSet (orderUp none) 5).reorder) = some 3 ∧
    (ctx (orderUp none) 7).queue.length < 16 := by decide +kernel

/-- R360: the entry with the earliest stamp is posted. -/
theorem test_order : ((ctx (after (.trackOrderRelease 5) (orderUp (some 0x800000))) 7).queue.map (fun i => (i.special, i.owner, i.block)))
    = [(3, 5, 0x800000)] := by decide +kernel

/-- A record of one entry staged for outlet 3. -/
def rec1 : List Byte := [2, 0, 1, 0] ++ zeros 60
def ringUp (x : Outlet) : State := { carUp with outlets := [(3, { x with recd := ringOut })], staging := [(3, rec1)] }

theorem wit_outlet_move : let s := ringUp { seq := 7 }
    s.stageAt = none ∧ (outlet s 3).kind = 1 ∧ rec1.length = 64 * recLen rec1 ∧ getR s 0x190 (outOfs 3 + 0x18) = 0 ∧
    (getR s 0x190 (outOfs 3 + 4)).toNat % 2 ^ byteAt (outlet s 3).recd 4 + recLen rec1 ≤ 2 ^ byteAt (outlet s 3).recd 4 ∧
    s.ecc = [] ∧ leAt (outlet s 3).recd 8 8 + rec1.length ≤ leAt (outlet s 3).recd 0x10 8 ∧
    (getR s 0x190 (outOfs 3 + 4) - getR s 0x190 (outOfs 3 + 8)).toNat + recLen rec1 ≤ 2 ^ byteAt (outlet s 3).recd 4 ∧
    (let v := putR s 0x190 (outOfs 3 + 4) 64
     2 ^ byteAt (outlet v 3).recd 4 < (getR v 0x190 (outOfs 3 + 4) - getR v 0x190 (outOfs 3 + 8)).toNat + recLen rec1) := by
  decide +kernel

/-- R370: the record stands in the ring with its sequence number, and the index follows. -/
theorem test_ring : let t := after .outletMove (ringUp { seq := 7 })
    rdMem t 0x50000 12 = [2, 0, 1, 0, 0, 0, 0, 0, 7, 0, 0, 0] ∧ rdLe t 0x60000 4 = 1 ∧ (outlet t 3).unsig = 1 := by decide +kernel

theorem wit_irq : let s := ringUp { unsig := 2 }
    (outlet s 3).unsig ≠ 0 ∧ now s < (outlet s 3).unsigAt + leAt (outlet s 3).recd 0x1A 2 * Config.tUs ∧
    (outlet s 3).unsigAt + leAt (outlet s 3).recd 0x1A 2 * Config.tUs ≤ now { s with tb := { s.tb with t := 100 * Config.tUs } } := by
  decide +kernel

/-- A UDP outlet with one record in its datagram. -/
def udpUp : State := { carUp with outlets := [(3, { recd := putAt (putAt (zeros 64) 0 [2]) 0x26 [50], dgram := [rec1] })] }

theorem wit_udp : (outlet udpUp 3).kind = 2 ∧ (outlet udpUp 3).dgram ≠ [] ∧
    now udpUp < (outlet udpUp 3).dgramAt + leAt (outlet udpUp 3).recd 0x26 2 * Config.tUs ∧
    (outlet udpUp 3).dgramAt + leAt (outlet udpUp 3).recd 0x26 2 * Config.tUs ≤
      now { udpUp with tb := { udpUp.tb with t := 50 * Config.tUs } } := by decide +kernel

/-- Port 0 with its link up and an enabled transmit ring of 4 entries at 0x70000, the first naming 60 bytes at 0x71000. -/
def ptxUp : State :=
  putR (putR { linked with mem := cells 0x70000 (leBytes 8 0x71000 ++ [60]) ++ cells 0x71000 [1, 2, 3] } 0x170 0x200 0x70000) 0x170 0x208
    0x80000002

theorem wit_ptx : reaches ptxUp .host 0x170 0x20C = true ∧ bit (getR ptxUp 0x170 0x208) 31 = true ∧
    ready ptxUp 0x170 = true ∧ linkUp ptxUp 0 = true ∧ ptxUp.ecc = [] ∧ getR64 ptxUp 0x170 0x200 = 0x70000 ∧
    rdLe ptxUp 0x70008 2 = 60 ∧ rdLe ptxUp 0x70000 8 = 0x71000 := by decide +kernel

/-- R373: the frame is sent and the entry is consumed. -/
theorem test_ptx : let t := after (.ptxTailWrite .host 0 1) ptxUp
    t.out.head? = some (.frame 0 ([1, 2, 3] ++ zeros 57)) ∧ getR t 0x170 0x210 = 1 := by decide +kernel

/-- An evidence record for pictures of 64 by 64: 2 before, 2 after, 4 in all; clips and snapshots on command. -/
def evidRec : List Byte :=
  [1, 1, 2, 0, 2, 0, 4, 0] ++ zeros 4 ++ [0, 10, 40, 20] ++ zeros 4 ++ leBytes 4 1000 ++ leBytes 4 2000 ++ leBytes 4 3000 ++
    leBytes 4 4000 ++ [50, 4, 3, 2] ++ [0, 0, 0, 0, 64, 0, 64, 0] ++ [0, 0, 0, 0, 1] ++ zeros 11

def encStage (s : State) (l : List Byte) : State := putRec s 0x120 0x500 (fitBytes 64 l)

/-- A picture of the window. -/
def pic4 : WinPic := { frameNo := 4, pic := 0x410000, map := 0, stamp := 100, w := 64, h := 64, conc := false, updated := true }

/-- Stream 5 open with pools; its evidence state is given. -/
def evUp (x : Evid) : State := { stmUp with ket := { pools := [(2, pool1), (3, pool2)] }, evids := [(5, x)] }

theorem wit_evid_set : let s := encStage (evUp {}) evidRec
    portTakes s .enc .host 1 5 = true ∧ (stm s 5).st ≠ 0 ∧ evidBad s (stm s 5) (staged s .enc) = none ∧
    evidBad s (stm s 5) (staged (encStage s (putAt evidRec 2 [151])) .enc) = some 2 ∧
    portTakes s .enc .host 4 5 = true := by decide +kernel

theorem wit_clip : let s := evUp { recd := evidRec, window := [pic4] }
    portTakes s .enc .host 2 5 = true ∧ (evid s 5).armed = true ∧ (byteAt (evid s 5).recd 1).testBit 0 = true ∧
    (evid s 5).clip = none ∧ (clipsOf s 0).length < 16 ∧ (encAlloc s (byteAt (evid s 5).recd 0x26) 1).2 = [0x800000] ∧
    (encAlloc (encAlloc s (byteAt (evid s 5).recd 0x26) 1).1 (byteAt (evid s 5).recd 0x27) 2).2 = [0x400000, 0x410000] ∧
    (evid (evUp { recd := evidRec }) 5).armed = true := by decide +kernel

theorem wit_snap : let s := encStage (evUp { recd := evidRec, window := [pic4] }) (leBytes 4 0xFFFFFFFF)
    portTakes s .enc .host 3 5 = true ∧ (evid s 5).recd ≠ [] ∧ leAt (staged s .enc) 0 4 = 0xFFFFFFFF ∧
    (evid s 5).window.getLast? = some pic4 ∧ (encAlloc s (byteAt (evid s 5).recd 0x26) 1).2 = [0x800000] := by decide +kernel

/-- A clip of stream 5 on encoder 0 with two pictures to encode. -/
def clip5 : Clip := { enc := 0, cfg := evidRec, out := 0x800000, work := [0x400000, 0x410000], trig := 100, trackId := 0,
                      todo := [pic4, { pic4 with frameNo := 5, stamp := 200 }], more := 0, total := 2, qp := 20 }
def sn5 : Snap := { stm := 5, pic := pic4, trackId := 0, trig := 100, region := [0, 0, 64, 64], out := 0x810000, cap := 4000 }

theorem wit_encoder : encFree { evUp {} with snaps := [sn5] } 0 = true ∧
    (encFree (evUp { recd := evidRec, clip := some clip5 }) 0 = true) ∧
    clipPick (evUp { recd := evidRec, clip := some clip5 }) 0 = some (5, clip5, pic4) ∧
    encFree { evUp {} with encs := [(0, { job := some (.snap sn5) })] } 0 = false := by decide +kernel

/-- Encoder 0 with the clip's first picture. -/
def encUp : State := { evUp { recd := evidRec, window := [pic4], clip := some clip5 } with encs := [(0, { job := some (.clip 5 pic4 1500) })] }

theorem wit_picture : lowEvent encUp = false ∧ (enc encUp 0).job = some (.clip 5 pic4 1500) ∧ (evid encUp 5).clip = some clip5 ∧
    1 < clip5.todo.length ∧ encUp.ecc = [] ∧ clip5.done < leAt clip5.cfg 6 2 ∧ leAt clip5.cfg 0x1C 4 = 3000 ∧
    clip5.out + 64 + 32 * leAt clip5.cfg 6 2 + clip5.bytes + 3001 ≤ 0x000E00000000 := by decide +kernel

/-- R383, R385: 6 bytes against a target of 1,500 carry 1,494. -/
theorem test_picture : let t := after (.encoderPictureComplete 0 ⟨[[1, 2, 3], [4, 5, 6]], false⟩) encUp
    (evid t 5).clip.map (fun c => (c.done, c.bytes, c.carry, c.todo.length)) = some (1, 6, 1494, 1) ∧
    rdMem t 0x8000C0 6 = [1, 2, 3, 4, 5, 6] ∧ rdLe t 0x800044 4 = 6 := by decide +kernel

theorem wit_encoder_reset : (enc encUp 0).job.isSome = true ∧ unitResets encUp 0x120 = true ∧ heldIdle encUp = true := by
  decide +kernel

/-! ### Chapter 18 -/

def ketStage (s : State) (l : List Byte) : State := putRec s 0x160 0x500 (fitBytes 128 l)

/-- A pool of 16 blocks of 4 KiB in region 1 with its metadata behind it. -/
def poolRec : List Byte := [12, 1, 0, 0] ++ leBytes 4 16 ++ leBytes 8 0xC00000000 ++ leBytes 8 0xC00010000

theorem wit_pool_create : let s := ketStage live poolRec
    portTakes s .ket .host 1 9 = true ∧ zeroAt (staged s .ket) 2 2 = true ∧ inRegion 1 0xC00000000 (16 * 2 ^ 12) = true ∧
    hitsAny (usedRanges s 9) 0xC00000000 (16 * 2 ^ 12) = false ∧
    overlaps 0xC00000000 (16 * 2 ^ 12) 0xC00010000 (metaSize 16) = false ∧ inRegion 1 0xC00010000 (metaSize 16) = true ∧
    hitsAny (usedRanges s 9) 0xC00010000 (metaSize 16) = false ∧ zeroAt (staged s .ket) 0x18 8 = true ∧
    leAt (staged s .ket) 0x10 8 = 0xC00010000 ∧ pool s 9 = none := by decide +kernel

/-- Pool 2 with given owners. -/
def ketUp (l : Tbl (List Own)) : State := { live with ket := { pools := [(2, { pool1 with owners := l })] } }

theorem wit_pool_port : portTakes (ketUp []) .ket .host 1 2 = true ∧ portTakes (ketUp []) .ket .host 2 2 = true ∧
    portTakes (ketUp []) .ket .host 3 2 = true ∧ portTakes (ketUp []) .ket .host 4 2 = true ∧
    (pool (ketUp []) 2).map (·.broken) = some false ∧ quotaBad (staged (ketUp []) .ket) = none := by decide +kernel

theorem wit_alloc : let s := ketStage (ketUp [(0, [⟨1, 5, 0, 3⟩])]) (leBytes 4 (5 * 2 ^ 21 + 3))
    let p : KPool := { pool1 with owners := [(0, [⟨1, 5, 0, 3⟩])] }
    portTakes s .ket .host 5 2 = true ∧ pool s 2 = some p ∧ ownerAt (staged s .ket) 0 = some (5, 3) ∧ s.ecc = [] ∧
    quotaRule s p 5 3 2 1 = .ok [] ∧ firstFree p 0 p.nblocks = some 1 ∧
    quotaRule s { p with nblocks := 1 } 5 3 2 1 = .noBlock 0 := by decide +kernel

/-- The operand that names block 0 of pool 2 for owner (5, 3). -/
def ketPtrOp (l : List Own) : State := ketStage (ketUp [(0, l)]) (leBytes 8 0x400000 ++ leBytes 4 (5 * 2 ^ 21 + 3))

theorem wit_ket_claim : let s := ketPtrOp [⟨1, 5, 0, 3⟩]
    leAt (staged s .ket) 0 8 = 0x400000 ∧ ownerAt (staged s .ket) 8 = some (5, 3) ∧ ptrInPool s 2 0x400000 = true ∧ s.ecc = [] ∧
    (ketPtr s 0x400000).map (fun q => (q.1, q.2.2)) = some (2, 0) ∧
    liveOwners s { pool1 with owners := [(0, [⟨1, 5, 0, 3⟩])] } 0 = [⟨1, 5, 0, 3⟩] ∧ portTakes s .ket .host 6 2 = true ∧
    portTakes s .ket .host 7 2 = true ∧ portTakes s .ket .host 8 2 = true ∧ s.stms = [] := by decide +kernel

/-- Table 18-6 on block 0: a second claim, a release, and an owner that has none. -/
theorem test_claims : let own := fun (t : State) => ((pool t 2).map (fun p => p.owners))
    own (after (.ketClaim .host 1 2) (ketPtrOp [⟨1, 5, 0, 3⟩])) = some [(0, [⟨2, 5, 0, 3⟩])] ∧
    own (after (.ketClaim .host 1 2) (ketPtrOp [⟨1, 5, 0, 4⟩])) = some [(0, [⟨1, 5, 0, 4⟩, ⟨1, 5, 0, 3⟩])] ∧
    own (after (.ketRelease .host 1 2) (ketPtrOp [⟨1, 5, 0, 3⟩])) = some [] ∧
    resultAt (after (.ketFree .host 1 2) (ketPtrOp [⟨1, 5, 0, 4⟩])) .ket 1 = resultWord 7 7 := by decide +kernel

theorem wit_ket_sweep : let s := ketUp [(0, [⟨1, 1, 3, 7⟩]), (1, [⟨1, 5, 0, 3⟩])]
    let v := { s with ket := { s.ket with sweep := [(2, 0), (2, 1)] } }
    v.ket.sweep = [(2, 0), (2, 1)] ∧ [⟨1, 1, 3, 7⟩].any (ownLive v) = false ∧ [⟨1, 5, 0, 3⟩].any (ownLive v) = true := by
  decide +kernel

theorem wit_patrol : chanReady live 0 = true ∧ bits (getR live 0x130 0x104) 7 0 ≠ 0 ∧
    bits (getR (putR live 0x130 0x104 0) 0x130 0x104) 7 0 = 0 ∧ chanReady (putR live 0x130 0x104 0) 0 = true ∧
    (let s := { live with ecc := [(granAddr 0 0 / 64 + 3, [(5, 0xFF#8)])], chans := [(0, { patrol := 7340031 })] }
     chanGranules ≤ (chan s 0).patrol + 1) ∧ granAddr 0 0 = 0 := by decide +kernel

/-- R421, R418: an error of one byte in the first granule is corrected. -/
theorem test_patrol : let s := { live with ecc := [(3, [(5, 0xFF#8)])] }
    (after (.patrolScrubRead 0) s).ecc = [] ∧ (chan (after (.patrolScrubRead 0) s) 0).patrol = 1 := by decide +kernel

theorem wit_recentre : chanReady live 31 = true ∧ (chan live 31).retrain = none ∧ urgentActive live = false ∧
    urgentActive (setStatus live 0x190 8 true) = true := by decide +kernel

theorem wit_retrain : reaches live .host 0x140 0x104 = true ∧ (blk live 0x140).st ≠ .retraining ∧
    (chan (after (.mcRetrain .host 0) live) 0).retrain = some 0 ∧ urgentActive (after (.mcRetrain .host 0) live) = false ∧
    (chan (after (.mcRetrain .host 0) live) 0).prevEye.length = 20 := by decide +kernel

theorem wit_refresh : (chan live 0).st ≠ 2 ∧ bits (getR live 0x130 0x100) 23 8 ≠ 0 ∧
    bits (getR (putR live 0x130 0x100 0) 0x130 0x100) 23 8 = 0 ∧ chanReady (putR live 0x130 0x100 0) 0 = true := by
  decide +kernel

/-! ### Chapter 19 -/

/-- BAR2 slot 0 maps 1 MiB of GDDR6 from address 0, read-only where asked. -/
def mapped (ro : Bool) : State := putRV live 0x181 0x1008 (if ro then 0xC0000010#32 else 0x80000010#32)

theorem wit_bar2 : memServed (mapped false) = true ∧ bar2At (mapped false) 0x40 = .gddr 0x40 false ∧ (mapped false).ecc = [] ∧
    memServed (mapped true) = true ∧ bar2At (mapped true) 0x40 = .gddr 0x40 true ∧ (mapped true).ecc = [] ∧
    bar2At (mapped false) 0x100000 = .miss ∧ bar2At (mapped false) 0xFFFFC = .gddr 0xFFFFC false ∧
    memServed live = true ∧ bar2At live 0 = .miss := by decide +kernel

/-- Bytes that are not enabled stay. -/
theorem test_bar2 : let t := after (.bar2Write 0x40 [some 1, none, some 3, some 4]) (mapped false)
    rdMem t 0x40 4 = [1, 0, 3, 4] ∧ (after (.bar2Read 0x40 1) t).out.take 2 = [.pcie 9 0, .data [1, 0, 3, 4]] := by decide +kernel

theorem wit_xlt : reaches live .host 0x181 (0x1008 + 16 * 255) = true ∧ bits 0x80001000#32 12 0 = 4096 ∧
    xltBase live 255 % 0x10000 = 0 ∧ xltOk (xltBase live 255) (4096 * 0x10000) = true ∧ bits 0x80000000#32 12 0 = 0 ∧
    reaches live .fw 0x181 (0x3008 + 16 * 63) = true ∧ getR64 live 0x181 (0x3000 + 16 * 63) = 0 ∧
    getR64 (putR live 0x181 (0x3000 + 16 * 63) 0x800) 0x181 (0x3000 + 16 * 63) % 4096 ≠ 0 ∧
    reaches (putR live 0x181 (0x3000 + 16 * 63) 0x800) .fw 0x181 (0x3008 + 16 * 63) = true := by decide +kernel

theorem wit_config : fnReady State.reset 2 = false ∧ fnReady live 2 = true ∧ cfgIsRead .aerUnc = true ∧
    cfgIsRead .other = false := by decide +kernel

/-- One request of context 7's DMA is outstanding under tag 5, or one whose context has gone. -/
def npUp (r : NpReq) : State := { live with pcie := { live.pcie with np := [(5, r)] } }

theorem wit_completion : tget live.pcie.np 5 = none ∧ live.pcie.aerSev.testBit 16 = false ∧
    npLive (npUp { ctx := some 7, addr := 64, bytes := 4 }) { ctx := some 7, addr := 64, bytes := 4 } = false ∧
    npLive (npUp { ctx := none, addr := 64, bytes := 4 }) { ctx := none, addr := 64, bytes := 4 } = true ∧
    tget (npUp { ctx := none, addr := 64, bytes := 4 }).pcie.np 5 = some { ctx := none, addr := 64, bytes := 4 } := by
  decide +kernel

theorem wit_timeout : let s := npUp { ctx := none, addr := 64, bytes := 4 }
    now s < 0 + ctoTicks s.pcie.ctoVal ∧ now { s with tb := { s.tb with t := 16 * Config.tMs } } = ctoTicks s.pcie.ctoVal := by
  decide +kernel

/-- Table 19-5: the default range is 16 ms. -/
theorem test_timeout : let s := npUp { ctx := none, addr := 64, bytes := 4 }
    (after (.pcieCompletionTimeout 5) { s with tb := { s.tb with t := 16 * Config.tMs } }).pcie.np = [] ∧
    (after (.pcieCompletionTimeout 5) { s with tb := { s.tb with t := 16 * Config.tMs - 1 } }).pcie.np ≠ [] := by decide +kernel

/-- The link is in a state of LINK. -/
def linkIs (n : Nat) : State := { live with pcie := { live.pcie with link := n, width := 16, speed := 5 } }

theorem wit_pcie_link : 2 ≤ (linkIs 2).pcie.link ∧ (linkIs 2).pcie.frozen = false ∧ (linkIs 2).pcie.turnOff = false ∧
    (linkIs 4).pcie.link = 4 ∧ live.pcie.link = 0 ∧ ready live 0x180 = true ∧ live.pcie.turnOff = false ∧
    (linkIs 3).pcie.link = 3 ∧ (linkIs 2).pcie.aerSev.testBit 4 = true ∧
    { (linkIs 2) with pcie := { (linkIs 2).pcie with aerSev := 0 } }.pcie.aerSev.testBit 22 = false := by decide +kernel

theorem wit_freeze : let s := { (linkIs 2) with pcie := { (linkIs 2).pcie with frozen := true, cause := 0xFE, aerUnc := 2 ^ 14 } }
    fnReady s 2 = true ∧ s.pcie.frozen = true ∧ s.pcie.link = 2 ∧ s.pcie.aerUnc &&& s.pcie.aerSev = 0 := by decide +kernel

/-- A link that is lost and trains again stays frozen (R462, R463). -/
theorem test_freeze : let s := after (.pcieLinkRetrained 16 5) (after .pcieLinkLoss (linkIs 2))
    s.pcie.frozen = true ∧ bit (blk s 0x180).status 8 = true ∧ s.pcie.cause = 0xFE := by decide +kernel

theorem wit_dstate : fnReady live 2 = true ∧ live.pcie.turnOff = false ∧
    { live with pcie := { live.pcie with waitWr := [(64, [0xA5#8])] } }.pcie.waitWr = [(64, [0xA5#8])] := by decide +kernel

/-- Vector 2047 is pending; its entry is unmasked. -/
def pendV : State := pbaSet (putR { live with pcie := { live.pcie with msixEn := true } } 0x200 (16 * 2047 + 12) 0) 2047 true

theorem wit_msix : pendV.pcie.msixEn = true ∧ pbaGet pendV 2047 = true ∧ msixHeld pendV 2047 = false ∧
    msixHeld { pendV with pcie := { pendV.pcie with fnMask := true } } 2047 = true ∧
    pbaGet { pendV with pcie := { pendV.pcie with fnMask := true } } 2047 = true := by decide +kernel

theorem wit_holdoff : tget [(9, 27)] 9 = some 27 ∧ now live < 27 ∧ now { live with tb := { live.tb with t := 27 } } = 27 ∧
    pbaGet { live with tb := { live.tb with t := 27 } } 9 = false := by decide +kernel

theorem wit_ltr : (linkIs 2).pcie.hostSeen = false ∧ (linkIs 2).pcie.ltr ≠ 1000 ∧ (linkIs 2).pcie.dstate = 0 ∧
    { (linkIs 2) with pcie := { (linkIs 2).pcie with ltr := 1000 } }.pcie.ltr = 1000 ∧
    now live < 0 + Config.tMs := by decide +kernel

theorem wit_hot_reset : live.life.phase = .up ∧ ready live 0x180 = true := by decide +kernel

theorem wit_button : live.life.phase ≠ .off ∧ bit (getR live 0x1B2 0x100) 0 = false ∧
    reaches live .host 0x1B2 0x104 = true ∧ bit (getR live 0x1B2 0x104) 8 = false ∧ live.life.phase ≠ .stopped ∧
    heldIdle live = true ∧ gongState live = 0 ∧ tget live.rvs (rkey 0x1B0 0x108) = none ∧
    bit (getR (putRV live 0x1B2 0x104 0x100) 0x1B2 0x104) 8 = true ∧ reaches (putRV live 0x1B2 0x104 0x100) .host 0x1B2 0x104 = true := by
  decide +kernel

theorem wit_wake : let s := { live with pcie := { live.pcie with d3cold := true, pmeEn := true } }
    s.pcie.d3cold = true ∧ s.pcie.pmeEn = true ∧ live.pcie.d3cold = false ∧ live.pcie.pmeEn = false := by decide +kernel

/-! ### Chapter 20 -/

/-- A run of n samples. -/
def samples (n v : Nat) : SRun := { n := n, t0 := 5, ext := v, pow := 70 }

/-- Gong as given, at a timebase value. -/
def gongUp (g : Gong) (t : Nat) : State := { live with gong := g, tb := { live.tb with t := t } }

/-- A low event that began at 5. -/
def sag : LowEv := ⟨5, 1544, true, false, 120, true, false⟩

/-- RIDING. -/
def riding (g : Gong) (t : Nat) : State := putR (gongUp g t) 0x1B0 0x108 0x10000080#32

theorem wit_sample : live.life.phase ≠ .stopped ∧ ready live 0x1B0 = true ∧ sagS live = 0 ∧
    sagS { live with life := { live.life with profile := none } } = 1600 ∧
    ready { live with life := { live.life with profile := none } } 0x1B0 = true := by decide +kernel

theorem wit_low_start : let s := gongUp { lo := samples 4 1599 } 100
    ready s 0x1B0 = true ∧ gongState s = 0 ∧ pfOn s = false ∧ tget s.rvs (rkey 0x1B0 0x108) = none ∧
    gongState (gongUp { lo := samples 3 1599 } 100) = 0 := by decide +kernel

theorem wit_low_end : let s := riding { low := some sag, fin := samples 16 1700 } 100
    gongState s = 1 ∧ 16 ≤ s.gong.fin.n ∧ now s < 5 + 8 * Config.tMs ∧ heldIdle s = true ∧ s.toc.waitRst = [] ∧
    tget s.rvs (rkey 0x1B0 0x108) = none ∧ gongState (riding { low := some sag, fin := samples 15 1700 } 100) = 1 := by
  decide +kernel

theorem wit_ride : let s := riding { low := some sag } (5 + 8 * Config.tMs)
    now s = 5 + 8 * Config.tMs ∧ heldIdle s = true ∧ gongState s < 3 ∧ tget s.rvs (rkey 0x1B0 0x108) = none ∧
    now (riding { low := some sag } 100) < 5 + 8 * Config.tMs := by decide +kernel

theorem wit_swell : let s := gongUp { hi := samples 4 2500 } 100
    ready s 0x1B0 = true ∧ gongState s < 3 ∧ 4 ≤ s.gong.hi.n ∧
    now (gongUp { swell := some sag, swFin := samples 16 2300 } 100) < 5 + 100 * Config.tMs ∧
    (let u := gongUp { swell := some sag } (5 + 100 * Config.tMs)
     heldIdle u = true ∧ gongState u < 3 ∧ tget u.rvs (rkey 0x1B0 0x108) = none) := by decide +kernel

theorem wit_stop : gongState live ≠ 3 ∧ gongState (putR live 0x1B0 0x108 0x30000080#32) = 3 ∧
    tget (putR live 0x1B0 0x108 0x30000080#32).rvs (rkey 0x1B0 0x108) = none := by decide +kernel

/-- A module that stopped, with good input since time 5. -/
def stopped (cause t : Nat) : State := { gongUp { stopCause := cause, okFrom := some 5 } t with life := { phase := .stopped } }

theorem wit_restart : (stopped 3 100).gong.stopCause = 3 ∧ (stopped 1 100).gong.okFrom = some 5 ∧
    now (stopped 1 (5 + 100 * Config.tMs)) = 5 + 100 * Config.tMs ∧ (stopped 1 9).life.phase = .stopped := by decide +kernel

theorem wit_trip : live.life.phase = .up := rfl

/-- The sag of the worked example ends ridden through. -/
theorem test_sag : let t := after .lowEventEnd (riding { low := some sag, fin := samples 16 1700 } 100)
    (tgetD t.gong.log 0 []).take 4 = [1, 1, 0xC8, 0x96] ∧ getR t 0x1B0 0x120 = 1 := by decide +kernel

theorem wit_window : let s := gongUp { nP := 1000, sumP := 1000 * 1920 * 1000 } 100
    ready s 0x1B0 = true ∧ s.gong.nP ≠ 0 ∧ gongState s = 0 ∧ tget s.rvs (rkey 0x1B0 0x108) = none := by decide +kernel

/-- 330 W against a cap of 0 W in this profile: the duty falls by 8. -/
theorem test_window : let t := after (.powerWindow []) { gongUp { nP := 1, sumP := 1920 * 1000 } 100 with regs := [] }
    bits (getR t 0x1B0 0x108) 13 7 = 56 ∧ bits (getR t 0x1B0 0x104) 15 0 = 2400 := by decide +kernel

theorem wit_ripple : let s := gongUp { ripMin := some 1900, ripMax := 2000, ripHigh := 2 } 100
    ready s 0x1B0 = true ∧ profF s 0x120 2 1500 < (2000 - 1900) * 25 ∧ ripK s < 4 ∧ tget s.rvs (rkey 0x1B0 0x108) = none ∧
    (gongUp { ripMin := some 1900, ripMax := 2000, ripHigh := 0 } 100).gong.ripHigh < 2 ∧
    (let p : Option (List Byte) := none
     let u := putR { gongUp { ripMin := some 1900, ripMax := 1901, ripLow := 9 } 100 with life := { live.life with profile := p } } 0x1B0 0x108 0x02002000#32
     ready u 0x1B0 = true ∧ (1901 - 1900) * 25 * 100 < 80 * profF u 0x120 2 1500 ∧ 0 < ripK u ∧
       tget u.rvs (rkey 0x1B0 0x108) = none) := by decide +kernel

/-- One open stream, number 9; `sh` is its shed level's table. -/
def shedUp (g : Gong) : State := { gongUp g (200 * Config.tMs) with stms := [(9, { st := 2 })] }

theorem wit_shed : let s := shedUp { past := true, lowWin := 100 }
    gongState s = 0 ∧ s.gong.shedAt + 10 * Config.tMs ≤ now s ∧ shedNext s 0 = some 9 ∧
    shedNext (shedUp { past := true, lowWin := 99 }) 0 = some 9 ∧
    gongState (shedUp { order := [9], shed := [(9, 2)], highWin := 100 }) = 0 ∧
    0 + 100 * Config.tMs ≤ now (shedUp { order := [9], shed := [(9, 2)], highWin := 99 }) := by decide +kernel

theorem wit_heat : let s := gongUp { hotMs := 9 } 100
    ready s 0x1B0 = true ∧ [40, 96].foldl max 0 = 96 ∧ thermJ s < 12 ∧ tget s.rvs (rkey 0x1B0 0x108) = none ∧
    (let u := gongUp { limitMs := 999 } 100
     gongState u < 3 ∧ heldIdle u = true ∧ ready u 0x1B0 = true) := by decide +kernel

/-- A core's domain that is off. -/
def pdUp (v : Word) : State := putR live 0x1B1 (0x100 + 4 * 5) v

theorem wit_pd : reaches (pdUp 0) .host 0x1B1 (0x200 + 4 * 5) = true ∧ pdMaster (pdUp 0) 5 = true ∧ (pdUp 0).toc.oos = false ∧
    pdState (pdUp 0) 5 = 0 ∧ ready (pdUp 0) 0x1B0 = true ∧ gongState (pdUp 0) = 0 ∧ pdMaster live 60 = false ∧
    reaches live .host 0x1B1 (0x200 + 4 * 60) = true ∧ pdState (pdUp 0x10000000#32) 5 = 1 ∧ pdState live 60 ≠ 1 ∧
    pdState (putR live 0x1B1 (0x100 + 4 * 60) 0x10000000#32) 60 = 1 ∧
    gongState (riding {} 100) = 1 ∧ pdState (putR (riding {} 100) 0x1B1 (0x100 + 4 * 5) 0) 5 = 0 := by decide +kernel

theorem wit_pd_off : let s := { live with blks := live.blks.map (fun q => if q.1 = 0x015 then (q.1, { st := .quiesced }) else q) }
    pdMaster s 5 = true ∧ pdOn s 5 = true ∧ pdIdle { s with blks := tset s.blks 0x015 { st := .quiesced } } 5 = true ∧
    pdOn { s with blks := tset s.blks 0x015 { st := .quiesced } } 5 = true ∧
    reaches { s with blks := tset s.blks 0x015 { st := .quiesced } } .host 0x1B1 (0x200 + 4 * 5) = true := by decide +kernel

/-! ### Chapter 21 -/

/-- Context 7 runs, stream 9 is open, set 9 is on, batch 3 and job 2 exist. -/
def tocUp : State :=
  let s := { live with ctxs := [(7, { st := .running })], stms := [(9, { st := 2 })], sets := [(9, { recd := [1] })] }
  { s with batches := [(3, { st := 2, recd := [7, 0] })], ajobs := [(2, { st := 1, run := true, recd := [7, 0] })] }

theorem wit_noc : (ctx tocUp 7).st.live = true ∧ (ctx tocUp 7).st ≠ .teardown ∧ inReset tocUp 7 = false ∧
    (ctx tocUp 8).st.live = false ∧ tget tocUp.toc.nocLast 0x160 = none ∧
    (let s := { tocUp with toc := { tocUp.toc with nocLast := [(0x11E, 0)] } }
     now s < 0 + Config.tMs ∧ inR 0x11E 0x100 0x121 = true ∧ unitResets s 0x11E = true ∧ inReset s 7 = false) := by
  decide +kernel

theorem wit_assert : (stm tocUp 9).st ≠ 0 ∧ (stm tocUp 8).st = 0 ∧ (trkSet tocUp 9).on = true ∧ (batch tocUp 3).st ≠ 0 ∧
    (batch tocUp 4).st = 0 ∧ (ajob tocUp 2).st ≠ 0 ∧ (ajob tocUp 2).run = true ∧ (ajob tocUp 2).ctx = 7 ∧
    warmFree tocUp = true ∧ tocUp.life.phase = .up ∧
    warmFree { live with life := { live.life with phase := .waitB } } = true := by decide +kernel

theorem test_assert : let t := after (.fwAssert (.stm 9) 0x190) tocUp
    (tgetD t.toc.log 0 []).take 8 = [0, 0x15, 0, 1, 9, 0, 0x90, 1] ∧ getR t 0x1A0 0x100 = 1 := by decide +kernel

theorem wit_unit : unitResets live 0x040 = true ∧ isEngine 0x040 = true ∧ unitResets live 0x121 = true ∧
    inR 0x121 0x100 0x121 = true ∧ unitResets live 0x12B = true ∧ heldIdle live = true := by decide +kernel

/-- One reset in progress, at a timebase value. -/
def inRst (l page t : Nat) : State :=
  { live with toc := { rsts := [⟨l, page, 1, 5, []⟩] }, tb := { live.tb with t := t } }

theorem wit_expiry : now (inRst 2 0x040 100) < 5 + levelBound 2 ∧ 5 + levelBound 2 ≤ now (inRst 2 0x040 32005) ∧
    pagePart 0x040 = some 0 ∧ (inRst 2 0x040 32005).toc.oos = false ∧ lowEvent (inRst 2 0x040 32005) = false ∧
    (recentTimes (inRst 2 0x040 32005) [] (60 * Config.tSec)).length < 2 ∧ 5 + levelBound 3 ≤ now (inRst 3 0 3200005) ∧
    warmFree (inRst 3 0 3200005) = true ∧ 5 + levelBound 4 ≤ now (inRst 4 0 240000005) ∧
    fleetEn (inRst 4 0 240000005) = false ∧
    fleetEn { inRst 4 0 240000005 with life := { live.life with profile := some (putAt prof 0x114 [1]) } } = true := by decide +kernel

theorem wit_oos : reaches live .host 0x1A0 0x120 = true ∧ live.toc.oos = false ∧ live.life.mgtReady = true ∧
    reaches { live with toc := { oos := true } } .mgmt 0x1A0 0x120 = true := by decide +kernel

theorem wit_utimer : let s := putRV live 0x1F0 (0x208 + 16 * 5) 0x80000000#32
    tbRuns s = true ∧ bit (getR s 0x1F0 (0x208 + 16 * 5)) 31 = true ∧ getR64 s 0x1F0 (0x200 + 16 * 5) ≤ now s ∧
    (let u := putR s 0x1F0 (0x200 + 16 * 5) 9
     now u < getR64 u 0x1F0 (0x200 + 16 * 5) ∧ bit (getR u 0x1F0 (0x208 + 16 * 5)) 31 = true ∧ tbRuns u = true) := by
  decide +kernel

theorem wit_pps : tbRuns live = true := by decide +kernel

theorem wit_sync : reaches live .host 0x1F0 0x120 = true ∧ inR (bits 0x1901#32 15 8) 1 120 = true ∧
    inR (bits 0x7803#32 15 8) 1 120 = true ∧ inR (bits 0x0102#32 15 8) 1 120 = true ∧ inR (bits 0x0100#32 15 8) 1 120 = true ∧
    (let s := putRV live 0x1F0 0x120 0x1911#32
     tbRuns s = true ∧ syncOwner s = 1 ∧ now s % Config.tSec = 0 ∧ s.tb.lastEdge = none ∧
     now { s with tb := { s.tb with t := 7 } } % Config.tSec ≠ 0) := by decide +kernel

/-- R510, R556: PPS wins, and the pin rises at the second. -/
theorem test_sync : let t := after (.tbSyncCfgWrite .host 0x1903#32) live
    getR t 0x1F0 0x120 = 0x1911#32 ∧ tgetD (blk t 0x1F0).cnt 1 0 = 1 ∧
    syncIo (after .syncIoEdge { t with tb := { t.tb with t := 160000000 } }) = 2 := by decide +kernel

/-! ### Chapter 22 -/

/-- The security block as given. -/
def secUp (x : Sec) : State := { live with sec := x }

/-- The header of a bundle: KIND, number of components, SVN, signer; then the components' types. -/
def bundleHdr (kind n svn key : Nat) : List Byte :=
  [0x43, 0x58, 0x4C, 0x5A, 1, 0] ++ leBytes 1 kind ++ leBytes 1 n ++ leBytes 4 svn ++ zeros 4 ++ [0xFF, 0xFF] ++ zeros 46 ++
    leBytes 64 key
def bundleComp (ty : Nat) : List Byte := leBytes 2 ty ++ zeros 94

/-- An owner bundle with a TYPE 7 component, signed by key 5. -/
def ownData : List Byte := bundleHdr 1 1 0 5 ++ bundleComp 7
def ownFact : SigFact := ⟨5, true, true, 0, []⟩

/-- A firmware image as a bundle; a component with a digest. -/
def comp (ty dg : Nat) : Comp := { ty := ty, index := 0, version := 9, digest := dg, payload := [] }
def fwB : Bundle := { parseBundle ownData ownFact with kind := 0, comps := [comp 1 1, comp 2 2, comp 3 3, comp 4 4, comp 5 5] }

theorem wit_stage : let s := putRec live 0x002 0x500 (fitBytes 64 (leBytes 8 0x40 ++ leBytes 4 64))
    portTakes s .upd .host 1 0 = true ∧ leAt (staged s .upd) 0 8 = 0x40 ∧ leAt (staged s .upd) 8 4 = 64 ∧
    s.sec.st = .idle ∧ (unitRead s 0x40 64).2.2 = true ∧ portTakes (secUp { st := .staged }) .upd .host 1 0 = true ∧
    leAt (staged (putRec live 0x002 0x500 (fitBytes 64 (leBytes 8 0x41))) .upd) 0 8 % 64 ≠ 0 ∧
    portTakes (putRec live 0x002 0x500 (fitBytes 64 (leBytes 8 0x41))) .upd .host 1 0 = true := by decide +kernel

theorem wit_verify : (stageCode (secUp { st := .verifying, copy := ownData, cur := some 3 }) (parseBundle ownData ownFact)).1 = 0 ∧
    (stageCode live (parseBundle [] ownFact)).1 ≠ 0 ∧ (parseBundle [] ownFact).fieldsOk = false := by decide +kernel

/-- The bytes of a firmware image that Olinan's key signs, and its parts. -/
def fwData (svn : Nat) : List Byte :=
  bundleHdr 0 5 svn Config.olinanKey.toNat ++ [1, 2, 3, 4, 5].flatMap bundleComp
def fwFact : SigFact := ⟨Config.olinanKey.toNat, true, true, 0, []⟩

theorem leNat_leBytes (n v : Nat) : leNat (leBytes n v) = v % 256 ^ n := by
  induction n generalizing v with
  | zero => simp [leBytes, leNat, Nat.mod_one]
  | succ n ih =>
    have h : 256 ^ (n + 1) = 256 * 256 ^ n := Nat.pow_succ'
    have e : (BitVec.ofNat 8 v).toNat = v % 256 := rfl
    simp only [leBytes, leNat, ih, h, e, Nat.mod_mul]

theorem key_fits : Config.olinanKey.toNat < 256 ^ 64 := by
  have h : Config.olinanKey.toNat < 2 ^ 512 := Config.olinanKey.isLt
  have e : (2 ^ 512 : Nat) ≤ 256 ^ 64 := by decide +kernel
  exact Nat.lt_of_lt_of_le h e

theorem fwData_signer : leAt ((fwData 4).take 128) 0x40 64 = Config.olinanKey.toNat := by
  have h : (((fwData 4).take 128).drop 0x40).take 64 = leBytes 64 Config.olinanKey.toNat := rfl
  rw [leAt, h, leNat_leBytes]
  exact Nat.mod_eq_of_lt key_fits

theorem wit_image_signed : bundleSigned (parseBundle (fwData 4) fwFact) Config.olinanKey.toNat = true := by
  have h : (parseBundle (fwData 4) fwFact).header = (fwData 4).take 128 := rfl
  have d : (parseBundle (fwData 4) fwFact).digestsOk = true := by decide +kernel
  have g : (parseBundle (fwData 4) fwFact).signer = Config.olinanKey.toNat := rfl
  have v : (parseBundle (fwData 4) fwFact).sigOk = true := rfl
  simp only [bundleSigned, h, d, g, v, fwData_signer, beq_self_eq_true, Bool.and_self]

theorem wit_image : let b := parseBundle (fwData 4) fwFact
    b.fieldsOk = true ∧ b.kind = 0 ∧ compsDistinct b.comps = true ∧ wholeImage b = true ∧ partFits live b = true ∧
    b.svn < secCtr (secUp { ctrs := [(0, 5)] }) 0 ∧ ¬ b.svn < secCtr live 0 ∧
    b.comps.any (fun c => c.ty == 6 && leAt c.payload 8 4 < secCtr live (1 + c.index)) = false := by decide +kernel

theorem wit_recovery : stageCode live (parseBundle (fwData 4) fwFact) = (0, 0) := by
  obtain ⟨a, k, c, w, p, _, v, q⟩ := wit_image
  simp only [stageCode, a, k, wit_image_signed, c, w, p, q, v, Bool.not_true, Bool.false_eq_true, if_false, if_true, bne_self_eq_false,
    Bool.or_self, Bool.and_false, decide_false]

theorem wit_recovery_state : let s := { live with life := { live.life with recovery := true } }
    s.life.recovery = true ∧ s.life.mgtReady = true ∧ s.sec.wpLow = false ∧ s.sec.st = .idle ∧ s.sec.ctrRefused = false ∧
    (parseBundle ownData ownFact).kind ≠ 0 ∧ live.life.recovery = false := by decide +kernel

theorem wit_activate : let s := secUp { st := .staged, staged := some fwB }
    portTakes s .upd .host 2 0 = true ∧ fwB.kind = 0 ∧ toActivate s fwB (leAt (staged s .upd) 0 4) = [] ∧
    s.sec.thenCommit = false ∧ live.sec.st ≠ .staged ∧ portTakes live .upd .host 2 0 = true ∧
    (let u := putR s 0x002 0x500 0x3E#32
     portTakes u .upd .host 2 0 = true ∧ toActivate u fwB (leAt (staged u .upd) 0 4) = [1, 2, 3, 4]) ∧
    (parseBundle ownData ownFact).kind ≠ 0 := by decide +kernel

theorem wit_component : let s := secUp { st := .activating, todo := [2], cur := some 3, staged := some fwB }
    s.sec.reload = false ∧ compOfTy fwB.comps 2 = some (comp 2 2) ∧ s.sec.thenCommit = false ∧ gongState s = 0 ∧
    s.sec.active = 0 ∧ urgentActive s = false ∧ urgentActive (setStatus s 0x190 8 true) = true ∧
    gongState (setStatus s 0x190 8 true) = 0 ∧ gongState (putR s 0x1B0 0x108 0x10000080#32) ≠ 0 := by decide +kernel

theorem wit_upd_commit : portTakes (secUp { st := .staged }) .upd .host 3 0 = true ∧ portTakes live .upd .host 3 0 = true ∧
    portTakes (secUp { st := .pending, wpLow := true }) .upd .host 3 0 = true ∧
    gongState (secUp { st := .committing, staged := some fwB, cur := some 3 }) = 0 ∧
    gongState (putR (secUp { st := .committing, staged := some fwB, cur := some 3 }) 0x1B0 0x108 0x10000080#32) ≠ 0 ∧
    { fwB with kind := 1, comps := [comp 6 1] }.comps = [comp 6 1] ∧ (comp 6 1).ty = 6 := by decide +kernel

theorem wit_abandon : portTakes (secUp { st := .staged }) .upd .host 4 0 = true ∧ portTakes live .upd .host 4 0 = true ∧
    portTakes (secUp { st := .pending, active := 4 }) .upd .host 4 0 = true ∧ (4 : Nat).testBit 2 = true ∧
    portTakes (secUp { st := .staged, staged := some fwB }) .upd .host 5 0 = true := by decide +kernel

/-- A failed commit of a firmware image leaves the flash image invalid (R531). -/
theorem test_commit : let t := after (.updCommitDone false) (secUp { st := .committing, staged := some fwB, cur := some 3, image := some fwB })
    t.sec.image = none ∧ t.sec.imageInvalid = true ∧ resultAt t .upd 3 = 0x90000000#32 := by decide +kernel

/-- The security block with its SPDM sequence at a step on MCTP. -/
def spdmUp (n : Nat) : State := secUp { aliasOk := true, spdmNeg := [(1, n)], running := [(2, comp 2 2)] }

theorem wit_spdm : spdmOpen (spdmUp 3) 1 = true ∧ (spdmUp 3).sec.aliasOk = true ∧ tgetD (spdmUp 3).sec.spdmNeg 1 0 = 3 ∧
    spdmOpen live 1 = true ∧ tgetD live.sec.spdmNeg 1 0 = 0 ∧ spdmOpen live 0 = true ∧ spdmOpen State.reset 0 = false ∧
    spdmOpen live 2 = false ∧ live.life.secReady = true ∧ live.life.mgtReady = true ∧ State.reset.life.secReady = false ∧
    1 ≤ tgetD (spdmUp 1).sec.spdmNeg 1 0 ∧ 2 ≤ tgetD (spdmUp 2).sec.spdmNeg 1 0 ∧
    tget (spdmUp 3).sec.running (3 - 1) = some (comp 2 2) := by decide +kernel

theorem wit_pldm : live.life.mgtReady = true ∧ State.reset.life.mgtReady = false ∧ stopping live = false ∧
    live.sec.st = .idle ∧ stopping (secUp { st := .staged, staged := some fwB, wpLow := true }) = false ∧
    toActivate (secUp { running := [(1, comp 1 1), (2, comp 2 2), (3, comp 3 3), (4, comp 4 4)] }) fwB 0x3E = [] ∧
    toActivate live fwB 0x3E ≠ [] := by decide +kernel

/-! ### Chapter 23 -/

/-- Module 0 with both of Peal's slots enabled, Peal on and peer 3 in use. -/
def pealUp (p : Peer) : State :=
  let s := putRV (putRV live 0x181 (0x1008 + 16 * 254) 0x80000010#32) 0x181 (0x1008 + 16 * 255) 0x80000010#32
  let s := putRV (putRV s 0x1E0 0x100 0x8000001F#32) 0x1E0 (0x208 + 16 * 3) 0x80000000#32
  { s with peal := { peers := [(3, p)] } }

theorem wit_cfg : reaches live .host 0x1E0 0x100 = true ∧ pealReady live 0x80000000#32 = false ∧
    pealReady (pealUp {}) 0x8000001F#32 = true ∧ reaches (pealUp {}) .host 0x1E0 0x100 = true ∧ bit 0x8000001F#32 31 = true ∧
    bit 0x1F#32 31 = false := by decide +kernel

theorem wit_heartbeat : pealEn live = false ∧ peerEn (pealUp {}) 3 = true ∧
    (∀ j, j < 16 → j ≠ 3 → peerEn (pealUp {}) j = false) ∧ (pealUp {}).peal.migQ = [] ∧ (peer (pealUp {}) 3).waitQ = [] ∧
    (pealUp {}).pcie.frozen = false ∧ (pealUp {}).pcie.dstate = 0 ∧ (pealUp {}).pcie.turnOff = false := by decide +kernel

theorem wit_hb_change : rdLe (pealUp { hb := 9 }) (inbox (pealUp { hb := 9 }) + 0x10800 + 64 * 3) 8 ≠ 9 ∧
    (peer (pealUp { hb := 9, st := 2 }) 3).st = 2 ∧ peerEn (pealUp { hb := 9 }) 3 = true ∧ peerLag (pealUp { hb := 9 }) 3 < 64 ∧
    peerEn (pealUp {}) 4 = false ∧ peerEn (pealUp { st := 1, hb := 9 }) 3 = true := by decide +kernel

theorem wit_silent : ready (pealUp { st := 1 }) 0x1E0 = true ∧ (peer (pealUp { st := 1 }) 3).st = 1 ∧
    now (pealUp { st := 1 }) < 0 + 10 * Config.tMs ∧
    0 + 10 * Config.tMs ≤ now { pealUp { st := 1 } with tb := { live.tb with t := 1600000 } } := by decide +kernel

/-- Peer 3 has put one message into its ring. -/
def mailed (p : Peer) (g : List Byte) : State :=
  { pealUp p with mem := cells (0x1000 * 3) (fitBytes 64 g) ++ cells (0x10000 + 64 * 3) (leBytes 4 1) }

theorem wit_message : let g := [2, 3, 0, 0, 0, 0, 0, 0, 4]
    let h := [1, 3, 0, 0, 0, 0, 0, 0] ++ zeros 8 ++ leBytes 4 0x09600000
    rdLe (mailed { st := 1 } g) (inbox (mailed { st := 1 } g) + 0x10000 + 64 * 3) 4 = 1 ∧
    byteAt (rdMem (mailed { st := 1 } g) (inbox (mailed { st := 1 } g) + 0x1000 * 3) 64) 0 = 2 ∧
    peerEn (mailed { st := 1 } g) 3 = true ∧ (mailed { st := 1 } g).life.modId = 0 ∧
    leAt ((rdMem (mailed { sent := true } h) 0x3000 64).drop 8) 8 4 / 65536 = 0x0960 ∧
    byteAt (rdMem (mailed { sent := true } h) 0x3000 64) 1 = 3 ∧ inbox (mailed { sent := true } h) = 0 := by decide +kernel

theorem test_goodbye : let t := after (.peerMessageReceive 3) (mailed { st := 1 } [2, 3, 0, 0, 0, 0, 0, 0, 4])
    (peer t 3).st = 3 ∧ (peer t 3).cause = 4 ∧ (peer t 3).taken = 1 := by decide +kernel

def pealStage (s : State) (l : List Byte) : State := putRec s 0x1E0 0x500 (fitBytes 64 l)

/-- Stream 9 is open; the operand names module 3, stream 8. -/
def migUp (p : Peer) (o : Option MigOut) : State :=
  let s := pealStage (pealUp p) ([3, 0] ++ leBytes 2 8 ++ leBytes 4 1)
  { s with stms := [(9, { st := 2 })], peal := { s.peal with migOut := o } }

theorem wit_peal_port : let s := migUp { st := 1 } none
    portTakes s .peal .host 1 9 = true ∧ byteAt (staged s .peal) 0 = 3 ∧ (stm s 9).st ≠ 0 ∧ (stm s 8).st = 0 ∧
    s.life.modId = 0 ∧ portTakes s .peal .host 2 9 = true ∧ leAt (staged s .peal) 2 2 = 8 ∧
    tget s.rvs (rkey 0x1E0 (0x800 + 4 * 255)) = none ∧ (peer s 3).st = 1 ∧ portTakes s .peal .host 1 8 = true ∧
    portTakes (pealStage live [16]) .peal .host 1 9 = true ∧ byteAt (staged (pealStage live [16]) .peal) 0 = 16 ∧
    (migUp { st := 1 } (some ⟨9, 3, 8, 4, 0, 0, [], []⟩)).peal.migOut.isSome = true ∧ portTakes s .peal .host 2 8 = true ∧
    portTakes (migUp { st := 1 } (some ⟨9, 3, 8, 4, 0, 0, [], []⟩)) .peal .host 2 9 = true ∧
    portTakes (migUp { st := 2 } none) .peal .host 2 9 = true ∧ portTakes s .peal .host 4 9 = true ∧
    portTakes (migUp { st := 1 } (some ⟨9, 3, 8, 4, 1, 0, [], []⟩)) .peal .host 4 9 = true ∧ portTakes s .peal .host 3 9 = true ∧
    (trkSet s 9).on = false := by decide +kernel

/-- Set 5 is on and its slot 0 holds track 1. -/
def withTrack (s : State) : State :=
  { s with sets := [(5, { recd := trkRec })], mem := [(slotAt s trkRec 0, 1), (slotAt s trkRec 0 + 4, 2)] }
def handUp (p : Peer) : State := withTrack (migUp p none)

theorem cells_two (a : Nat) : byteAt (memRdL [(a, 1), (a + 4, 2)] a 128) 4 = 2 ∧ leAt (memRdL [(a, 1), (a + 4, 2)] a 128) 0 4 = 1 := by
  have h : memRdL [(a, 1), (a + 4, 2)] a (123 + 1 + 1 + 1 + 1 + 1) = 1 :: 0 :: 0 :: 0 :: 2 :: memRdL [(a, 1), (a + 4, 2)] (a + 5) 123 := by
    simp [memRdL, memRd, tgetD, tget, Nat.add_assoc]
  have g : memRdL [(a, 1), (a + 4, 2)] a 128 = 1 :: 0 :: 0 :: 0 :: 2 :: memRdL [(a, 1), (a + 4, 2)] (a + 5) 123 := h
  rw [g]
  exact ⟨rfl, rfl⟩

theorem hand_track (s : State) : ∃ t, trkRead (withTrack s) trkRec 0 = some t ∧ t.id = 1 := by
  have w : slotAt (withTrack s) trkRec 0 = slotAt s trkRec 0 := rfl
  have m : rdMem (withTrack s) (slotAt s trkRec 0) 128 = memRdL [(slotAt s trkRec 0, 1), (slotAt s trkRec 0 + 4, 2)] (slotAt s trkRec 0) 128 := rfl
  obtain ⟨h4, h0⟩ := cells_two (slotAt s trkRec 0)
  have n : ¬ (2 = 0) := by decide
  simp only [trkRead, w, m, h4, if_neg n]
  exact ⟨_, rfl, h0⟩

theorem wit_track_send (s : State) : (trkSet (withTrack s) 5).on = true ∧
    (liveTracks (withTrack s) 5).any (fun x => x.id == 1) = true := by
  refine ⟨rfl, ?_⟩
  obtain ⟨t, h, e⟩ := hand_track s
  have r : 0 ∈ List.range (tSlots trkRec) := by decide +kernel
  rw [List.any_eq_true]
  exact ⟨t, List.mem_filterMap.mpr ⟨0, r, h⟩, by simp [e]⟩

theorem wit_send_state : leAt (staged (handUp { st := 1 }) .peal) 4 4 = 1 ∧ leAt (staged (handUp { st := 2 }) .peal) 4 4 = 1 ∧
    portTakes (handUp { st := 1 }) .peal .host 3 5 = true ∧ (peer (handUp { st := 1 }) 3).st = 1 ∧
    (handUp { st := 1 }).peal.handoff = none ∧ (peer (handUp { st := 2 }) 3).st ≠ 1 ∧
    portTakes (handUp { st := 2 }) .peal .host 3 5 = true ∧
    portTakes { migUp {} none with sets := [(5, { recd := trkRec })] } .peal .host 3 5 = true := by decide +kernel

theorem wit_push : let s := migUp { st := 1 } (some ⟨9, 3, 8, 4, 1, 0, [], []⟩)
    (stm s 9).dec = none ∧ (trkSet s 9).busy = none ∧ trkDue s 9 = false ∧ gongState s = 0 ∧ ready s 0x1E0 = true := by
  decide +kernel

end Sys2Proof.Tests
end

section
/-! Steps on an empty queue: what an idle step does, and O2. -/
namespace Sys2Proof.Machine

/-- On an empty queue a step idles (log 7). -/
theorem step_of_pending_nil {s : State} (h : s.pending = []) : step s = .next (idle s) := by
  simp only [step, h]

/-- While page 0x1F0 is in RESET the timebase stands still. -/
theorem idle_of_reset {s : State} (h : (blk s 0x1F0).st = .reset) : idle s = s := if_pos h

/-- Out of RESET the timebase counts a tick (R12). -/
theorem idle_of_ne_reset {s : State} (h : (blk s 0x1F0).st ≠ .reset) :
    idle s = { s with tb := { s.tb with t := s.tb.t + 1 } } := if_neg h

/-- Settles O2: an empty queue idles, and idling has one case for each state of the timebase page. -/
theorem idleStepCountsTimebase : Obligations.IdleStepCountsTimebase := by
  intro s hempty
  constructor
  · intro hreset
    rw [step_of_pending_nil hempty, idle_of_reset hreset]
  · intro hrun
    rw [step_of_pending_nil hempty, idle_of_ne_reset hrun]

end Sys2Proof.Machine
end

section
/-!
PROOF. Registers and headers under the shared operations: what counting, interrupts, status bits, state changes and log
records leave of the plain registers and of the page headers.
-/
namespace Sys2Proof.Machine

/-! ### Tables -/

/-- Filtering a table by its keys keeps the entries of those keys alone. -/
theorem tget_filter {α : Type} (t : Tbl α) (p : Nat → Bool) (i : Nat) :
    tget (t.filter (fun q => p q.1)) i = if p i then tget t i else none := by
  induction t with
  | nil => simp
  | cons q t ih =>
    obtain ⟨k, v⟩ := q
    by_cases hk : k = i
    · subst hk
      by_cases hp : p k <;> simp_all [tget]
    · by_cases hp : p k <;> simp_all [tget]

/-- An entry that a table answers stands in it. -/
theorem mem_of_tget {α : Type} {t : Tbl α} {i : Nat} {x : α} (h : tget t i = some x) : (i, x) ∈ t := by
  induction t with
  | nil => simp at h
  | cons q t ih =>
    obtain ⟨k, v⟩ := q
    by_cases hk : k = i
    · simp_all [tget]
    · exact List.mem_cons_of_mem _ (ih (by simpa [tget, hk] using h))

/-- Memory filtered by address reads as before where it was kept and 0 elsewhere. -/
theorem memRd_filter (m : List Host.Cell) (p : Nat → Bool) (a : Nat) :
    memRd (m.filter (fun c => p c.1)) a = if p a then memRd m a else 0 := by
  rw [memRd, memRd, tgetD, tgetD, tget_filter]
  split <;> rfl

/-- A zeroed range reads 0, and every other byte is as it was. -/
theorem memRd_memZero (m : List Host.Cell) (a n x : Nat) :
    memRd (memZero m a n) x = if x < a ∨ a + n ≤ x then memRd m x else 0 := by
  rw [memZero, memRd_filter m (fun k => decide (k < a) || decide (a + n ≤ k)) x]
  simp

/-- A property that every step of a counted loop keeps. -/
theorem forN_keeps {σ : Type} (P : σ → Prop) (f : Nat → σ → σ) (n : Nat) (hf : ∀ k < n, ∀ s, P s → P (f k s)) {s : σ}
    (hs : P s) : P (forN n f s) := by
  induction n with
  | zero => exact hs
  | succ n ih => exact hf n (Nat.lt_succ_self n) _ (ih (fun k hk => hf k (Nat.lt_succ_of_lt hk)))

/-! ### Plain registers outside the PBA -/

/-- No plain register but those of page 0x202 changed. -/
def PbaOnly (s t : State) : Prop := ∀ k, k / 0x10000 ≠ 0x202 → tget t.regs k = tget s.regs k

theorem PbaOnly.of_regs {s t : State} (h : t.regs = s.regs) : PbaOnly s t := fun k _ => by rw [h]

theorem PbaOnly.trans {s t u : State} (h : PbaOnly s t) (k : PbaOnly t u) : PbaOnly s u :=
  fun x hx => (k x hx).trans (h x hx)

theorem rkey_page (p : Nat) {o : Nat} (ho : o < 0x10000) : rkey p o / 0x10000 = p := by
  unfold rkey; omega

/-- The stored word of a register outside the PBA. -/
theorem PbaOnly.word {s t : State} (h : PbaOnly s t) (p : Nat) {o : Nat} (hp : p ≠ 0x202) (ho : o < 0x10000) (d : Word) :
    tgetD t.regs (rkey p o) d = tgetD s.regs (rkey p o) d := by
  rw [tgetD, tgetD, h _ (by rw [rkey_page p ho]; exact hp)]

/-- The value of a register outside the PBA, the voted copies being as they were. -/
theorem PbaOnly.getR {s t : State} (h : PbaOnly s t) (hv : t.rvs = s.rvs) (p : Nat) {o : Nat} (hp : p ≠ 0x202)
    (ho : o < 0x10000) : getR t p o = getR s p o := by
  rw [Machine.getR, Machine.getR, hv, h.word p hp ho]

theorem msixTake_pbaOnly (s : State) {v : Nat} (hv : v < 2048) : PbaOnly s (msixTake s v) := by
  unfold msixTake
  split
  · intro k hk
    have hreg : (msixPme (pbaSet s v true)).regs = (pbaSet s v true).regs := by unfold msixPme; split <;> rfl
    rw [hreg, pbaSet, putR]
    refine tget_tset_ne _ _ (fun e => hk ?_)
    rw [← e, rkey_page 0x202 (by omega)]
  · exact .of_regs (by unfold msixSend; dsimp only; split <;> rfl)

theorem msixMerge_pbaOnly (s : State) : PbaOnly s (msixMerge s) := by
  unfold msixMerge
  dsimp only
  split
  · exact .of_regs rfl
  · split
    · next e => exact msixTake_pbaOnly (cntAdd s 0x180 5) (irqVec_lt e)
    · exact .of_regs rfl

theorem msixReq_pbaOnly (s : State) (v : Nat) : PbaOnly s (msixReq s v) := by
  unfold msixReq
  split
  · exact .of_regs rfl
  · next hc =>
    have hv : v < 2048 := by
      simp only [Bool.or_eq_true, decide_eq_true_eq, not_or, Nat.not_le] at hc; exact hc.2
    split
    · exact (msixMerge_pbaOnly s).trans (msixTake_pbaOnly _ hv)
    · exact msixTake_pbaOnly _ hv

theorem irqReq_pbaOnly (s : State) (p : Nat) : PbaOnly s (irqReq s p) := by
  unfold irqReq
  split
  · exact msixReq_pbaOnly s _
  · exact .of_regs rfl

theorem irqReqN_pbaOnly (s : State) (p n : Nat) : PbaOnly s (irqReqN s p n) := by
  induction n generalizing s with
  | zero => exact .of_regs rfl
  | succ n ih => exact (irqReq_pbaOnly s p).trans (ih _)

theorem bump_pbaOnly (s : State) (p n : Nat) : PbaOnly s (bump s p n) := by
  unfold bump
  dsimp only
  split
  · exact .of_regs rfl
  · exact irqReq_pbaOnly (cntAdd s p n) p

theorem updBlk_pbaOnly (s : State) (p : Nat) (f : Blk → Blk) : PbaOnly s (updBlk s p f) :=
  irqReqN_pbaOnly (setBlk s p (f (blk s p))) p _

theorem setStatus_pbaOnly (s : State) (p k : Nat) (v : Bool) : PbaOnly s (setStatus s p k v) := updBlk_pbaOnly s p _

theorem readyEdge_pbaOnly (s : State) (a b : Bool) : PbaOnly s (readyEdge s a b) := by
  unfold readyEdge
  dsimp only
  split
  · exact (bump_pbaOnly s _ _).trans (setStatus_pbaOnly _ _ _ _)
  · split
    · exact (bump_pbaOnly s _ _).trans (setStatus_pbaOnly _ _ _ _)
    · exact setStatus_pbaOnly _ _ _ _

theorem setSt_pbaOnly (s : State) (p : Nat) (x : BlkSt) : PbaOnly s (setSt s p x) := by
  unfold setSt
  dsimp only
  split
  · split
    · exact updBlk_pbaOnly s p _
    · exact (updBlk_pbaOnly s p _).trans (readyEdge_pbaOnly _ _ _)
  · exact updBlk_pbaOnly s p _

/-! ### Headers -/

/-- A changed header shows the change and no other header changes; page 0x180 can count interrupts besides. -/
theorem updBlk_blk (s : State) (p : Nat) (f : Blk → Blk) {q : Nat} (hq : q ≠ 0x180) :
    blk (updBlk s p f) q = if q = p then f (blk s p) else blk s q := by
  unfold updBlk
  rw [(irqReqN_blk _ _ _ q).2 hq]
  split
  · next e => rw [e, blk_setBlk]
  · next e => rw [blk_setBlk_ne _ _ (fun h => e h.symm)]

theorem setStatus_blk_ne (s : State) {p q : Nat} (k : Nat) (v : Bool) (h : q ≠ p) (hq : q ≠ 0x180) :
    blk (setStatus s p k v) q = blk s q := by
  rw [setStatus, updBlk_blk _ _ _ hq, if_neg h]

theorem bumpN_blk_ne (s : State) {p q : Nat} (n k : Nat) (h : q ≠ p) (hq : q ≠ 0x180) :
    blk (bumpN s p n k) q = blk s q := by
  induction k generalizing s with
  | zero => rfl
  | succ k ih => rw [bumpN, ih, bump_blk_ne _ _ _ _ h hq]

/-- A counted event leaves the other counters of its page as they were. -/
theorem bump_cnt_other (s : State) {p m n : Nat} (hp : p ≠ 0x180) (h : m ≠ n) :
    tgetD (blk (bump s p n) p).cnt m 0 = tgetD (blk s p).cnt m 0 := by
  have hadd : tgetD (blk (cntAdd s p n) p).cnt m 0 = tgetD (blk s p).cnt m 0 := by
    rw [cntAdd, blk_setBlk, tgetD_tset_ne _ _ _ h.symm]
  unfold bump
  dsimp only
  split
  · exact hadd
  · rw [(irqReq_blk _ p p).2 hp, hadd]

/-- A record written into Tocsin's log at TOC_LOG_PROD, which moves on by one (R496). -/
def logStore (s : State) (r : List Byte) : State :=
  putR { s with toc := { s.toc with log := tset s.toc.log ((getR s 0x1A0 0x100).toNat % 1024) r } } 0x1A0 0x100
    (getR s 0x1A0 0x100 + 1)

/-- A log record is a stored record that begins with its KIND, and counted events of page 0x1A0 at most. -/
theorem logRec_keeps (P : State → Prop) (s : State) (kind code orig flags id page desc detail : Nat)
    (hput : ∀ r, byteAt r 0 = kind % 256 → P (logStore s r)) (hbump : ∀ u n, P u → P (bump u 0x1A0 n)) :
    P (logRec s kind code orig flags id page desc detail) := by
  have hif : ∀ (c : Prop) [Decidable c] (u : State) (n : Nat), P u → P (if c then bump u 0x1A0 n else u) := by
    intro c _ u n hu
    split
    · exact hbump u n hu
    · exact hu
  unfold logRec
  dsimp only
  exact hif _ _ 5 (hif _ _ 0 (hput _ (by simp [byteAt, leBytes])))

theorem logRec_blk_ne (s : State) (kind code orig flags id page desc detail : Nat) {q : Nat} (h : q ≠ 0x1A0)
    (hq : q ≠ 0x180) : blk (logRec s kind code orig flags id page desc detail) q = blk s q :=
  logRec_keeps (fun t => blk t q = blk s q) s kind code orig flags id page desc detail (fun _ _ => rfl)
    (fun u n hu => (bump_blk_ne u _ n q h hq).trans hu)

theorem logRec_st (s : State) (kind code orig flags id page desc detail q : Nat) :
    (blk (logRec s kind code orig flags id page desc detail) q).st = (blk s q).st :=
  logRec_keeps (fun t => (blk t q).st = (blk s q).st) s kind code orig flags id page desc detail (fun _ _ => rfl)
    (fun u n hu => (bump_st u _ n q).trans hu)

/-- A log record stands at the place of TOC_LOG_PROD in the ring, and begins with its KIND (Table 21-4). -/
theorem logRec_log (s : State) (kind code orig flags id page desc detail : Nat) :
    ∃ r, (logRec s kind code orig flags id page desc detail).toc =
      { s.toc with log := tset s.toc.log ((getR s 0x1A0 0x100).toNat % 1024) r } ∧ byteAt r 0 = kind % 256 :=
  logRec_keeps (fun t => ∃ r, t.toc = { s.toc with log := tset s.toc.log ((getR s 0x1A0 0x100).toNat % 1024) r } ∧
      byteAt r 0 = kind % 256) s kind code orig flags id page desc detail (fun r hr => ⟨r, rfl, hr⟩)
    (fun u n hu => by simpa using hu)

/-- The voted controls of a header: BLK_CTRL and BLK_FENCE. -/
def Blk.bars (b : Blk) : Tri × Tri := (b.ctrl, b.fence)

theorem cntOnly.bars {a b : Blk} (h : cntOnly a b) : b.bars = a.bars := by
  obtain ⟨c, rfl⟩ := h
  rfl

theorem bump_bars (s : State) (p n q : Nat) : (blk (bump s p n) q).bars = (blk s q).bars := (bump_cntOnly s p n q).bars

/-- A header change that leaves the voted controls alone leaves those of every page alone. -/
theorem updBlk_bars (s : State) (p : Nat) (f : Blk → Blk) (hf : ∀ b, (f b).bars = b.bars) (q : Nat) :
    (blk (updBlk s p f) q).bars = (blk s q).bars := by
  by_cases h : q = p
  · rw [h, (updBlk_cntOnly s p f).bars, hf]
  · exact (updBlk_blk_ne s p f q h).bars

theorem setStatus_bars (s : State) (p k : Nat) (v : Bool) (q : Nat) : (blk (setStatus s p k v) q).bars = (blk s q).bars :=
  updBlk_bars s p (fun b => { b with status := setBits b.status k k (b2n v) }) (fun _ => rfl) q

theorem readyEdge_bars (s : State) (a b : Bool) (q : Nat) : (blk (readyEdge s a b) q).bars = (blk s q).bars := by
  unfold readyEdge
  dsimp only
  rw [setStatus_bars]
  split
  · exact bump_bars _ _ _ _
  · split
    · exact bump_bars _ _ _ _
    · rfl

/-- A block that changes state keeps its voted controls, and so does every other. -/
theorem setSt_bars (s : State) (p : Nat) (x : BlkSt) (q : Nat) : (blk (setSt s p x) q).bars = (blk s q).bars := by
  have h : (blk (updBlk s p (fun b => { b with st := x })) q).bars = (blk s q).bars := 
    updBlk_bars s p (fun b => { b with st := x }) (fun _ => rfl) q
  unfold setSt
  dsimp only
  split
  · split
    · exact h
    · rw [readyEdge_bars, h]
  · exact h

theorem logRec_bars (s : State) (kind code orig flags id page desc detail q : Nat) :
    (blk (logRec s kind code orig flags id page desc detail) q).bars = (blk s q).bars :=
  logRec_keeps (fun t => (blk t q).bars = (blk s q).bars) s kind code orig flags id page desc detail (fun _ _ => rfl)
    (fun u n hu => (bump_bars u _ n q).trans hu)

end Sys2Proof.Machine
end

section
/-!
PROOF. Bring-up and resets of units leave the life cycle, the timebase and what is held in ports and doorbells as they were.
-/
namespace Sys2Proof.Machine

/-! ### The frame -/

/-- The life cycle, the timebase and the ports are as they were, and where no doorbell was held none is. -/
structure Keeps (s t : State) : Prop where
  life : t.life = s.life
  tb : t.tb = s.tb
  ports : t.ports = s.ports
  tails : s.ctxs.all (fun (q : Nat × Ctx) => q.2.heldTails.isEmpty) = true →
    t.ctxs.all (fun (q : Nat × Ctx) => q.2.heldTails.isEmpty) = true

theorem Keeps.of_eq {s t : State} (h : t.life = s.life ∧ t.tb = s.tb ∧ t.ports = s.ports ∧ t.ctxs = s.ctxs) : Keeps s t :=
  ⟨h.1, h.2.1, h.2.2.1, by rw [h.2.2.2]; exact id⟩

theorem Keeps.refl (s : State) : Keeps s s := .of_eq ⟨rfl, rfl, rfl, rfl⟩

theorem Keeps.trans {s t u : State} (h : Keeps s t) (k : Keeps t u) : Keeps s u :=
  ⟨k.life.trans h.life, k.tb.trans h.tb, k.ports.trans h.ports, fun e => k.tails (h.tails e)⟩

/-- What is done after a change outside the frame. -/
theorem Keeps.after {s t u : State} (k : Keeps t u)
    (h : t.life = s.life ∧ t.tb = s.tb ∧ t.ports = s.ports ∧ t.ctxs = s.ctxs) : Keeps s u := (Keeps.of_eq h).trans k

theorem Keeps.now {s t : State} (h : Keeps s t) : now t = now s := by rw [Machine.now, Machine.now, h.tb]

/-- With nothing held for any target before, nothing is held after. -/
theorem Keeps.heldIdle {s t : State} (h : Keeps s t) (hs : heldIdle s = true) : heldIdle t = true := by
  simp only [Machine.heldIdle, Bool.and_eq_true, portQ, h.ports] at hs ⊢
  exact ⟨hs.1, h.tails hs.2⟩

/-- With nothing held for any target, the settlement of what is held changes nothing but the form of the empty queues. -/
theorem heldSettle_same {s : State} (hs : Machine.heldIdle s = true) :
    (heldSettle s).life = s.life ∧ (heldSettle s).blks = s.blks ∧ (heldSettle s).regs = s.regs ∧ (heldSettle s).toc = s.toc := by
  obtain ⟨q, h, -⟩ := heldSettle_idle s hs
  rw [h]
  exact ⟨rfl, rfl, rfl, rfl⟩

/-- A loop over a list keeps what each of its steps keeps. -/
theorem Keeps.foldl {α : Type} (f : State → α → State) (l : List α) (hf : ∀ u, ∀ x ∈ l, Keeps u (f u x)) (s : State) :
    Keeps s (l.foldl f s) :=
  List.foldlRecOn l f (Keeps.refl s) (fun u hu x hx => hu.trans (hf u x hx))

/-- A counted loop keeps what each of its steps keeps. -/
theorem Keeps.forN (f : Nat → State → State) (n : Nat) (hf : ∀ k < n, ∀ u, Keeps u (f k u)) (s : State) : Keeps s (forN n f s) :=
  forN_keeps (Keeps s) f n (fun k hk u hu => hu.trans (hf k hk u)) (Keeps.refl s)

/-! ### Registers, headers and counters -/

theorem putR_keeps (s : State) (p o : Nat) (w : Word) : Keeps s (putR s p o w) := .of_eq (by simp)

theorem setPd_keeps (s : State) (n st src : Nat) : Keeps s (setPd s n st src) := .of_eq (by simp)

theorem bump_keeps (s : State) (p n : Nat) : Keeps s (bump s p n) := .of_eq (by simp)

theorem updBlk_keeps (s : State) (p : Nat) (f : Blk → Blk) : Keeps s (updBlk s p f) := .of_eq (by simp)

theorem setStatus_keeps (s : State) (p k : Nat) (v : Bool) : Keeps s (setStatus s p k v) := .of_eq (by simp)

theorem readyEdge_keeps (s : State) (a b : Bool) : Keeps s (readyEdge s a b) := .of_eq (by simp)

theorem setSt_keeps (s : State) (p : Nat) (x : BlkSt) : Keeps s (setSt s p x) := .of_eq (by simp)

theorem logRec_keepsFrame (s : State) (kind code orig flags id page desc detail : Nat) :
    Keeps s (logRec s kind code orig flags id page desc detail) := .of_eq (by simp)

theorem resetLog_keeps (s : State) (level cause parts page : Nat) : Keeps s (resetLog s level cause parts page) :=
  (logRec_keepsFrame s _ _ _ _ _ _ _ _).trans (putR_keeps _ _ _ _)

theorem profStatus_keeps (s : State) (target result st : Nat) : Keeps s (profStatus s target result st) :=
  (putR_keeps s _ _ _).trans (setStatus_keeps _ _ _ _)

theorem profShow_keeps (s : State) : Keeps s (profShow s) := (setStatus_keeps s _ _ _).trans (setStatus_keeps _ _ _ _)

theorem capShow_keeps (s : State) : Keeps s (capShow s) := (putR_keeps s _ _ _).trans (setStatus_keeps _ _ _ _)

theorem codeRevs_keeps (s : State) : Keeps s (codeRevs s) := by
  unfold codeRevs
  refine .foldl _ _ (fun u q _ => .foldl _ _ (fun v p _ => ?_) u) s
  split
  · exact .of_eq (by simp)
  · exact .refl v

theorem engStatus_keeps (s : State) (c e : Nat) : Keeps s (engStatus s c e) :=
  ((setStatus_keeps s _ _ _).trans (setStatus_keeps _ _ _ _)).trans (setStatus_keeps _ _ _ _)

theorem engsShow_keeps (s : State) : Keeps s (engsShow s) :=
  .foldl _ _ (fun u c _ => .forN _ 4 (fun e _ v => engStatus_keeps v c e) u) s

/-! ### Domains and functions -/

theorem pdReq_keeps (s : State) (n src : Nat) (room : Bool) : Keeps s (pdReq s n src room) := by
  unfold pdReq
  split
  · exact .refl s
  · split
    · exact setPd_keeps s _ _ _
    · exact (bump_keeps _ _ _).after ⟨rfl, rfl, rfl, rfl⟩

theorem domStart_keeps (hold : List Nat) (src n : Nat) (s : State) : Keeps s (domStart hold src n s) := by
  unfold domStart
  split
  · exact .refl s
  · split
    · exact pdReq_keeps s _ _ _
    · exact .refl s

theorem startAll_keeps (s : State) (hold : List Nat) (src : Nat) : Keeps s (startAll s hold src) :=
  .trans (.forN _ 69 (fun n _ u => domStart_keeps hold src n u) s) (.foldl _ _ (fun u p _ => setSt_keeps u p .init) _)

theorem pcieStart_keeps (s : State) : Keeps s (pcieStart s) := by
  unfold pcieStart
  split
  · split
    · exact .of_eq (by simp)
    · split
      · exact setPd_keeps s _ _ _
      · exact .refl s
  · exact .refl s

theorem rstsDone_keeps (s : State) : Keeps s (rstsDone s) := by
  unfold rstsDone
  dsimp only
  split
  · exact .refl s
  · exact (setStatus_keeps _ _ _ _).after ⟨rfl, rfl, rfl, rfl⟩

theorem bringTo_keeps (s : State) (p : Nat) (st : BlkSt) : Keeps s (bringTo s p st) :=
  (setSt_keeps s p st).trans (.foldl _ _ (fun u q _ => setSt_keeps u q st) _)

/-! ### Contexts -/

/-- A context whose held doorbells stay as they are. -/
theorem updCtx_keeps (s : State) (n : Nat) (f : Ctx → Ctx) (hf : (f (ctx s n)).heldTails = (ctx s n).heldTails) :
    Keeps s (updCtx s n f) := by
  refine ⟨rfl, rfl, rfl, fun h => ?_⟩
  simp only [List.all_eq_true, List.isEmpty_iff] at h ⊢
  intro q hq
  rcases mem_tset _ _ _ q hq with rfl | hq
  · rw [hf, ctx, tgetD]
    cases e : tget s.ctxs n with
    | none => rfl
    | some c => exact h _ (mem_of_tget e)
  · exact h q hq

theorem startTeardown_keeps (s : State) (n code : Nat) (killed : Bool) : Keeps s (startTeardown s n code killed) :=
  updCtx_keeps s n _ rfl

theorem killQuiet_keeps (s : State) (n : Nat) : Keeps s (killQuiet s n) := by
  unfold killQuiet
  split
  · exact startTeardown_keeps s _ _ _
  · exact .refl s

theorem askPause_keeps (s : State) (n : Nat) : Keeps s (askPause s n) := by
  unfold askPause
  refine updCtx_keeps s n _ ?_
  split <;> rfl

theorem askEvict_keeps (s : State) (n : Nat) (why : EvictWhy) : Keeps s (askEvict s n why) := by
  unfold askEvict
  split
  · exact (askPause_keeps s n).trans (updCtx_keeps _ n _ rfl)
  · exact .refl s

theorem switchEvict_keeps (s : State) (r : List Byte) : Keeps s (switchEvict s r) :=
  .foldl _ _ (fun u q _ => askEvict_keeps u q.1 .profile) s

/-! ### Units -/

theorem setDec_keeps (s : State) (d : Nat) (x : Dec) : Keeps s (setDec s d x) :=
  (setStatus_keeps _ _ _ _).after ⟨rfl, rfl, rfl, rfl⟩

theorem updStm_keeps (s : State) (n : Nat) (f : Stm → Stm) : Keeps s (updStm s n f) := .of_eq ⟨rfl, rfl, rfl, rfl⟩

theorem decRequeue_keeps (s : State) (d : Nat) (count : Bool) : Keeps s (decRequeue s d count) := by
  unfold decRequeue
  split
  · exact .refl s
  · exact (setDec_keeps s _ _).trans (updStm_keeps _ _ _)

/-- What a reset does to the work of a unit that is no encoder. -/
theorem unitWork_keeps (s : State) {p : Nat} (hp : p ≠ 0x120 ∧ p ≠ 0x121) : Keeps s (unitWork s p) := by
  unfold unitWork
  split
  · exact (Keeps.foldl killQuiet _ (fun u n _ => killQuiet_keeps u n) s).trans (.of_eq ⟨rfl, rfl, rfl, rfl⟩)
  · split
    · split
      · exact decRequeue_keeps s _ _
      · exact .refl s
    · rw [if_neg (by simpa using hp)]
      exact .refl s

theorem pageReset_keeps (s : State) (p : Nat) (st : BlkSt) : Keeps s (pageReset s p st) :=
  (setSt_keeps s p st).trans (updBlk_keeps _ _ _)

/-- A page of a power domain other than the encoders' is no encoder's. -/
theorem not_encoder_of_mem_domPages {s : State} {n p : Nat} (hn : n ≠ 56 ∧ n ≠ 57) (hp : p ∈ domPages s n) :
    p ≠ 0x120 ∧ p ≠ 0x121 := by
  simp only [domPages, List.mem_filter, Bool.and_eq_true, beq_iff_eq] at hp
  obtain ⟨-, -, hd⟩ := hp
  constructor <;> rintro rfl
  · exact hn.1 (Option.some.inj hd).symm
  · exact hn.2 (Option.some.inj hd).symm

theorem domainOff_keeps (s : State) {n : Nat} (src : Nat) (hn : n ≠ 56 ∧ n ≠ 57) : Keeps s (domainOff s n src) := by
  have hwork : Keeps s ((domPages s n).foldl (fun u p => pageReset (unitWork u p) p .reset) s) :=
    .foldl _ _ (fun u p hp => (unitWork_keeps u (not_encoder_of_mem_domPages hn hp)).trans (pageReset_keeps _ _ _)) s
  unfold domainOff
  dsimp only
  refine hwork.trans ?_
  generalize (domPages s n).foldl (fun u p => pageReset (unitWork u p) p .reset) s = u
  split
  · exact (setPd_keeps _ n 0 src).after ⟨rfl, rfl, rfl, rfl⟩
  · exact (setPd_keeps _ n 0 src).after ⟨rfl, rfl, rfl, rfl⟩

/-- The domains of a partition hold no encoder. -/
theorem partDomains_no_encoder {q n : Nat} (hq : q < 4) (hn : n ∈ partDomains q) : n ≠ 56 ∧ n ≠ 57 := by
  simp only [partDomains, List.mem_append, List.mem_map, List.mem_range, List.mem_cons, List.not_mem_nil, or_false] at hn
  rcases hn with ⟨k, hk, rfl⟩ | rfl | rfl | rfl <;> omega

end Sys2Proof.Machine
end

section
/-! PROOF. Quiescing and fences: O14. -/
namespace Sys2Proof.Machine

/-! ### The two voted bits -/

/-- A bit set to a level reads as that level. -/
theorem bit_setBits_zero (w : Word) (v : Bool) : bit (setBits w 0 0 (b2n v)) 0 = v := by
  cases v <;> simp [bit, setBits, maskW, word, b2n]

theorem putQuiesce_blk (s : State) (p : Nat) (v : Bool) :
    quiesceOf (blk (putQuiesce s p v) p) = v ∧ (blk (putQuiesce s p v) p).st = (blk s p).st := by
  obtain ⟨c, e⟩ := updBlk_cntOnly s p (fun b => { b with ctrl := Tri.all (setBits b.ctrl.maj 0 0 (b2n v)) })
  rw [putQuiesce, e]
  exact ⟨by simp only [quiesceOf, maj_all, bit_setBits_zero], rfl⟩

theorem putFence_blk (s : State) (p : Nat) (v : Bool) :
    bit (blk (putFence s p v) p).fence.maj 0 = v ∧ (blk (putFence s p v) p).st = (blk s p).st := by
  obtain ⟨c, e⟩ := updBlk_cntOnly s p (fun b => { b with fence := Tri.all (setBits b.fence.maj 0 0 (b2n v)) })
  rw [putFence, e]
  exact ⟨by simp only [maj_all, bit_setBits_zero], rfl⟩

/-- A change of state leaves QUIESCE and FENCE as set. -/
theorem setSt_quiesce (s : State) (p : Nat) (x : BlkSt) (q : Nat) :
    quiesceOf (blk (setSt s p x) q) = quiesceOf (blk s q) := by
  have hctrl : (blk (setSt s p x) q).ctrl = (blk s q).ctrl := congrArg Prod.fst (setSt_bars s p x q)
  rw [quiesceOf, quiesceOf, hctrl]

theorem setSt_fence (s : State) (p : Nat) (x : BlkSt) (q : Nat) : (blk (setSt s p x) q).fence = (blk s q).fence :=
  congrArg Prod.snd (setSt_bars s p x q)

/-! ### What each command does -/

/-- QUIESCE written 0 of a QUIESCED block with nothing held (R562). -/
theorem quiesceClear_quiesced (s : State) (p : Nat) (hidle : heldIdle s = true) (hq : (blk s p).st = .quiesced) :
    (blk (quiesceClear s p) p).st = .run ∧ quiesceOf (blk (quiesceClear s p) p) = false := by
  obtain ⟨hbit, hst⟩ := putQuiesce_blk s p false
  have hkeep : Keeps s (setSt (putQuiesce s p false) p .run) := (updBlk_keeps s p _).trans (setSt_keeps _ _ _)
  obtain ⟨-, hblks, -⟩ := heldSettle_same (hkeep.heldIdle hidle)
  simp only [quiesceClear, hst, hq, if_true, blk_congr hblks]
  exact ⟨setSt_st _ p .run, (setSt_quiesce _ p .run p).trans hbit⟩

/-- FENCE written 1 of a block that a fence takes: it goes FENCED, the fence is logged, and its 100 µs begin. -/
theorem fenceSet_eq (s : State) (p : Nat) (hst : (blk s p).st ∈ [BlkSt.run, .updating, .retraining, .quiesced]) :
    ∃ u, u = logRec (setSt (putFence s p true) p .fenced) 2 0 0 3 0 p 0 0 ∧
      fenceSet s p = heldSettle { u with toc := { u.toc with fences := tset u.toc.fences p (now u) } } := by
  refine ⟨_, rfl, ?_⟩
  simp only [List.mem_cons, List.not_mem_nil, or_false, ← (putFence_blk s p true).2] at hst
  unfold fenceSet
  rcases hst with h | h | h | h <;> simp only [h]

/-- A fence that a block takes (R65, R496, R499). -/
theorem fenceSet_taken (s : State) (p : Nat) (hidle : heldIdle s = true)
    (hst : (blk s p).st ∈ [BlkSt.run, .updating, .retraining, .quiesced]) :
    (blk (fenceSet s p) p).st = .fenced ∧ bit (blk (fenceSet s p) p).fence.maj 0 = true ∧
      tget (fenceSet s p).toc.fences p = some (now s) ∧
      byteAt (tgetD (fenceSet s p).toc.log ((getR s 0x1A0 0x100).toNat % 1024) []) 0 = 2 := by
  obtain ⟨u, hu, hfence⟩ := fenceSet_eq s p hst
  have hkeep : Keeps s u :=
    hu ▸ ((updBlk_keeps s p _).trans (setSt_keeps _ _ _)).trans (logRec_keepsFrame _ _ _ _ _ _ _ _ _)
  have hprod : getR (setSt (putFence s p true) p .fenced) 0x1A0 0x100 = getR s 0x1A0 0x100 :=
    ((updBlk_pbaOnly s p _).trans (setSt_pbaOnly _ p .fenced)).getR (by simp) 0x1A0 (by decide) (by decide)
  have hblk : (blk u p).st = .fenced ∧ (blk u p).fence = (blk (putFence s p true) p).fence :=
    ⟨hu ▸ (logRec_st _ _ _ _ _ _ _ _ _ p).trans (setSt_st _ p .fenced),
      hu ▸ (congrArg Prod.snd (logRec_bars _ _ _ _ _ _ _ _ _ p)).trans (setSt_fence _ p .fenced p)⟩
  have hlog : byteAt (tgetD u.toc.log ((getR s 0x1A0 0x100).toNat % 1024) []) 0 = 2 := by
    obtain ⟨r, hr, hkind⟩ := logRec_log (setSt (putFence s p true) p .fenced) 2 0 0 3 0 p 0 0
    rw [hu, hr, ← hprod, tgetD_tset, hkind]
  clear hu
  have hidleU : heldIdle { u with toc := { u.toc with fences := tset u.toc.fences p (now u) } } = true := hkeep.heldIdle hidle
  obtain ⟨-, hblks, -, htoc⟩ := heldSettle_same hidleU
  rw [hfence, blk_congr hblks, htoc]
  refine ⟨hblk.1, ?_, ?_, hlog⟩
  · exact (congrArg (fun b : Tri => bit b.maj 0) hblk.2).trans (putFence_blk s p true).1
  · exact (tget_tset _ _ _).trans (congrArg some hkeep.now)

/-- A fault raised on a live context that no reset holds tears it down with the fault's code (R491, R334). -/
theorem ctxFault_live (s : State) (n code page desc : Nat) (hlive : (ctx s n).st.live = true) (hrst : inReset s n = false) :
    (ctx (ctxFault s n code page desc) n).st = .teardown ∧ (ctx (ctxFault s n code page desc) n).code = code := by
  have hsec : ¬ ((ctx s n).st = .teardown ∨ inReset s n = true) := by
    rw [hrst]
    rintro (h | h)
    · rw [h] at hlive; cases hlive
    · cases h
  simp only [ctxFault, raiseFault, Bool.or_eq_true, decide_eq_true_eq, if_neg hsec, if_pos hlive, startTeardown, ctx_updCtx]
  trivial

/-- A cut after 100 µs that ends one context's read (R499). -/
theorem fenceCut_one (s : State) (p n t0 : Nat) (f : CutFact) (hf : tget s.toc.fences p = some t0)
    (hage : t0 + 100 * Config.tUs ≤ now s) (hn : f.ctxs = [n]) :
    execFenceCut p f s = .next (bumpN (fenceOver (ctxFault s n 0x16 p 0) p) 0x1A0 7 (f.reads + f.writes)) := by
  simp only [execFenceCut, hf, if_neg (Nat.not_lt.mpr hage), hn, List.foldl_cons, List.foldl_nil]

theorem blk_fenceOver (s : State) (p q : Nat) : blk (fenceOver s p) q = blk s q := rfl

/-- FENCE written 0 of a fenced block in service (R65). -/
theorem fenceClear_fenced (s : State) (p : Nat) (hserve : s.toc.oos = false) (hst : (blk s p).st = .fenced) :
    fenceClear s p = setSt (fenceOver (putFence s p false) p) p .selftest := by
  have hcond : ((blk (putFence s p false) p).st = .fenced && !(putFence s p false).toc.oos) = true := by
    rw [(putFence_blk s p false).2, hst]
    simp [putFence, hserve]
  simp only [fenceClear]
  exact if_pos hcond

/-! ### The commands -/

theorem execQuiesceSet_reaches {s : State} {m : Master} {p : Nat} (hp : hasHeader p = true) (hr : reaches s m p 0x014 = true) :
    execQuiesceSet m p s = .next (putQuiesce s p true) := by
  simp only [execQuiesceSet, hp, guarded_reaches _ _ _ _ _ hr, Bool.not_true, Bool.false_eq_true, if_false]

theorem execQuiesceClear_reaches {s : State} {m : Master} {p : Nat} (hp : hasHeader p = true) (hr : reaches s m p 0x014 = true) :
    execQuiesceClear m p s = .next (quiesceClear s p) := by
  simp only [execQuiesceClear, hp, guarded_reaches _ _ _ _ _ hr, Bool.not_true, Bool.false_eq_true, if_false]

theorem execFenceSet_reaches {s : State} {m : Master} {p : Nat} (hp : hasHeader p = true) (hr : reaches s m p 0x018 = true) :
    execFenceSet m p s = .next (fenceSet s p) := by
  simp only [execFenceSet, hp, guarded_reaches _ _ _ _ _ hr, Bool.not_true, Bool.false_eq_true, if_false]

theorem execFenceClear_reaches {s : State} {m : Master} {p : Nat} (hp : hasHeader p = true) (hr : reaches s m p 0x018 = true) :
    execFenceClear m p s = .next (fenceClear s p) := by
  simp only [execFenceClear, hp, guarded_reaches _ _ _ _ _ hr, Bool.not_true, Bool.false_eq_true, if_false]

/-- A block in RUN with QUIESCE set, powered and without work in flight, and no cage's port, goes QUIESCED. -/
theorem execBlockQuiesced_run {s : State} {p : Nat} (hrun : (blk s p).st = .run) (hq : quiesceOf (blk s p) = true)
    (hfree : inFlight s p = false) (hon : pageOn s p = true) (hport : ¬ (p = 0x170 ∨ p = 0x171)) :
    execBlockQuiesced p s = .next (setSt s p .quiesced) := by
  have hcage : ¬ ((decide (p = 0x170) || decide (p = 0x171)) = true) := by simpa using hport
  simp only [execBlockQuiesced, blockQuiesced, hrun, hq, hfree, hon, Bool.not_false, Bool.and_true, decide_true, if_true,
    if_neg hcage]

theorem execFenceDrainComplete_drained {s : State} {p : Nat} (hf : (tget s.toc.fences p).isSome = true)
    (hfree : inFlight s p = false) : execFenceDrainComplete p s = .next (fenceOver s p) := by
  simp only [execFenceDrainComplete, hf, hfree, Bool.not_false, Bool.and_true, if_true]

/-- A cut keeps the teardown it started, and its fence is over. -/
theorem fenceCut_result (s : State) (p n k : Nat) (hlive : (ctx s n).st.live = true) (hrst : inReset s n = false) :
    tget (bumpN (fenceOver (ctxFault s n 0x16 p 0) p) 0x1A0 7 k).toc.fences p = none ∧
      (ctx (bumpN (fenceOver (ctxFault s n 0x16 p 0) p) 0x1A0 7 k) n).st = .teardown ∧
      (ctx (bumpN (fenceOver (ctxFault s n 0x16 p 0) p) 0x1A0 7 k) n).code = 0x16 := by
  have hctx : ctx (bumpN (fenceOver (ctxFault s n 0x16 p 0) p) 0x1A0 7 k) n = ctx (ctxFault s n 0x16 p 0) n := by
    simp [ctx, fenceOver]
  rw [hctx]
  exact ⟨by simp [fenceOver], ctxFault_live s n 0x16 p 0 hlive hrst⟩

/-- Settles O14, command by command. -/
theorem quiesceAndFence : Obligations.QuiesceAndFence := by
  unfold Obligations.QuiesceAndFence
  refine ⟨?_, ?_, ?_, ?_, ?_, ?_, ?_⟩
  · intro s m p hp hr
    obtain ⟨b, r, c, o, hframe⟩ := updBlk_frame s p (fun b => { b with ctrl := Tri.all (setBits b.ctrl.maj 0 0 (b2n true)) })
    obtain ⟨hbit, hst⟩ := putQuiesce_blk s p true
    exact ⟨putQuiesce s p true, execQuiesceSet_reaches hp hr, hbit, hst, by rw [putQuiesce, hframe]⟩
  · intro s p hrun hq hfree hon hport
    refine ⟨setSt s p .quiesced, ?_, setSt_st s p .quiesced⟩
    exact execBlockQuiesced_run hrun hq hfree hon hport
  · intro s m p hp hr hidle hst
    exact ⟨quiesceClear s p, execQuiesceClear_reaches hp hr, quiesceClear_quiesced s p hidle hst⟩
  · intro s m p hp hr hidle hst
    exact ⟨fenceSet s p, execFenceSet_reaches hp hr, fenceSet_taken s p hidle hst⟩
  · intro s p hf hfree
    exact execFenceDrainComplete_drained hf hfree
  · intro s p t0 n f hf hage hn hlive hrst
    exact ⟨_, fenceCut_one s p n t0 f hf hage hn, fenceCut_result s p n _ hlive hrst⟩
  · intro s m p hp hr hserve hst
    refine ⟨fenceClear s p, execFenceClear_reaches hp hr, ?_⟩
    rw [fenceClear_fenced s p hserve hst, setSt_fence, blk_fenceOver]
    exact ⟨setSt_st _ p .selftest, (putFence_blk s p false).1, by simp [fenceOver]⟩

end Sys2Proof.Machine
end

section
/-! PROOF. Resets from power and PERST_N, and the start of phase B: O11. -/
namespace Sys2Proof.Machine

/-! ### Steps that every start goes through -/

/-- The domains that are always on come up without touching memory, the timebase, Tocsin or the life cycle. -/
@[simp] theorem baseOn_same (s : State) : (baseOn s).mem = s.mem ∧ (baseOn s).tb = s.tb ∧ (baseOn s).toc = s.toc ∧
    (baseOn s).life = s.life ∧ (baseOn s).sec = s.sec ∧ (baseOn s).gong = s.gong := by
  simp [baseOn]

/-- The state in which image verification shows its result: READY_MAP bit 0 and the recovery responder are each other's
opposite (R60, R533). -/
def secShown (s : State) (x : Sec) (good : Bool) : State :=
  { s with sec := x, life := { s.life with secReady := good, recovery := !good } }

/-- Image verification ends in RUN, an image being there, or in FAILED with a report. -/
theorem bootSec_cases (s : State) (ok : Bool) :
    (s.sec.image.isSome = true ∧
      ∃ x, bootSec s ok = readyEdge (setSt (secShown s x true) 0x1C0 .run) s.life.secReady true) ∨
    ∃ x, bootSec s ok = report (readyEdge (setSt (secShown s x false) 0x1C0 .failed) s.life.secReady false) 6 0 := by
  unfold bootSec
  cases himg : s.sec.image with
  | none =>
    right
    simp only [Bool.false_eq_true, if_false]
    exact ⟨_, rfl⟩
  | some b =>
    dsimp only
    split
    · exact .inl ⟨rfl, _, rfl⟩
    · exact .inr ⟨_, rfl⟩

@[simp] theorem bootSec_same (s : State) (ok : Bool) :
    (bootSec s ok).mem = s.mem ∧ (bootSec s ok).tb = s.tb ∧ (bootSec s ok).toc = s.toc ∧
      (bootSec s ok).life.phase = s.life.phase ∧ (bootSec s ok).life.trained = s.life.trained ∧
      (bootSec s ok).life.profile = s.life.profile := by
  rcases bootSec_cases s ok with ⟨-, x, h⟩ | ⟨x, h⟩ <;> rw [h] <;> simp [secShown]

theorem bootSec_pbaOnly (s : State) (ok : Bool) : PbaOnly s (bootSec s ok) := by
  rcases bootSec_cases s ok with ⟨-, x, h⟩ | ⟨x, h⟩ <;> rw [h]
  · exact (setSt_pbaOnly (secShown s x true) 0x1C0 .run).trans (readyEdge_pbaOnly _ _ _)
  · exact (setSt_pbaOnly (secShown s x false) 0x1C0 .failed).trans ((readyEdge_pbaOnly _ s.life.secReady false).trans (.of_regs (by simp)))

theorem blk_report (s : State) (k d q : Nat) : blk (report s k d) q = blk s q := rfl

/-- Without a flash image the security page is FAILED and the recovery responder runs. -/
theorem bootSec_no_image (s : State) (ok : Bool) (himg : s.sec.image = none) :
    (bootSec s ok).life.recovery = true ∧ (bootSec s ok).life.secReady = false ∧ (blk (bootSec s ok) 0x1C0).st = .failed := by
  rcases bootSec_cases s ok with ⟨hsome, -⟩ | ⟨x, h⟩
  · rw [himg] at hsome; cases hsome
  · rw [h]
    refine ⟨by simp [secShown], by simp [secShown], ?_⟩
    rw [blk_report, readyEdge_st, setSt_st]

/-! ### Power-on -/

/-- The state that the boot ROM finds at a power-on reset: the base domains up, the cause in RESET_CAUSE. -/
def powerBase (s : State) (cause : Nat) (f : BootFact) : State :=
  let u := baseOn (coldOff s .waitPerst)
  putR { u with sec := { u.sec with ctrRefused := f.ctrRefused, wpLow := f.wpLow }, gong := { u.gong with trip := false } }
    0x004 0x100 (word cause)

theorem powerOn_eq (s : State) (cause : Nat) (f : BootFact) : powerOn s cause f = bootSec (powerBase s cause f) f.pufOk := rfl

/-- What the base domains start from: nothing in memory, the timebase at 0 (R58). -/
theorem powerBase_facts (s : State) (cause : Nat) (f : BootFact) :
    (powerBase s cause f).life.phase = .waitPerst ∧ (powerBase s cause f).mem = [] ∧ (powerBase s cause f).tb.t = 0 ∧
      (powerBase s cause f).sec.image = imageLeft s.sec ∧
      tgetD (powerBase s cause f).regs (rkey 0x004 0x100) 0 = word cause := by
  refine ⟨?_, ?_, ?_, ?_, by simp [powerBase, putR]⟩ <;> simp [powerBase, coldOff]

/-- What a power-on reset leaves, whatever the image (R58, R60). -/
theorem powerOn_facts (s : State) (cause : Nat) (f : BootFact) :
    (powerOn s cause f).life.phase = .waitPerst ∧ (powerOn s cause f).mem = [] ∧ (powerOn s cause f).tb.t = 0 ∧
      tgetD (powerOn s cause f).regs (rkey 0x004 0x100) 0 = word cause ∧
      (imageLeft s.sec = none → (powerOn s cause f).life.recovery = true ∧ (powerOn s cause f).life.secReady = false ∧
        (blk (powerOn s cause f) 0x1C0).st = .failed) := by
  obtain ⟨hphase, hmem, htb, himg, hcause⟩ := powerBase_facts s cause f
  obtain ⟨hmem', htb', -, hphase', -⟩ := bootSec_same (powerBase s cause f) f.pufOk
  have hregs : tgetD (bootSec (powerBase s cause f) f.pufOk).regs (rkey 0x004 0x100) 0 = word cause := by
    rw [(bootSec_pbaOnly _ _).word 0x004 (by decide) (by decide), hcause]
  rw [powerOn_eq, hmem', htb', hphase']
  exact ⟨hphase, hmem, htb, hregs, fun h => bootSec_no_image _ _ (himg.trans h)⟩

/-! ### PERST_N -/

/-- What PERST_N keeps of the module (R59, R505), the base domains still to come up. -/
def perstLeft (s : State) : State :=
  let cold := s.pcie.turnOff && s.pcie.link == 4
  { pending := s.pending, part := s.part,
    regs := s.regs.filter (fun q => perstKeeps q.1), rvs := s.rvs.filter (fun q => perstKeeps q.1),
    blks := (s.blks.filter (fun q => perstKeeps (rkey q.1 0))).map (fun q => (q.1, { q.2 with cnt := [] })),
    life := { s.life with phase := .waitPerst, trained := [], profile := none, source := 0, index := 0,
                          switchTo := none, groups := 0, leap := 0 },
    pcieMem := s.pcieMem, toc := { log := s.toc.log, oos := s.toc.oos },
    gong := { flashLog := s.gong.flashLog }, sec := { s.sec with image := imageLeft s.sec }, out := s.out, free := s.free,
    pcie := { d3cold := cold, wake := s.pcie.wake, pmeEn := cold && s.pcie.pmeEn, pmeStatus := cold && s.pcie.pmeStatus } }

/-- The base domains up again, with RESET_CAUSE 2 and the slot pins' registers at rest. -/
def perstBase (s : State) : State :=
  let t := putR (switchStop (baseOn (perstLeft s))) 0x004 0x100 2
  let t := putR t 0x1B2 0x100 (setBits (getR t 0x1B2 0x100) 3 1 1)
  let t := putRV t 0x1B2 0x104 (setBits (getR t 0x1B2 0x104) 8 8 0)
  updBlk t 0x001 (fun b => { b with status := 0 })

theorem perstDo_eq (s : State) : perstDo s = bootSec (perstBase s) true := rfl

theorem perstBase_facts (s : State) :
    (perstBase s).life = (perstLeft s).life ∧ (perstBase s).mem = [] ∧ (perstBase s).tb.t = 0 ∧
      tgetD (perstBase s).regs (rkey 0x004 0x100) 0 = 2 ∧ (perstBase s).toc.log = s.toc.log := by
  refine ⟨by simp [perstBase, switchStop], by simp [perstBase, switchStop, perstLeft],
    by simp [perstBase, switchStop, perstLeft], ?_, by simp [perstBase, switchStop, perstLeft]⟩
  unfold perstBase
  dsimp only
  rw [(updBlk_pbaOnly _ _ _).word 0x004 (by decide) (by decide)]
  simp only [putRV, putR]
  rw [tgetD_tset_ne _ _ _ (by decide), tgetD_tset]

/-- What PERST_N leaves (R57, R59, R505). -/
theorem perstDo_facts (s : State) :
    (perstDo s).life.phase = .waitPerst ∧ (perstDo s).mem = [] ∧ (perstDo s).tb.t = 0 ∧
      tgetD (perstDo s).regs (rkey 0x004 0x100) 0 = 2 ∧ (perstDo s).life.trained = [] ∧
      (perstDo s).life.profile = none ∧ (perstDo s).toc.log = s.toc.log := by
  obtain ⟨hlife, hmem, htb, hcause, hlog⟩ := perstBase_facts s
  obtain ⟨hmem', htb', htoc', hphase', htrained', hprofile'⟩ := bootSec_same (perstBase s) true
  rw [perstDo_eq, hmem', htb', htoc', hphase', htrained', hprofile', hlife, (bootSec_pbaOnly _ _).word 0x004 (by decide) (by decide)]
  exact ⟨rfl, hmem, htb, hcause, rfl, rfl, hlog⟩

/-! ### Phase B -/

/-- A slot's record is verified against the security block alone. -/
theorem profOf_congr {s t : State} (h : t.sec = s.sec) (slot : Nat) : profOf t slot = profOf s slot := by
  rw [profOf, profOf, secCtr, secCtr, h]

/-- Without a profile kept, a reset activates the valid record of the slot the pins name, or none (R74). -/
theorem profBoot_none (s : State) (h : s.life.profile = none) :
    ∃ m, (profBoot s).life = { s.life with
      validMask := m, profile := profOf s s.life.sel, source := if (profOf s s.life.sel).isSome then 0 else 3,
      index := s.life.sel } := by
  simp only [profBoot, h, Option.isSome_none, Bool.false_eq_true, if_false]
  exact ⟨_, rfl⟩

/-- The life cycle at the start of phase B is that of the profile's choice. -/
theorem phaseB_cold_life (s : State) (sel modId : Nat) (h : s.life.phase = .waitPerst) :
    (phaseB s sel modId).life = (profBoot { s with
      life := { s.life with sel := sel % 4, modId := modId % 16, profile := none, phase := .up, groups := 0 },
      pcie := { s.pcie with wake := false, d3cold := false } }).life := by
  have hw : (s.life.phase == .waitB) = false := by rw [h]; rfl
  unfold phaseB
  simp only [hw, Bool.false_eq_true, if_false]
  refine ((((startAll_keeps _ _ _).trans (profShow_keeps _)).trans (pcieStart_keeps _)).life).trans ?_
  split
  · exact ((putR_keeps _ _ _ _).trans (codeRevs_keeps _)).trans (setStatus_keeps _ _ _ _) |>.life
  · exact ((putR_keeps _ _ _ _).trans (codeRevs_keeps _)).life

/-- Phase B after a reset that dropped the profile (R61, R72, R74). -/
theorem phaseB_cold (s : State) {sel modId : Nat} (h : s.life.phase = .waitPerst) (hsel : sel < 4) (hid : modId < 16) :
    (phaseB s sel modId).life.phase = .up ∧ (phaseB s sel modId).life.sel = sel ∧ (phaseB s sel modId).life.modId = modId ∧
      (phaseB s sel modId).life.profile = profOf s sel ∧
      (phaseB s sel modId).life.source = (if (profOf s sel).isSome then 0 else 3) ∧
      (phaseB s sel modId).life.index = sel := by
  obtain ⟨m, hm⟩ := profBoot_none { s with
      life := { s.life with sel := sel % 4, modId := modId % 16, profile := none, phase := .up, groups := 0 },
      pcie := { s.pcie with wake := false, d3cold := false } } rfl
  rw [phaseB_cold_life s sel modId h, hm]
  simp only [Nat.mod_eq_of_lt hsel, Nat.mod_eq_of_lt hid]
  rw [profOf_congr (s := s) (by rfl) sel]
  trivial

/-! ### The commands -/

theorem execPowerOnReset_off {s : State} (f : BootFact) (h : s.life.phase = .off) :
    execPowerOnReset f s = .next (powerOn s (if s.gong.trip then 6 else 1) f) := by
  simp only [execPowerOnReset, h, if_true]

theorem execPerstNAssert_up {s : State} (h : s.life.phase = .up) : execPerstNAssert s = .next (perstDo s) := by
  simp only [execPerstNAssert, h, decide_true, Bool.true_or, if_true]

theorem execPhaseBStart_waitPerst {s : State} (sel modId : Nat) (h : s.life.phase = .waitPerst) (hsec : s.life.secReady = true) :
    execPhaseBStart sel modId s = .next (phaseB s sel modId) := by
  simp only [execPhaseBStart, h, hsec, decide_true, Bool.true_or, Bool.and_true, if_true]

/-- Settles O11: power-on, PERST_N and the start of phase B. -/
theorem powerOnAndPerstResets : Obligations.PowerOnAndPerstResets := by
  unfold Obligations.PowerOnAndPerstResets
  refine ⟨?_, ?_, ?_⟩
  · intro s f hoff
    exact ⟨_, execPowerOnReset_off f hoff, powerOn_facts s _ f⟩
  · intro s hup
    exact ⟨_, execPerstNAssert_up hup, perstDo_facts s⟩
  · intro s sel modId hwait hsec hsel hid
    exact ⟨_, execPhaseBStart_waitPerst sel modId hwait hsec, phaseB_cold s hwait hsel hid⟩

end Sys2Proof.Machine
end

section
/-! PROOF. Bring-up: O13. -/
namespace Sys2Proof.Machine

/-! ### Block states -/

theorem pdReq_st (s : State) (n src : Nat) (room : Bool) (p : Nat) : (blk (pdReq s n src room) p).st = (blk s p).st := by
  unfold pdReq
  split
  · rfl
  · split
    · rfl
    · exact bump_st _ _ _ _

theorem domStart_st (hold : List Nat) (src n : Nat) (s : State) (p : Nat) :
    (blk (domStart hold src n s) p).st = (blk s p).st := by
  unfold domStart
  split
  · rfl
  · split
    · exact pdReq_st _ _ _ _ _
    · rfl

/-- Starting functions moves only blocks out of RESET (Table 03-5). -/
theorem startAll_st (s : State) (hold : List Nat) (src : Nat) {p : Nat} (h : (blk s p).st ≠ .reset) :
    (blk (startAll s hold src) p).st = (blk s p).st := by
  have hdom : (blk (forN 69 (domStart hold src) s) p).st = (blk s p).st :=
    forN_keeps (fun u => (blk u p).st = (blk s p).st) _ 69 (fun n _ u hu => (domStart_st hold src n u p).trans hu) rfl
  unfold startAll
  dsimp only
  refine List.foldlRecOn (motive := fun u => (blk u p).st = (blk s p).st) _ _ hdom (fun u hu q hq => ?_)
  have hreset : (blk (forN 69 (domStart hold src) s) q).st = .reset := by
    simp only [List.mem_filter, Bool.and_eq_true, beq_iff_eq] at hq
    exact hq.2.1.1
  have hne : p ≠ q := by
    rintro rfl
    exact h (hdom.symm.trans hreset)
  exact (setSt_st_ne u q .init p hne).trans hu

/-- PCI Express link training takes its two blocks to INIT, or leaves every header alone (R61). -/
theorem pcieStart_blks (s : State) :
    (pcieStart s).blks = s.blks ∨ (pcieStart s).blks = (setSt (setSt s 0x180 .init) 0x181 .init).blks := by
  unfold pcieStart
  split
  · split
    · right
      dsimp only
    · split
      · exact .inl (by simp)
      · exact .inl rfl
  · exact .inl rfl

theorem pcieStart_st (s : State) {p : Nat} (h0 : p ≠ 0x180) (h1 : p ≠ 0x181) : (blk (pcieStart s) p).st = (blk s p).st := by
  rcases pcieStart_blks s with h | h <;> rw [blk_congr h]
  rw [setSt_st_ne _ 0x181 .init p h1, setSt_st_ne _ 0x180 .init p h0]

theorem rstsDone_st (s : State) (p : Nat) : (blk (rstsDone s) p).st = (blk s p).st := by
  unfold rstsDone
  dsimp only
  split
  · rfl
  · exact setStatus_st _ _ _ _ _

/-- A function's own page goes to the state it is brought to, mates or none. -/
theorem bringTo_st (s : State) (p : Nat) (st : BlkSt) : (blk (bringTo s p st) p).st = st := by
  unfold bringTo
  refine List.foldlRecOn (motive := fun u => (blk u p).st = st) _ _ (setSt_st s p st) (fun u hu q _ => ?_)
  by_cases h : p = q
  · rw [← h, setSt_st]
  · exact (setSt_st_ne u q st p h).trans hu

/-- With nothing held, what follows a function's readiness keeps the life cycle, and every block that is out of RESET in
its state. -/
theorem afterReady_facts (s : State) (hold : List Nat) (hidle : heldIdle s = true) :
    (afterReady s hold).life = s.life ∧
      ∀ p, p ≠ 0x180 → p ≠ 0x181 → (blk s p).st ≠ .reset → (blk (afterReady s hold) p).st = (blk s p).st := by
  have hkeep : Keeps s (startAll (pcieStart (rstsDone s)) hold 0) :=
    ((rstsDone_keeps s).trans (pcieStart_keeps _)).trans (startAll_keeps _ _ _)
  obtain ⟨hlife, hblks, -⟩ := heldSettle_same (hkeep.heldIdle hidle)
  refine ⟨hlife.trans hkeep.life, fun p h0 h1 hst => ?_⟩
  have hbefore : (blk (pcieStart (rstsDone s)) p).st = (blk s p).st := (pcieStart_st _ h0 h1).trans (rstsDone_st s p)
  rw [afterReady, blk_congr hblks, startAll_st _ hold 0 (by rw [hbefore]; exact hst), hbefore]

/-- With nothing held, a failed function is FAILED. -/
theorem fnFail_st (s : State) (p : Nat) (hidle : heldIdle s = true) : (blk (fnFail s p) p).st = .failed := by
  obtain ⟨-, hblks, -⟩ := heldSettle_same ((bringTo_keeps s p .failed).heldIdle hidle)
  rw [fnFail, blk_congr hblks, bringTo_st]

/-- With nothing held, a block brought to RUN is in RUN when all that follows is done. -/
theorem afterReady_bringTo (s : State) (p : Nat) (hold : List Nat) (hidle : heldIdle s = true) (h0 : p ≠ 0x180) (h1 : p ≠ 0x181) :
    (blk (afterReady (bringTo s p .run) hold) p).st = .run ∧ (afterReady (bringTo s p .run) hold).life = s.life := by
  have hkeep := bringTo_keeps s p .run
  obtain ⟨hlife, hst⟩ := afterReady_facts (bringTo s p .run) hold (hkeep.heldIdle hidle)
  refine ⟨?_, hlife.trans hkeep.life⟩
  rw [hst p h0 h1 (by rw [bringTo_st]; decide), bringTo_st]

/-! ### Memory training (R423, R424) -/

/-- Writing a series of registers touches neither ports nor contexts. -/
theorem forN_putR_same (n : Nat) (p o : Nat → Nat) (w : Nat → Word) (s : State) :
    (forN n (fun k u => putR u (p k) (o k) (w k)) s).ports = s.ports ∧
      (forN n (fun k u => putR u (p k) (o k) (w k)) s).ctxs = s.ctxs :=
  forN_keeps (fun v : State => v.ports = s.ports ∧ v.ctxs = s.ctxs) (fun k u => putR u (p k) (o k) (w k)) n
    (fun _ _ v hv => by simpa using hv) ⟨rfl, rfl⟩

/-- Training leaves the ports and the contexts alone, and notes the quad's values as kept. -/
theorem quadTrained_facts (s : State) (q : Nat) (f : ReadyFact) :
    (quadTrained s q f).ports = s.ports ∧ (quadTrained s q f).ctxs = s.ctxs ∧ q ∈ (quadTrained s q f).life.trained := by
  unfold quadTrained
  dsimp only
  split <;> split <;> simp [forN_putR_same]

theorem quadTrained_heldIdle (s : State) (q : Nat) (f : ReadyFact) (hidle : heldIdle s = true) :
    heldIdle (quadTrained s q f) = true := by
  obtain ⟨hports, hctxs, -⟩ := quadTrained_facts s q f
  unfold heldIdle portQ at hidle ⊢
  rw [hports, hctxs]
  exact hidle

/-- A quad whose training passes is in RUN with its training values kept. -/
theorem quadReady_facts (s : State) (q : Nat) (f : ReadyFact) (hq : q < 4) (hidle : heldIdle s = true) :
    (blk (afterReady (bringTo (quadTrained s q f) (0x130 + q) .run) f.hold) (0x130 + q)).st = .run ∧
      q ∈ (afterReady (bringTo (quadTrained s q f) (0x130 + q) .run) f.hold).life.trained := by
  obtain ⟨hst, hlife⟩ := afterReady_bringTo (quadTrained s q f) (0x130 + q) f.hold (quadTrained_heldIdle s q f hidle)
    (by omega) (by omega)
  refine ⟨hst, ?_⟩
  rw [hlife]
  exact (quadTrained_facts s q f).2.2

/-! ### The commands -/

/-- The meaning of FUNCTION_READY. -/
theorem exec_functionReady (fn : Fn) (f : ReadyFact) (s : State) :
    exec (.functionReady fn f) s = .next (functionReady s fn f) := by
  rfl

/-- FUNCTION_READY of a page that is neither a memory quad nor PCI Express nor Gong. -/
theorem functionReady_page {s : State} {p : Nat} (f : ReadyFact) (hup : comingUp s p = true) (hon : pageOn s p = true)
    (hquad : ¬ (0x130 ≤ p ∧ p ≤ 0x133)) (hpcie : p ≠ 0x180) (hgong : p ≠ 0x1B0) :
    functionReady s (.page p) f = afterReady (bringTo s p .run) f.hold := by
  have hq : inR p 0x130 0x133 = false := by simpa [inR] using hquad
  simp only [functionReady, hup, hon, hq, hpcie, hgong, Bool.not_true, Bool.or_self, Bool.false_eq_true, if_false]

/-- FUNCTION_READY of a memory quad. -/
theorem functionReady_quad {s : State} {q : Nat} (f : ReadyFact) (hq : q < 4) (hup : comingUp s (0x130 + q) = true)
    (hon : pageOn s (0x130 + q) = true) :
    functionReady s (.page (0x130 + q)) f = if quadFails s q f then fnFail s (0x130 + q)
      else afterReady (bringTo (quadTrained s q f) (0x130 + q) .run) f.hold := by
  have hr : inR (0x130 + q) 0x130 0x133 = true := by simp [inR]; omega
  simp only [functionReady, hup, hon, hr, Bool.not_true, Bool.or_self, Bool.false_eq_true, if_false, if_true,
    Nat.add_sub_cancel_left]

/-- The management block is ready. -/
def mgmtUp (s : State) : State := { s with life := { s.life with mgtReady := true } }

/-- FUNCTION_READY of the management block. -/
theorem functionReady_mgmt {s : State} (f : ReadyFact) (hphase : s.life.phase = .up) (hsec : s.life.secReady = true)
    (hmgt : s.life.mgtReady = false) : functionReady s .mgmt f = afterReady (readyEdge (mgmtUp s) false true) f.hold := by
  simp [functionReady, hsec, hmgt, hphase, mgmtUp]

/-- READY_MAP bit 1 stays set through all that follows. -/
theorem afterReady_mgmt (s : State) (hold : List Nat) (hidle : heldIdle s = true) :
    (afterReady (readyEdge (mgmtUp s) false true) hold).life.mgtReady = true := by
  have hkeep : Keeps (mgmtUp s) (readyEdge (mgmtUp s) false true) := readyEdge_keeps _ _ _
  rw [(afterReady_facts _ hold (hkeep.heldIdle hidle)).1, hkeep.life, mgmtUp]

/-- BRINGUP_BOUND_EXPIRY of a block that is coming up. -/
theorem execBringupBoundExpiry_page {s : State} {p : Nat} (hup : comingUp s p = true) (hon : pageOn s p = true) :
    execBringupBoundExpiry (.page p) s = .next (fnFail s p) := by
  simp only [execBringupBoundExpiry, hup, hon, Bool.and_self, if_true]

/-- CORE_GROUP_POWER_ON with Carillon and Gong ready takes the next group. -/
theorem execCoreGroupPowerOn_next {s : State} (room : Bool) (hphase : s.life.phase = .up) (hgroups : s.life.groups < 12)
    (hcar : fnReady s 8 = true) (hgong : fnReady s 102 = true) :
    ∃ t, execCoreGroupPowerOn room s = .next t ∧ t.life.groups = s.life.groups + 1 := by
  have hcond : (s.life.phase != .up || decide (12 ≤ s.life.groups) || !fnReady s 8 || !fnReady s 102) = false := by
    simp [hphase, hcar, hgong, hgroups]
  simp only [execCoreGroupPowerOn, hcond, Bool.false_eq_true, if_false]
  exact ⟨_, rfl, rfl⟩

/-- With the reference clock there, a PCIe domain that is on and a function in RESET start link training (R61). -/
theorem pcieStart_trains {s : State} (href : s.life.refclk = true) (hphase : s.life.phase = .up)
    (hreset : (blk s 0x180).st = .reset) (hon : pdOn s 60 = true) :
    (pcieStart s).pcie.link = 1 ∧ (blk (pcieStart s) 0x180).st = .init := by
  have hblks : (pcieStart s).pcie.link = 1 ∧ (pcieStart s).blks = (setSt (setSt s 0x180 .init) 0x181 .init).blks := by
    simp only [pcieStart, href, hphase, hreset, hon, decide_true, Bool.and_self, if_true, and_self]
  rw [blk_congr hblks.2, setSt_st_ne _ _ _ _ (by decide), setSt_st]
  exact ⟨hblks.1, rfl⟩

/-- Settles O13, function by function. -/
theorem bringUp : Obligations.BringUp := by
  unfold Obligations.BringUp
  refine ⟨?_, ?_, ?_, ?_, ?_, ?_⟩
  · intro s p f hidle hup hon hquad hpcie hgong
    refine ⟨_, exec_functionReady (.page p) f s, ?_⟩
    rw [functionReady_page f hup hon hquad (fun h => hpcie (.inl h)) hgong]
    exact (afterReady_bringTo s p f.hold hidle (fun h => hpcie (.inl h)) (fun h => hpcie (.inr h))).1
  · intro s q f hq hidle hup hon
    refine ⟨_, exec_functionReady (.page (0x130 + q)) f s, fun hpass => ?_, fun hfail => ?_⟩
    · rw [functionReady_quad f hq hup hon, hpass, if_neg Bool.false_ne_true]
      exact quadReady_facts s q f hq hidle
    · rw [functionReady_quad f hq hup hon, hfail, if_pos rfl]
      exact fnFail_st s (0x130 + q) hidle
  · intro s f hidle hphase hsec hmgt
    refine ⟨_, exec_functionReady .mgmt f s, ?_⟩
    rw [functionReady_mgmt f hphase hsec hmgt]
    exact afterReady_mgmt s f.hold hidle
  · intro s p hidle hup hon
    exact ⟨fnFail s p, execBringupBoundExpiry_page hup hon, fnFail_st s p hidle⟩
  · intro s room hphase hgroups hcar hgong
    exact execCoreGroupPowerOn_next room hphase hgroups hcar hgong
  · intro s
    refine ⟨pcieStart { s with life := { s.life with refclk := true } }, rfl, ?_, fun hphase hreset hon => ?_⟩
    · rw [(pcieStart_keeps _).life]
    · exact pcieStart_trains (s := { s with life := { s.life with refclk := true } }) rfl hphase hreset hon

end Sys2Proof.Machine
end

section
/-! PROOF. Warm chip resets and partition resets: O12. -/
namespace Sys2Proof.Machine

/-! ### Warm chip resets (R58, R504, R505) -/

/-- The state in which a warm chip reset is decided: its time among the fleet's, and a reset without a request counted. -/
def warmNoted (s : State) (cause : Nat) : State :=
  let s := { s with toc := { s.toc with fleet := (now s :: s.toc.fleet).take 15 } }
  if cause = 4 || cause = 8 then bump s 0x1A0 4 else s

/-- In service, outside a low event, with a valid image and FLEET_EN 0, a warm chip reset is carried out. -/
theorem warmDecide_free {s : State} (cause rcause : Nat) (h : warmFree s = true) :
    warmDecide s cause rcause = warmDo (warmNoted s cause) cause rcause := by
  simp only [warmFree, Bool.and_eq_true, Bool.not_eq_true'] at h
  obtain ⟨⟨⟨hoos, hlow⟩, himg⟩, hfleet⟩ := h
  simp only [warmDecide, hoos, hlow, himg, hfleet, Bool.false_and, Bool.false_eq_true, if_false, warmNoted]

/-- The log record and the count with which a warm chip reset begins (R511). -/
def warmLogged (s : State) (rcause : Nat) : State := bump (resetLog s 4 rcause 0 0) 0x004 0

/-- What a warm chip reset keeps (R57, R58, R504, R505). -/
def warmLeft (s : State) : State :=
  { pending := s.pending, part := s.part, tb := s.tb,
    regs := s.regs.filter (fun q => warmKeeps q.1), rvs := s.rvs.filter (fun q => warmKeeps q.1),
    blks := s.blks.filter (fun q => warmKeeps (rkey q.1 0)),
    life := { s.life with phase := .waitB, switchTo := none, groups := 0 },
    mem := s.mem.filter (fun c => c.1 < 0x000E00000000), pcieMem := s.pcieMem, ecc := s.ecc,
    keys := s.keys,
    toc := { log := s.toc.log, fleet := s.toc.fleet, oos := s.toc.oos,
             rsts := [{ level := 4, page := 0, parts := 0, start := now s,
                        wasReady := (List.range 103).filter (fnReady s) }] },
    gong := { flashLog := s.gong.flashLog, trip := s.gong.trip, rail := s.gong.rail, stopCause := s.gong.stopCause },
    sec := secWarm s.sec, out := s.out, free := s.free,
    pcie := { wake := s.pcie.wake } }

/-- What a warm chip reset shows of what it left: the domains that stay on, the functions that are READY no longer, the
reset in progress, and RESET_CAUSE with TRAINING_KEPT. -/
def warmShown (t : State) (n : Nat) (last cause : Word) : State :=
  let t := switchStop (setPd (setPd (setPd t 69 2 0) 70 2 0) 71 2 0)
  let t := bumpN t 0x001 1 n
  let t := setStatus (setStatus t 0x001 8 false) 0x1A0 9 true
  putR (putR t 0x1A0 0x124 last) 0x004 0x100 cause

theorem warmDo_eq (s : State) (cause rcause : Nat) :
    ∃ n last, warmDo s cause rcause = warmShown (warmLeft (warmLogged s rcause)) n last (word (0x100 ||| cause)) :=
  ⟨_, _, rfl⟩

@[simp] theorem warmShown_same (t : State) (n : Nat) (last cause : Word) :
    (warmShown t n last cause).life = t.life ∧ (warmShown t n last cause).tb = t.tb ∧
      (warmShown t n last cause).mem = t.mem ∧ (warmShown t n last cause).ctxs = t.ctxs ∧
      (warmShown t n last cause).stms = t.stms ∧ (warmShown t n last cause).pending = t.pending := by
  simp [warmShown, switchStop]

/-- Showing a warm chip reset changes no header but those of pages 0x001, 0x002 and 0x1A0. -/
theorem warmShown_blk (t : State) (n : Nat) (last cause : Word) {p : Nat} (h : p ∉ [0x001, 0x002, 0x180, 0x1A0]) :
    blk (warmShown t n last cause) p = blk t p := by
  simp only [List.mem_cons, List.not_mem_nil, or_false, not_or] at h
  obtain ⟨h1, h2, h180, h1a0⟩ := h
  simp only [warmShown, blk_putR, setStatus_blk_ne _ _ _ h1a0 h180, setStatus_blk_ne _ _ _ h1 h180,
    bumpN_blk_ne _ _ _ h1 h180, switchStop, setStatus_blk_ne _ _ _ h2 h180]
  rfl

@[simp] theorem warmLogged_same (s : State) (rcause : Nat) :
    (warmLogged s rcause).life = s.life ∧ (warmLogged s rcause).tb = s.tb ∧ (warmLogged s rcause).mem = s.mem ∧
      (warmLogged s rcause).pending = s.pending := by
  simp [warmLogged, resetLog]

theorem warmLogged_blk (s : State) (rcause : Nat) {p : Nat} (h : p ∉ [0x004, 0x180, 0x1A0]) :
    blk (warmLogged s rcause) p = blk s p := by
  simp only [List.mem_cons, List.not_mem_nil, or_false, not_or] at h
  obtain ⟨h4, h180, h1a0⟩ := h
  simp only [warmLogged, bump_blk_ne _ _ _ _ h4 h180, resetLog, blk_putR, logRec_blk_ne _ _ _ _ _ _ _ _ _ h1a0 h180]

@[simp] theorem warmNoted_same (s : State) (cause : Nat) :
    (warmNoted s cause).life = s.life ∧ (warmNoted s cause).tb = s.tb ∧ (warmNoted s cause).mem = s.mem ∧
      (warmNoted s cause).pending = s.pending := by
  unfold warmNoted
  dsimp only
  split <;> simp

theorem warmNoted_blk (s : State) (cause : Nat) {p : Nat} (h : p ∉ [0x180, 0x1A0]) : blk (warmNoted s cause) p = blk s p := by
  simp only [List.mem_cons, List.not_mem_nil, or_false, not_or] at h
  unfold warmNoted
  dsimp only
  split
  · rw [bump_blk_ne _ _ _ _ h.2 h.1]; rfl
  · rfl

/-- The header of a page of the management domain outlasts a warm chip reset. -/
theorem warmLeft_blk (s : State) {p : Nat} (h : p ≤ 0x00F) : blk (warmLeft s) p = blk s p := by
  have hkeep : warmKeeps (rkey p 0) = true := by
    simp [warmKeeps, rkey, h]
  change tgetD (s.blks.filter (fun q => warmKeeps (rkey q.1 0))) p {} = tgetD s.blks p {}
  rw [tgetD, tgetD, tget_filter s.blks (fun k => warmKeeps (rkey k 0)), if_pos hkeep]

/-- What a warm chip reset leaves (R57, R58, R500, R504). -/
theorem warmDo_facts (s : State) (cause rcause : Nat) :
    (warmDo s cause rcause).life.phase = .waitB ∧ (warmDo s cause rcause).tb = s.tb ∧
      (warmDo s cause rcause).life.profile = s.life.profile ∧ (warmDo s cause rcause).life.trained = s.life.trained ∧
      tgetD (warmDo s cause rcause).regs (rkey 0x004 0x100) 0 = word (0x100 ||| cause) ∧
      (warmDo s cause rcause).ctxs = [] ∧ (warmDo s cause rcause).stms = [] ∧
      (warmDo s cause rcause).pending = s.pending ∧
      ∀ a, memRd (warmDo s cause rcause).mem a = if a < 0x000E00000000 then memRd s.mem a else 0 := by
  obtain ⟨n, last, h⟩ := warmDo_eq s cause rcause
  have hmem : ∀ a, memRd (s.mem.filter (fun c => decide (c.1 < 0x000E00000000))) a =
      if a < 0x000E00000000 then memRd s.mem a else 0 := by
    intro a
    rw [memRd_filter s.mem (fun k => decide (k < 0x000E00000000)) a]
    simp
  have hcause : tgetD (warmDo s cause rcause).regs (rkey 0x004 0x100) 0 = word (0x100 ||| cause) := by
    rw [h, warmShown, putR, tgetD_tset]
  refine ⟨?_, ?_, ?_, ?_, hcause, ?_, ?_, ?_, fun a => (Eq.trans ?_ (hmem a))⟩ <;> simp [h, warmLeft]

/-- The header of a page of the management domain that counts no reset is as it was. -/
theorem warmDo_blk (s : State) (cause rcause : Nat) {p : Nat} (hp : p ≤ 0x00F) (h : p ∉ [0x001, 0x002, 0x004]) :
    blk (warmDo s cause rcause) p = blk s p := by
  obtain ⟨n, last, e⟩ := warmDo_eq s cause rcause
  simp only [List.mem_cons, List.not_mem_nil, or_false, not_or] at h
  rw [e, warmShown_blk _ _ _ _ (by simp; omega), warmLeft_blk _ hp, warmLogged_blk _ _ (by simp; omega)]

/-- A count of page 0x003 leaves what decides a reset as it was. -/
theorem warmFree_bump (s : State) (p n : Nat) : warmFree (bump s p n) = warmFree s := by
  have hlow : lowEvent (bump s p n) = lowEvent s := by
    unfold lowEvent gongState
    rw [bump_getR _ _ _ _ _ (by decide) (by decide)]
    simp
  simp [warmFree, hlow, fleetEn, profF]

/-- The state in which a loss of lock resets the chip: the loss counted, and the excursion (R55). -/
def lockLost (s : State) (excursion : Bool) : State :=
  if excursion then bump (bump s 0x003 0) 0x003 1 else bump s 0x003 0

theorem lockLost_facts (s : State) (e : Bool) :
    (lockLost s e).life = s.life ∧ (lockLost s e).tb = s.tb ∧ warmFree (lockLost s e) = warmFree s ∧
      tgetD (blk (lockLost s e) 0x003).cnt 0 0 = satInc (tgetD (blk s 0x003).cnt 0 0) := by
  unfold lockLost
  split
  · rw [warmFree_bump, warmFree_bump, bump_cnt_other _ (by decide) (by decide), bump_cnt _ _ _ (by decide)]
    simp
  · rw [warmFree_bump, bump_cnt _ _ _ (by decide)]
    simp

theorem execResetReqWarmChip_free {s : State} {m : Master} (hr : reaches s m 0x004 0x104 = true) (h : warmFree s = true) :
    execResetReqWarmChip m s = .next (warmDo (warmNoted s 3) 3 6) := by
  have hoos : s.toc.oos = false := by
    simp only [warmFree, Bool.and_eq_true, Bool.not_eq_true'] at h
    exact h.1.1.1
  simp only [execResetReqWarmChip, guarded_reaches _ _ _ _ _ hr, reqWarm, hoos, Bool.false_eq_true, if_false,
    warmDecide_free 3 6 h]

theorem execRootLockLoss_free {s : State} (e : Bool)
    (hphase : s.life.phase = .up ∨ s.life.phase = .waitPerst ∨ s.life.phase = .waitB) (h : warmFree s = true) :
    execRootLockLoss e s = .next (warmDo (warmNoted (lockLost s e) 8) 8 7) := by
  have hon : (decide (s.life.phase = .off) || decide (s.life.phase = .railOff) || decide (s.life.phase = .tripped)) = false := by
    rcases hphase with h | h | h <;> rw [h] <;> rfl
  rw [← warmDecide_free 8 7 ((lockLost_facts s e).2.2.1.trans h)]
  simp only [execRootLockLoss, hon, Bool.false_eq_true, if_false]
  cases e <;> rfl

/-! ### Partition resets (R58, R500-R502) -/

/-- A core's scratchpad is zeroed when its partition is among those that reset. -/
def scrubCore (parts c : Nat) (s : State) : State :=
  if parts.testBit (c / 12) then
    { s with mem := memZero s.mem (scratchAddr c 0) 0x400000, cores := tdel s.cores c }
  else s

/-- A byte that reads 0 still does when a core is scrubbed. -/
theorem scrubCore_zero (parts c : Nat) (s : State) {a : Nat} (h : memRd s.mem a = 0) : memRd (scrubCore parts c s).mem a = 0 := by
  unfold scrubCore
  split
  · simp only [memRd_memZero, h, ite_self]
  · exact h

/-- Every byte of a scrubbed core's scratchpad reads 0. -/
theorem scrubCore_own {parts c o : Nat} (s : State) (ho : o < 0x400000) (hc : parts.testBit (c / 12) = true) :
    memRd (scrubCore parts c s).mem (scratchAddr c o) = 0 := by
  rw [scrubCore, if_pos hc]
  simp only [memRd_memZero, scratchAddr]
  rw [if_neg (by omega)]

/-- Scrubbing core after core leaves every byte of the partitions' scratchpads 0. -/
theorem scrubCores_zero {parts c o : Nat} (n : Nat) (s : State) (hc : c < n) (ho : o < 0x400000)
    (hp : parts.testBit (c / 12) = true) : memRd (forN n (scrubCore parts) s).mem (scratchAddr c o) = 0 := by
  induction n with
  | zero => omega
  | succ n ih =>
    by_cases h : c = n
    · subst h
      exact scrubCore_own _ ho hp
    · exact scrubCore_zero parts n _ (ih (by omega))

theorem scrubCore_keeps (parts c : Nat) (s : State) : Keeps s (scrubCore parts c s) := by
  unfold scrubCore
  split
  · exact .of_eq ⟨rfl, rfl, rfl, rfl⟩
  · exact .refl s

/-- The pages of the units of partitions. -/
def partsPages (s : State) (parts : Nat) : List Nat :=
  allPages.filter (fun p => pagePresent s p && (match pagePart p with
    | some q => parts.testBit q
    | none => false))

/-- No encoder lies in a partition. -/
theorem not_encoder_of_mem_partsPages {s : State} {parts p : Nat} (h : p ∈ partsPages s parts) : p ≠ 0x120 ∧ p ≠ 0x121 := by
  simp only [partsPages, List.mem_filter, Bool.and_eq_true] at h
  obtain ⟨-, -, hp⟩ := h
  constructor <;> rintro rfl <;> cases hp

/-- The partitions' units reset: their contexts killed, their work dropped and their headers reset. -/
def partsDown (s : State) (parts cause : Nat) : State :=
  let pages := partsPages s parts
  let was := pages.filter (fun p => ready s p)
  let s := resetLog s 3 cause parts 0
  let s := { s with toc := { s.toc with rsts := { level := 3, page := 0, parts := parts, start := now s, wasReady := was } ::
    s.toc.rsts } }
  let s := (ctxsOn s (fun c => parts.testBit (c / 12))).foldl killQuiet s
  let s := pages.foldl (fun s p => unitWork s p) s
  pages.foldl (fun s p => pageReset s p (if pageOn s p && needsMet s p then .init else .reset)) s

theorem partsDown_keeps (s : State) (parts cause : Nat) : Keeps s (partsDown s parts cause) := by
  unfold partsDown
  dsimp only
  refine .trans ?_ (.foldl _ _ (fun u p _ => pageReset_keeps u p _) _)
  refine .trans ?_ (.foldl _ _ (fun u p hp => unitWork_keeps u (not_encoder_of_mem_partsPages hp)) _)
  refine .trans ?_ (.foldl _ _ (fun u n _ => killQuiet_keeps u n) _)
  exact (resetLog_keeps s 3 cause parts 0).trans (.of_eq ⟨rfl, rfl, rfl, rfl⟩)

/-- The times of the resets, and what counts and shows them. -/
def partsNoted (s : State) (parts : Nat) : State :=
  let s := { s with toc := { s.toc with hist3 := (List.range 4).foldl (fun h q =>
    if parts.testBit q then tmodD h q [] (fun l => now s :: l.take 3) else h) s.toc.hist3 } }
  bump (setStatus (bump s 0x1A0 3) 0x1A0 9 true) 0x004 1

theorem partitionDo_eq (s : State) (parts cause : Nat) :
    partitionDo s parts cause = partsNoted (forN 48 (scrubCore parts) (partsDown s parts cause)) parts := rfl

theorem partsNoted_same (s : State) (parts : Nat) : (partsNoted s parts).mem = s.mem ∧ (partsNoted s parts).life = s.life := by
  simp [partsNoted]

/-- A partition reset leaves the life cycle, and every byte of its cores' scratchpads 0. -/
theorem partitionDo_facts (s : State) (parts cause : Nat) :
    (partitionDo s parts cause).life = s.life ∧
      ∀ c o, c < 48 → o < 0x400000 → parts.testBit (c / 12) = true →
        memRd (partitionDo s parts cause).mem (scratchAddr c o) = 0 := by
  have hkeep : Keeps s (forN 48 (scrubCore parts) (partsDown s parts cause)) :=
    (partsDown_keeps s parts cause).trans (.forN _ 48 (fun c _ u => scrubCore_keeps parts c u) _)
  obtain ⟨hmem, hlife⟩ := partsNoted_same (forN 48 (scrubCore parts) (partsDown s parts cause)) parts
  rw [partitionDo_eq, hlife, hmem]
  exact ⟨hkeep.life, fun c o hc ho hp => scrubCores_zero 48 _ hc ho hp⟩

theorem execResetReqPartition_free {s : State} {m : Master} {parts : Nat} (hlt : parts < 16) (hne : parts ≠ 0)
    (hr : reaches s m 0x004 0x104 = true) (hoos : s.toc.oos = false) (hlow : lowEvent s = false)
    (hfew : ∀ q, q < 4 → parts.testBit q = true →
      (recentTimes s (tgetD s.toc.hist3 q []) (60 * Config.tSec)).length < 2) :
    execResetReqPartition m parts s = .next (partitionDo s parts 6) := by
  have hany : (List.range 4).any (fun q => parts.testBit q &&
      decide (2 ≤ (recentTimes s (tgetD s.toc.hist3 q []) (60 * Config.tSec)).length)) = false := by
    simp only [List.any_eq_false, List.mem_range, Bool.and_eq_true, decide_eq_true_eq, not_and, Nat.not_le]
    exact hfew
  simp only [execResetReqPartition, guarded_reaches _ _ _ _ _ hr, reqPart, Nat.mod_eq_of_lt hlt, hoos, hne, decide_false,
    Bool.or_self, Bool.false_eq_true, if_false, partDecide, hlow, hany]

/-- Settles O12: the two ways to a warm chip reset, and the partition reset. -/
theorem warmAndPartitionResets : Obligations.WarmAndPartitionResets := by
  unfold Obligations.WarmAndPartitionResets
  refine ⟨?_, ?_, ?_⟩
  · intro s m hr hfree
    obtain ⟨hphase, htb, hprof, htrain, hcause, hctxs, hstms, hpend, hmem⟩ := warmDo_facts (warmNoted s 3) 3 6
    obtain ⟨hlife, htb', hmem', hpend'⟩ := warmNoted_same s 3
    rw [htb'] at htb
    rw [hlife] at hprof htrain
    rw [hpend'] at hpend
    rw [hmem'] at hmem
    exact ⟨_, execResetReqWarmChip_free hr hfree, hphase, htb, hprof, htrain, hcause, hctxs, hstms, hpend, hmem⟩
  · intro s e hup hfree
    obtain ⟨hphase, htb, hprof, -, hcause, hctxs, -⟩ := warmDo_facts (warmNoted (lockLost s e) 8) 8 7
    obtain ⟨hlife, htb', -⟩ := warmNoted_same (lockLost s e) 8
    obtain ⟨hlost, htbLost, -, hcnt⟩ := lockLost_facts s e
    rw [htb', htbLost] at htb
    rw [hlife, hlost] at hprof
    refine ⟨_, execRootLockLoss_free e hup hfree, hphase, htb, hprof, hcause, hctxs, ?_⟩
    rw [warmDo_blk _ _ _ (by decide) (by decide), warmNoted_blk _ _ (by decide), hcnt]
  · intro s m parts hlt hne hr hoos hlow hfew
    obtain ⟨hlife, hmem⟩ := partitionDo_facts s parts 6
    exact ⟨_, execResetReqPartition_free hlt hne hr hoos hlow hfew, by rw [hlife], hmem⟩

end Sys2Proof.Machine
end

section
/-! PROOF. Profile switches: O16. -/
namespace Sys2Proof.Machine

/-! ### PROFILE_SWITCH (R75, R76) -/

/-- The state in which a switch's record is checked: GO's TARGET written, the slot verified. -/
def goVerified (s : State) (target : Nat) : State := (profVerify (putRV s 0x002 0x104 (word target)) target).1

/-- Verifying the record touches VALID_MASK of the life cycle alone, and the verdict is that of the slot. -/
theorem goVerified_facts (s : State) (target : Nat) :
    (goVerified s target).life.profile = s.life.profile ∧ (goVerified s target).life.switchTo = s.life.switchTo ∧
      (profVerify (putRV s 0x002 0x104 (word target)) target).2 = profOf s target :=
  ⟨rfl, rfl, profOf_congr rfl target⟩

/-- Table 03-9 is checked against the load, and not against VALID_MASK or TARGET. -/
theorem switchCheck_goVerified (s : State) (target : Nat) (r : List Byte) :
    switchCheck (goVerified s target) r = switchCheck s r := by
  have hgong : gongState (goVerified s target) = gongState s := by
    unfold gongState
    exact congrArg (fun w => bits w 31 28) (getR_putRV_ne s (p := 0x002) (o := 0x104) (word target) (by decide))
  unfold switchCheck
  rw [hgong]
  rfl

/-- A GO during a switch is refused (RESULT 6). -/
theorem switchGo_busy (s : State) (target : Nat) (h : s.life.switchTo.isSome = true) :
    switchGo s target =
      bump (putR (putRV s 0x002 0x104 (word target)) 0x002 0x108 (word (target <<< 16 ||| 6 <<< 8 ||| 3))) 0x002 1 :=
  if_pos h

/-- A GO to a slot without a valid record is refused (RESULT 2). -/
theorem switchGo_invalid (s : State) (target : Nat) (h : s.life.switchTo = none) (hp : profOf s target = none) :
    switchGo s target = bump (profStatus (goVerified s target) target 2 0) 0x002 1 := by
  have hfree : (putRV s 0x002 0x104 (word target)).life.switchTo.isSome = false := by simp [h]
  simp only [switchGo, hfree, Bool.false_eq_true, if_false, (goVerified_facts s target).2.2, hp]
  rfl

/-- A GO that fails Table 03-9 is refused with the code of the first failed check. -/
theorem switchGo_refused (s : State) (target : Nat) {r : List Byte} (h : s.life.switchTo = none)
    (hp : profOf s target = some r) (hc : switchCheck s r ≠ 1) :
    switchGo s target = bump (profStatus (goVerified s target) target (switchCheck s r) 0) 0x002 1 := by
  have hfree : (putRV s 0x002 0x104 (word target)).life.switchTo.isSome = false := by simp [h]
  have hbad : (switchCheck (goVerified s target) r != 1) = true := by
    rw [switchCheck_goVerified]; simpa using hc
  simp only [switchGo, hfree, Bool.false_eq_true, if_false, (goVerified_facts s target).2.2, hp]
  rw [goVerified] at hbad
  rw [if_pos hbad, ← goVerified, switchCheck_goVerified]

/-- The switch awaits its boundary. -/
def goWaits (s : State) (r : List Byte) : State := { s with life := { s.life with switchTo := some r, switchAt := now s } }

/-- A GO that passes Table 03-9 awaits the boundary from now on (R76). -/
theorem switchGo_waits (s : State) (target : Nat) {r : List Byte} (h : s.life.switchTo = none)
    (hp : profOf s target = some r) (hc : switchCheck s r = 1) :
    ∃ k, switchGo s target = engsShow (switchEvict (profStatus (goWaits (goVerified s target) r) target k 3) r) := by
  have hfree : (putRV s 0x002 0x104 (word target)).life.switchTo.isSome = false := by simp [h]
  have hgood : ¬ (switchCheck (goVerified s target) r != 1) = true := by
    rw [switchCheck_goVerified, hc]; decide
  simp only [switchGo, hfree, Bool.false_eq_true, if_false, (goVerified_facts s target).2.2, hp]
  rw [goVerified] at hgood
  rw [if_neg hgood]
  exact ⟨_, rfl⟩

/-- PROFILE_STATUS shows TARGET, RESULT and STATE. -/
theorem profStatus_word (s : State) (target result st : Nat) :
    tgetD (profStatus s target result st).regs (rkey 0x002 0x108) 0 = word (target <<< 16 ||| result <<< 8 ||| st) := by
  rw [profStatus, (setStatus_pbaOnly _ _ _ _).word 0x002 (by decide) (by decide), putR, tgetD_tset]

/-- What GO leaves while a switch is in progress. -/
theorem switchGo_busy_facts (s : State) (target : Nat) (h : s.life.switchTo.isSome = true) :
    tgetD (switchGo s target).regs (rkey 0x002 0x108) 0 = word (target <<< 16 ||| 6 <<< 8 ||| 3) ∧
      (switchGo s target).life = s.life ∧
      tgetD (blk (switchGo s target) 0x002).cnt 1 0 = satInc (tgetD (blk s 0x002).cnt 1 0) := by
  rw [switchGo_busy s target h, (bump_pbaOnly _ _ _).word 0x002 (by decide) (by decide), bump_cnt _ _ _ (by decide), putR,
    tgetD_tset]
  exact ⟨rfl, by simp, rfl⟩

/-- What GO leaves where the slot has no valid record. -/
theorem switchGo_invalid_facts (s : State) (target : Nat) (h : s.life.switchTo = none) (hp : profOf s target = none) :
    tgetD (switchGo s target).regs (rkey 0x002 0x108) 0 = word (target <<< 16 ||| 2 <<< 8) ∧
      (switchGo s target).life = (goVerified s target).life := by
  rw [switchGo_invalid s target h hp, (bump_pbaOnly _ _ _).word 0x002 (by decide) (by decide), profStatus_word, Nat.or_zero]
  exact ⟨rfl, ((profStatus_keeps _ _ _ _).trans (bump_keeps _ _ _)).life⟩

/-- What GO leaves where a check of Table 03-9 fails. -/
theorem switchGo_refused_life (s : State) (target : Nat) {r : List Byte} (h : s.life.switchTo = none)
    (hp : profOf s target = some r) (hc : switchCheck s r ≠ 1) : (switchGo s target).life = (goVerified s target).life := by
  rw [switchGo_refused s target h hp hc]
  exact ((profStatus_keeps _ _ _ _).trans (bump_keeps _ _ _)).life

/-- What GO leaves where every check passes. -/
theorem switchGo_waits_life (s : State) (target : Nat) {r : List Byte} (h : s.life.switchTo = none)
    (hp : profOf s target = some r) (hc : switchCheck s r = 1) :
    (switchGo s target).life = (goWaits (goVerified s target) r).life := by
  obtain ⟨k, e⟩ := switchGo_waits s target h hp hc
  rw [e]
  exact (((profStatus_keeps _ _ _ _).trans (switchEvict_keeps _ _)).trans (engsShow_keeps _)).life

/-- GO never changes the active profile. -/
theorem switchGo_profile (s : State) (target : Nat) : (switchGo s target).life.profile = s.life.profile := by
  cases h : s.life.switchTo with
  | some r => rw [(switchGo_busy_facts s target (by rw [h]; rfl)).2.1]
  | none =>
    cases hp : profOf s target with
    | none => rw [(switchGo_invalid_facts s target h hp).2]; rfl
    | some r =>
      by_cases hc : switchCheck s r = 1
      · rw [switchGo_waits_life s target h hp hc]; rfl
      · rw [switchGo_refused_life s target h hp hc]; rfl

theorem execProfileSwitch_reaches {s : State} {m : Master} {target : Nat} (hlt : target < 4)
    (hr : reaches s m 0x002 0x104 = true) : execProfileSwitch m target s = .next (switchGo s target) := by
  simp only [execProfileSwitch, guarded_reaches _ _ _ _ _ hr, Nat.mod_eq_of_lt hlt]

/-! ### PROFILE_SWITCH_DECODER_ABANDON (R76) -/

@[simp] theorem setDec_same (s : State) (d : Nat) (x : Dec) :
    (setDec s d x).decs = tset s.decs d x ∧ (setDec s d x).stms = s.stms := by
  simp [setDec]

theorem blk_updStm (s : State) (n : Nat) (f : Stm → Stm) (p : Nat) : blk (updStm s n f) p = blk s p := rfl

/-- A frame put back uninterrupted stands at the head of its stream's queue as it was (R127). -/
theorem decRequeue_facts (s : State) (d : Nat) {j : Job} (hj : (dec s d).job = some j) :
    (dec (decRequeue s d false) d).job = none ∧
      (stm (decRequeue s d false) j.stm).queue = j.au :: (stm s j.stm).queue ∧
      (stm (decRequeue s d false) j.stm).dec = none ∧
      ∀ p, p < 0x100 → blk (decRequeue s d false) p = blk s p := by
  have hblk : ∀ p, p < 0x100 → ∀ x, blk (setDec s d x) p = blk s p := fun p hp x => by
    rw [setDec, setStatus_blk_ne _ _ _ (by omega) (by omega)]
    rfl
  simp only [decRequeue, hj]
  exact ⟨by simp [dec, updStm, setStm], by simp [stm, updStm, setStm, b2n], by simp [stm, updStm, setStm],
    fun p hp => (blk_updStm _ _ _ p).trans (hblk p hp _)⟩

theorem execProfileSwitchDecoderAbandon_late {s : State} {d : Nat} {r : List Byte} {j : Job}
    (hsw : s.life.switchTo = some r) (hj : (dec s d).job = some j) (hoff : (byteAt r 0x103).testBit (d / 8) = false)
    (hage : s.life.switchAt + 45 * Config.tMs ≤ now s) :
    execProfileSwitchDecoderAbandon d s =
      .next (bump (updStm (decRequeue s d false) j.stm (fun x => { x with moveWait := true })) 0x002 2) := by
  simp only [execProfileSwitchDecoderAbandon, hsw, hj, hoff, Nat.not_lt.mpr hage, decide_false, Bool.or_self,
    Bool.false_eq_true, if_false]

/-! ### PROFILE_SWITCH_APPLY (R77) -/

theorem profShow_pbaOnly (s : State) : PbaOnly s (profShow s) := (setStatus_pbaOnly s _ _ _).trans (setStatus_pbaOnly _ _ _ _)

theorem engStatus_pbaOnly (s : State) (c e : Nat) : PbaOnly s (engStatus s c e) :=
  ((setStatus_pbaOnly s _ _ _).trans (setStatus_pbaOnly _ _ _ _)).trans (setStatus_pbaOnly _ _ _ _)

theorem engsShow_pbaOnly (s : State) : PbaOnly s (engsShow s) :=
  List.foldlRecOn (motive := PbaOnly s) _ _ (.of_regs rfl) (fun u hu c _ =>
    hu.trans (forN_keeps (PbaOnly u) (fun e v => engStatus v c e) 4
      (fun e _ v hv => hv.trans (engStatus_pbaOnly v c e)) (.of_regs rfl)))

/-- The record is the active profile, and nothing is held for any target; no time has passed. -/
structure Applied (s : State) (r : List Byte) (t : State) : Prop where
  profile : t.life.profile = some r
  source : t.life.source = 1
  ended : t.life.switchTo = none
  now : Machine.now t = Machine.now s
  idle : heldIdle t = true

theorem Applied.keeps {s t u : State} {r : List Byte} (h : Applied s r t) (k : Keeps t u) : Applied s r u :=
  ⟨k.life ▸ h.profile, k.life ▸ h.source, k.life ▸ h.ended, k.now.trans h.now, k.heldIdle h.idle⟩

/-- CLK_ENG's divider follows the profile. -/
def divSet (s : State) (div : Nat) : State :=
  if engDiv s = div then s else bump (putR s 0x003 0x100 (setBits (getR s 0x003 0x100) 15 8 div)) 0x003 2

theorem divSet_keeps (s : State) (div : Nat) : Keeps s (divSet s div) := by
  unfold divSet
  split
  · exact .refl s
  · exact (putR_keeps s _ _ _).trans (bump_keeps _ _ _)

/-- The domains of the partitions that the profile disables go off. -/
def partsOff (s : State) (was mask : Nat) : State :=
  forN 4 (fun q s => if was.testBit q && !mask.testBit q then
      (partDomains q).foldl (fun s n => if pdState s n = 0 then s else bump (domainOff s n 1) 0x1B1 1) s
    else s) s

theorem partsOff_keeps (s : State) (was mask : Nat) : Keeps s (partsOff s was mask) := by
  refine .forN _ 4 (fun q hq u => ?_) s
  split
  · refine .foldl _ _ (fun v n hn => ?_) u
    split
    · exact .refl v
    · exact (domainOff_keeps v 1 (partDomains_no_encoder hq hn)).trans (bump_keeps _ _ _)
  · exact .refl u

/-- The functions of the partitions that the profile enables start. -/
def partsOn (s : State) (was mask : Nat) : State :=
  if s.toc.oos || mask &&& was = mask then s else startAll { s with life := { s.life with groups := 0 } } [] 1

theorem Applied.partsOn {s t : State} {r : List Byte} (h : Applied s r t) (was mask : Nat) : Applied s r (partsOn t was mask) := by
  unfold Machine.partsOn
  split
  · exact h
  · have hgroups : Applied s r { t with life := { t.life with groups := 0 } } := ⟨h.profile, h.source, h.ended, h.now, h.idle⟩
    exact hgroups.keeps (startAll_keeps _ _ _)

/-- The record becomes active, and the cap follows it. -/
def switchActive (s : State) (r : List Byte) : State :=
  capShow { s with life := { s.life with
    profile := some r, source := 1, index := bits (getR s 0x002 0x108) 17 16, switchTo := none } }

theorem switchActive_applied (s : State) (r : List Byte) (hidle : heldIdle s = true) : Applied s r (switchActive s r) :=
  Applied.keeps (t := { s with life := { s.life with
    profile := some r, source := 1, index := bits (getR s 0x002 0x108) 17 16, switchTo := none } })
    ⟨rfl, rfl, rfl, rfl, hidle⟩ (capShow_keeps _)

/-- Frames waiting at a scaler cluster that goes off move to another. -/
def framesMoved (s : State) (mask : Nat) : State :=
  { s with sframes := s.sframes.map (fun f => if mask.testBit f.cluster then f else { f with cluster := firstPart mask }) }

/-- No stream waits for the switch's move any longer. -/
def movesDone (s : State) : State :=
  { s with stms := s.stms.map (fun (q : Nat × Stm) => (q.1, { q.2 with moveWait := false })) }

/-- R77 up to its note of the time: the record active, clocks, scalers, domains and streams following it. -/
def switchMoved (s : State) (r : List Byte) : State :=
  partsOn (movesDone (partsOff (framesMoved (divSet (switchActive s r) (byteAt r 0x102)) (byteAt r 0x103)) (partMask s)
    (byteAt r 0x103))) (partMask s) (byteAt r 0x103)

theorem switchMoved_applied (s : State) (r : List Byte) (hidle : heldIdle s = true) : Applied s r (switchMoved s r) := by
  refine Applied.partsOn ?_ _ _
  refine Applied.keeps ?_ (.of_eq (s := partsOff _ _ _) ⟨rfl, rfl, rfl, rfl⟩)
  refine Applied.keeps ?_ (partsOff_keeps _ _ _)
  refine Applied.keeps ?_ (.of_eq (s := divSet _ _) ⟨rfl, rfl, rfl, rfl⟩)
  exact (switchActive_applied s r hidle).keeps (divSet_keeps _ _)

/-- R77's last steps: PROFILE_STATUS, the note of the time, and what shows the switch. -/
def switchShown (s : State) (target : Nat) : State :=
  engsShow (profShow (bump (putR64 (profStatus s target 1 0) 0x002 0x10C (now s)) 0x002 0))

theorem switchApply_eq (s : State) (r : List Byte) :
    switchApply s r = heldSettle (switchShown (switchMoved s r) (bits (getR s 0x002 0x108) 17 16)) := rfl

theorem switchShown_keeps (s : State) (target : Nat) : Keeps s (switchShown s target) :=
  ((((profStatus_keeps s target 1 0).trans ((putR_keeps _ _ _ _).trans (putR_keeps _ _ _ _))).trans (bump_keeps _ _ _)).trans
    (profShow_keeps _)).trans (engsShow_keeps _)

/-- The time of the switch stands in its registers. -/
theorem switchShown_time (s : State) (target : Nat) :
    tgetD (switchShown s target).regs (rkey 0x002 0x10C) 0 = word (now s) ∧
      tgetD (switchShown s target).regs (rkey 0x002 0x110) 0 = word (now s / 0x100000000) := by
  have hpba : PbaOnly (putR64 (profStatus s target 1 0) 0x002 0x10C (now s)) (switchShown s target) :=
    ((bump_pbaOnly _ _ _).trans (profShow_pbaOnly _)).trans (engsShow_pbaOnly _)
  rw [hpba.word 0x002 (by decide) (by decide), hpba.word 0x002 (by decide) (by decide)]
  simp only [putR64, putR]
  rw [tgetD_tset_ne _ _ _ (by decide), tgetD_tset, tgetD_tset]
  exact ⟨rfl, rfl⟩

/-- With nothing held, a switch at its boundary makes the record active and notes the time (R77). -/
theorem switchApply_facts (s : State) (r : List Byte) (hidle : heldIdle s = true) :
    (switchApply s r).life.profile = some r ∧ (switchApply s r).life.source = 1 ∧ (switchApply s r).life.switchTo = none ∧
      tgetD (switchApply s r).regs (rkey 0x002 0x10C) 0 = word (now s) ∧
      tgetD (switchApply s r).regs (rkey 0x002 0x110) 0 = word (now s / 0x100000000) := by
  have hmoved := switchMoved_applied s r hidle
  have hshown := hmoved.keeps (switchShown_keeps _ (bits (getR s 0x002 0x108) 17 16))
  obtain ⟨hlo, hhi⟩ := switchShown_time (switchMoved s r) (bits (getR s 0x002 0x108) 17 16)
  obtain ⟨hlife, -, hregs, -⟩ := heldSettle_same hshown.idle
  rw [switchApply_eq, hlife, hregs, hlo, hhi, hmoved.now]
  exact ⟨hshown.profile, hshown.source, hshown.ended, rfl, rfl⟩

theorem execProfileSwitchApply_boundary {s : State} {r : List Byte} (hsw : s.life.switchTo = some r)
    (hb : atBoundary s r = true) : execProfileSwitchApply s = .next (switchApply s r) := by
  simp only [execProfileSwitchApply, hsw, hb, if_true]

/-- Settles O16: GO, the abandoning of a late frame, and the switch at its boundary. -/
theorem profileSwitching : Obligations.ProfileSwitching := by
  unfold Obligations.ProfileSwitching
  refine ⟨?_, ?_, ?_⟩
  · intro s m target hlt hr
    refine ⟨_, execProfileSwitch_reaches hlt hr, switchGo_profile s target, fun hbusy => ?_, fun hfree hnone => ?_,
      fun r hfree hsome hc => ?_⟩
    · obtain ⟨hword, hlife, hcnt⟩ := switchGo_busy_facts s target hbusy
      exact ⟨hword, by rw [hlife], hcnt⟩
    · obtain ⟨hword, hlife⟩ := switchGo_invalid_facts s target hfree hnone
      exact ⟨hword, by rw [hlife]; exact hfree⟩
    · rw [switchGo_waits_life s target hfree hsome hc]
      exact ⟨rfl, rfl⟩
  · intro s d r j hsw hj hoff hage
    obtain ⟨hjob, hqueue, hdec, hblk⟩ := decRequeue_facts s d hj
    refine ⟨_, execProfileSwitchDecoderAbandon_late hsw hj hoff hage, ?_, ?_, ?_, ?_, ?_⟩
    · simpa [dec, updStm, setStm] using hjob
    · simpa [stm, updStm, setStm] using hqueue
    · simp [stm, updStm, setStm]
    · simpa [stm, updStm, setStm] using hdec
    · rw [bump_cnt _ _ _ (by decide), blk_updStm, hblk 0x002 (by decide)]
  · intro s r hsw hb hidle
    exact ⟨_, execProfileSwitchApply_boundary hsw hb, switchApply_facts s r hidle⟩

end Sys2Proof.Machine
end

section
/-!
PROOF. Bit fields of register words, and byte records written into consecutive registers.
-/
namespace Sys2Proof.Machine

/-! ### Bit fields -/

theorem getLsbD_word (n : Nat) {j : Nat} (hj : j < 32) : (word n).getLsbD j = n.testBit j := by
  simp only [word, BitVec.getLsbD_ofNat, hj, decide_true, Bool.true_and]

/-- A bit of a word whose field [hi:lo] was replaced. -/
theorem bit_setBits (w : Word) (v : Nat) {hi lo j : Nat} (hj : j < 32) :
    bit (setBits w hi lo v) j = if lo ≤ j ∧ j ≤ hi then v.testBit (j - lo) else bit w j := by
  have hmask : (maskW hi lo).getLsbD j = decide (lo ≤ j ∧ j ≤ hi) := by
    rw [maskW, getLsbD_word _ hj, Nat.testBit_shiftLeft, Nat.testBit_two_pow_sub_one, ← Bool.decide_and]
    exact decide_eq_decide.mpr (by omega)
  rw [bit, bit, setBits, BitVec.getLsbD_or, BitVec.getLsbD_and, BitVec.getLsbD_and, BitVec.getLsbD_not, hmask,
    getLsbD_word _ hj, Nat.testBit_shiftLeft]
  by_cases h : lo ≤ j ∧ j ≤ hi <;> simp [h, hj]

/-- A replaced bit, and the other bits beside it. -/
theorem bit_setBits_one (w : Word) (b : Bool) {k j : Nat} (hj : j < 32) :
    bit (setBits w k k (b2n b)) j = if j = k then b else bit w j := by
  rw [bit_setBits _ _ hj]
  by_cases h : j = k
  · subst h; cases b <;> simp [b2n]
  · rw [if_neg (by omega), if_neg h]

/-- A replaced field reads back, cut to its width. -/
theorem bits_setBits (w : Word) (v : Nat) {hi lo : Nat} (hhi : hi < 32) :
    bits (setBits w hi lo v) hi lo = v % 2 ^ (hi + 1 - lo) := by
  refine Nat.eq_of_testBit_eq fun i => ?_
  rw [bits, bitsN, Nat.testBit_mod_two_pow, Nat.testBit_mod_two_pow, Nat.testBit_shiftRight]
  by_cases h : i < hi + 1 - lo
  · have hbit := bit_setBits w v (hi := hi) (lo := lo) (j := lo + i) (by omega)
    rw [if_pos (by omega), Nat.add_sub_cancel_left] at hbit
    simp only [h, decide_true, Bool.true_and]
    exact hbit
  · simp [h]

/-! ### Records in registers -/

/-- Registers outside the written run are as they were. -/
theorem putRegsL_out (s : State) (p o : Nat) (ws : List Word) {x : Nat}
    (hx : x < rkey p o ∨ rkey p o + 4 * ws.length ≤ x) : tget (putRegsL s p o ws).regs x = tget s.regs x := by
  induction ws generalizing s o with
  | nil => rfl
  | cons w ws ih =>
    simp only [List.length_cons, rkey] at hx ih
    rw [putRegsL, ih _ _ (by omega)]
    exact tget_tset_ne _ _ (by unfold rkey; omega)

/-- Words written into consecutive registers read back in order. -/
theorem putRegsL_getElem (s : State) (p o : Nat) (ws : List Word) {k : Nat} {w : Word} (hk : ws[k]? = some w) :
    tget (putRegsL s p o ws).regs (rkey p (o + 4 * k)) = some w := by
  induction ws generalizing s o k with
  | nil => simp at hk
  | cons v ws ih =>
    rw [putRegsL]
    cases k with
    | zero =>
      obtain rfl : v = w := by simpa using hk
      rw [putRegsL_out _ _ _ _ (Or.inl (by unfold rkey; omega))]
      exact tget_tset _ _ _
    | succ k =>
      rw [show o + 4 * (k + 1) = o + 4 + 4 * k by omega]
      exact ih _ _ (by simpa using hk)

/-- Word k of a record holds its bytes from 4k on. -/
theorem toWords_getElem (l : List Byte) {k : Nat} (hk : 4 * k < l.length) :
    (toWords l)[k]? = some (word (leAt l (4 * k) 4)) := by
  induction l using toWords.induct generalizing k with
  | case1 => simp at hk
  | case2 a b c d t ih =>
    cases k with
    | zero => simp [toWords, leAt]
    | succ k =>
      have hdrop : leAt (a :: b :: c :: d :: t) (4 * (k + 1)) 4 = leAt t (4 * k) 4 := by
        rw [leAt, leAt, show 4 * (k + 1) = 4 * k + 4 by omega]
        rfl
      rw [hdrop, toWords, List.getElem?_cons_succ]
      exact ih (by simp only [List.length_cons] at hk; omega)
  | case3 l hne hshort =>
    have hlen : l.length < 4 := by
      match l, hshort with
      | [], _ | [_], _ | [_, _], _ | [_, _, _], _ => simp
      | a :: b :: c :: d :: t, h => exact absurd rfl (h a b c d t)
    obtain rfl : k = 0 := by omega
    have htake : leAt l 0 4 = leNat l := by rw [leAt, List.drop_zero, List.take_of_length_le (by omega)]
    rw [Nat.mul_zero, htake]
    match l, hshort with
    | [], _ => simp at hk
    | [_], _ | [_, _], _ | [_, _, _], _ => rfl
    | a :: b :: c :: d :: t, h => exact absurd rfl (h a b c d t)

theorem toWords_length (l : List Byte) : 4 * (toWords l).length ≤ l.length + 3 := by
  induction l using toWords.induct with
  | case1 => simp [toWords]
  | case2 a b c d t ih => simp only [toWords, List.length_cons]; omega
  | case3 l hne hshort =>
    match l, hshort with
    | [], _ | [_], _ | [_, _], _ | [_, _, _], _ => simp [toWords]
    | a :: b :: c :: d :: t, h => exact absurd rfl (h a b c d t)

/-- A register of a record written into registers. -/
theorem putRec_word (s : State) (p o : Nat) (l : List Byte) {k : Nat} (hk : 4 * k < l.length) (d : Word) :
    tgetD (putRec s p o l).regs (rkey p (o + 4 * k)) d = word (leAt l (4 * k) 4) := by
  rw [tgetD, putRec, putRegsL_getElem s p o _ (toWords_getElem l hk), Option.getD_some]

/-- A record written into a page's registers leaves those of the other pages. -/
theorem putRec_getR_page (s : State) (p o : Nat) (l : List Byte) {q r : Nat} (ho : o + l.length + 3 ≤ 0x10000)
    (hr : r < 0x10000) (h : p ≠ q) : getR (putRec s p o l) q r = getR s q r := by
  have hlen := toWords_length l
  have hreg : tget (putRec s p o l).regs (rkey q r) = tget s.regs (rkey q r) :=
    putRegsL_out s p o _ (by unfold rkey; omega)
  have hrvs : (putRec s p o l).rvs = s.rvs := by simp
  rw [getR, getR, hrvs, tgetD, hreg, tgetD]

/-- A field of a zero record is 0. -/
theorem leAt_zeros (n o m : Nat) : leAt (zeros n) o m = 0 := by
  have hzero : ∀ k, leNat (List.replicate k 0) = 0 := fun k => by
    induction k with
    | zero => rfl
    | succ k ih => rw [List.replicate_succ, leNat, ih]; rfl
  rw [leAt, zeros, List.drop_replicate, List.take_replicate, hzero]

end Sys2Proof.Machine
end

section
/-!
PROOF. What Kettle's operations on blocks can change, and the release of a claim by a unit (R118, R433-R439).
-/
namespace Sys2Proof.Machine

/-- The state differs in what Kettle's operations reach: pools, block memory and its protection, counts, faults, interrupts,
and the blocks of the streams that wait for one. -/
def KetFrame (s t : State) : Prop :=
  ∃ blks regs pcie out toc ctxs mem ecc free ket stms, t = { s with
    blks := blks, regs := regs, pcie := pcie, out := out, toc := toc, ctxs := ctxs, mem := mem, ecc := ecc, free := free,
    ket := ket, stms := stms }

theorem KetFrame.refl (s : State) : KetFrame s s := ⟨_, _, _, _, _, _, _, _, _, _, _, rfl⟩

theorem KetFrame.trans {s t u : State} (h : KetFrame s t) (k : KetFrame t u) : KetFrame s u := by
  obtain ⟨_, _, _, _, _, _, _, _, _, _, _, rfl⟩ := h
  obtain ⟨_, _, _, _, _, _, _, _, _, _, _, rfl⟩ := k
  exact ⟨_, _, _, _, _, _, _, _, _, _, _, rfl⟩

theorem KetFrame.flows {s t : State} (h : KetFrame s t) : t.flows = s.flows := by
  obtain ⟨_, _, _, _, _, _, _, _, _, _, _, rfl⟩ := h
  rfl

theorem KetFrame.keys {s t : State} (h : KetFrame s t) : t.keys = s.keys := by
  obtain ⟨_, _, _, _, _, _, _, _, _, _, _, rfl⟩ := h
  rfl

theorem KetFrame.portMode {s t : State} (h : KetFrame s t) : t.portMode = s.portMode := by
  obtain ⟨_, _, _, _, _, _, _, _, _, _, _, rfl⟩ := h
  rfl

theorem KetFrame.rvs {s t : State} (h : KetFrame s t) : t.rvs = s.rvs := by
  obtain ⟨_, _, _, _, _, _, _, _, _, _, _, rfl⟩ := h
  rfl

/-- A loop over a list stays in the frame when each of its steps does. -/
theorem KetFrame.foldl {α : Type} (f : State → α → State) (l : List α) (hf : ∀ u x, KetFrame u (f u x)) (s : State) :
    KetFrame s (l.foldl f s) :=
  List.foldlRecOn l f (KetFrame.refl s) (fun u hu x _ => hu.trans (hf u x))

/-! ### Shared operations -/

theorem bump_ketFrame (s : State) (page n : Nat) : KetFrame s (bump s page n) := by
  obtain ⟨_, _, _, _, h⟩ := bump_frame s page n
  exact ⟨_, _, _, _, _, _, _, _, _, _, _, h⟩

theorem logRec_ketFrame (s : State) (kind code orig flags id page desc detail : Nat) :
    KetFrame s (logRec s kind code orig flags id page desc detail) := by
  obtain ⟨_, _, _, _, _, h⟩ := logRec_frame s kind code orig flags id page desc detail
  exact ⟨_, _, _, _, _, _, _, _, _, _, _, h⟩

theorem holdFault_ketFrame (s : State) (page code space id : Nat) : KetFrame s (holdFault s page code space id) := by
  obtain ⟨_, _, _, _, h⟩ := holdFault_frame s page code space id
  exact ⟨_, _, _, _, _, _, _, _, _, _, _, h⟩

theorem ctxFault_ketFrame (s : State) (n code page desc : Nat) : KetFrame s (ctxFault s n code page desc) := by
  obtain ⟨_, _, _, _, _, _, h⟩ := ctxFault_frame s n code page desc
  exact ⟨_, _, _, _, _, _, _, _, _, _, _, h⟩

theorem putR_ketFrame (s : State) (page ofs : Nat) (w : Word) : KetFrame s (putR s page ofs w) :=
  ⟨_, _, _, _, _, _, _, _, _, _, _, rfl⟩

theorem wrMem_ketFrame (s : State) (a : Nat) (l : List Byte) : KetFrame s (wrMem s a l) :=
  ⟨_, _, _, _, _, _, _, _, _, _, _, rfl⟩

theorem setPool_ketFrame (s : State) (pn : Nat) (p : KPool) : KetFrame s (setPool s pn p) :=
  ⟨_, _, _, _, _, _, _, _, _, _, _, rfl⟩

theorem updStm_ketFrame (s : State) (n : Nat) (f : Stm → Stm) : KetFrame s (updStm s n f) :=
  ⟨_, _, _, _, _, _, _, _, _, _, _, rfl⟩

/-! ### Sector protection (R418) -/

theorem eccRecord_ketFrame (s : State) (a kind nbytes source : Nat) : KetFrame s (eccRecord s a kind nbytes source) := by
  have hregs : ∀ p n w, KetFrame s (putR (putR64 s p 0x108 n) p 0x110 w) := fun p n w =>
    ((putR_ketFrame s _ _ _).trans (putR_ketFrame _ _ _ _)).trans (putR_ketFrame _ _ _ _)
  unfold eccRecord
  dsimp only
  split
  · exact (hregs _ _ _).trans (bump_ketFrame _ _ _)
  · exact (hregs _ _ _).trans ((bump_ketFrame _ _ _).trans (logRec_ketFrame _ _ _ _ _ _ _ _ _))

theorem freeBytes_ketFrame (s : State) (n : Nat) : KetFrame s (freeBytes s n).2 := by
  induction n generalizing s with
  | zero => exact .refl s
  | succ n ih => exact .trans ⟨_, _, _, _, _, _, _, _, s.free + 1, _, _, rfl⟩ (ih _)

theorem eccSector_ketFrame (s : State) (source sec : Nat) : KetFrame s (eccSector s source sec).1 := by
  have hfree : KetFrame s { s with free := s.free + 1 } := ⟨_, _, _, _, _, _, _, _, _, _, _, rfl⟩
  have hbytes := freeBytes_ketFrame { s with free := s.free + 1 } 64
  have hecc : ∀ (u : State) x, KetFrame u { u with ecc := x } := fun _ _ => ⟨_, _, _, _, _, _, _, _, _, _, _, rfl⟩
  unfold eccSector
  split
  · exact .refl s
  · split
    · exact .refl s
    · split
      · dsimp only
        exact (hecc s (tdel s.ecc sec)).trans (eccRecord_ketFrame _ _ _ _ _)
      · dsimp only
        split
        · dsimp only
          exact ((hfree.trans hbytes).trans (hecc _ (tdel _ sec))).trans
            ((wrMem_ketFrame _ _ _).trans (eccRecord_ketFrame _ _ _ _ _))
        · dsimp only
          exact hfree.trans (eccRecord_ketFrame _ _ _ _ _)

/-! ### Block operations (R433-R435) -/

theorem setOwners_ketFrame (s : State) (pn : Nat) (p : KPool) (b : Nat) (es : List Own) :
    KetFrame s (setOwners s pn p b es) :=
  (setPool_ketFrame s pn _).trans
    ((wrMem_ketFrame _ _ _).trans ((wrMem_ketFrame _ _ _).trans (wrMem_ketFrame _ _ _)))

theorem ketFault_ketFrame (s : State) (code space id : Nat) : KetFrame s (ketFault s code space id) := by
  unfold ketFault
  dsimp only
  split
  · exact (bump_ketFrame s _ _).trans (ctxFault_ketFrame _ _ _ _ _)
  · exact (bump_ketFrame s _ _).trans ((logRec_ketFrame _ _ _ _ _ _ _ _ _).trans (holdFault_ketFrame _ _ _ _ _))

theorem ketTouch_ketFrame (s : State) (pn b : Nat) : KetFrame s (ketTouch s pn b) := by
  have hread : ∀ (l : List Nat) (acc : State × Bool), KetFrame s acc.1 → KetFrame s (l.foldl (fun acc a =>
      ((eccSector acc.1 0 (a / 64)).1, acc.2 || (eccSector acc.1 0 (a / 64)).2)) acc).1 := fun l => by
    induction l with
    | nil => exact fun acc h => h
    | cons a l ih => exact fun acc h => ih _ (h.trans (eccSector_ketFrame acc.1 0 (a / 64)))
  unfold ketTouch
  split
  · exact .refl s
  · next p _ =>
    have h := hread [p.metaAt + 64 + b / 8, p.metaAt + 64 + 64 * cdiv p.nblocks 512 + b / 512,
      p.metaAt + 64 + 64 * cdiv p.nblocks 512 + 64 * cdiv p.nblocks 32768 + 32 * b] (s, false) (.refl s)
    dsimp only
    split
    · exact h.trans (setPool_ketFrame _ _ _)
    · exact h

theorem ketTouchFree_ketFrame (s : State) (pn : Nat) : KetFrame s (ketTouchFree s pn) := by
  unfold ketTouchFree
  split
  · exact .refl s
  · split
    · exact ketTouch_ketFrame s _ _
    · exact .refl s

theorem ketTouchPtr_ketFrame (s : State) (ptr : Nat) : KetFrame s (ketTouchPtr s ptr) := by
  unfold ketTouchPtr
  split
  · split
    · exact .refl s
    · exact ketTouch_ketFrame s _ _
  · exact .refl s

theorem ketAlloc_ketFrame (s : State) (pn space id cls n : Nat) : KetFrame s (ketAlloc s pn space id cls n).1 := by
  unfold ketAlloc
  refine (ketTouchFree_ketFrame s pn).trans ?_
  dsimp only
  generalize ketTouchFree s pn = u
  split
  · exact ketFault_ketFrame u _ _ _
  · split
    · exact ketFault_ketFrame u _ _ _
    · split
      · exact bump_ketFrame u _ _
      · refine forN_keeps (fun acc : State × KRes => KetFrame u acc.1) _ n (fun k _ acc hacc => ?_) (.refl u)
        split
        · split
          · exact hacc.trans ((setOwners_ketFrame _ _ _ _ _).trans (bump_ketFrame _ _ _))
          · exact hacc
        · exact hacc
      · exact bump_ketFrame u _ _

theorem ketRelease_ketFrame (s : State) (ptr space id : Nat) : KetFrame s (ketRelease s ptr space id).1 := by
  unfold ketRelease
  refine (ketTouchPtr_ketFrame s ptr).trans ?_
  dsimp only
  generalize ketTouchPtr s ptr = u
  split
  · exact ketFault_ketFrame u _ _ _
  · split
    · dsimp only
      split
      · exact (setOwners_ketFrame u _ _ _ _).trans (bump_ketFrame _ _ _)
      · exact setOwners_ketFrame u _ _ _ _
    · exact ketFault_ketFrame u _ _ _

/-! ### Blocks of streams (R118) -/

theorem stmAlloc_ketFrame (s : State) (n pn : Nat) : KetFrame s (stmAlloc s n pn).1 := by
  have h := ketAlloc_ketFrame s pn 2 n 1 1
  unfold stmAlloc
  split
  · exact .refl s
  · split
    · next e => rw [e] at h; exact h
    · next e => rw [e] at h; exact h

theorem stmTry1_ketFrame (s : State) (n : Nat) : KetFrame s (stmTry1 s n) := by
  have hone : ∀ (u : State) (c : Bool) (pn : Nat) (f : Option Nat → Stm → Stm),
      KetFrame u (if c then u else updStm (stmAlloc u n pn).1 n (f (stmAlloc u n pn).2)) := fun u c pn f => by
    split
    · exact .refl u
    · exact (stmAlloc_ketFrame u n pn).trans (updStm_ketFrame _ _ _)
  unfold stmTry1
  dsimp only
  split
  · exact .refl s
  · exact (hone s _ _ (fun b y => { y with picBlk := b })).trans (hone _ _ _ (fun b y => { y with mapBlk := b }))

/-- The release of a claim stays in Kettle's reach. -/
theorem relBlock_ketFrame (s : State) (ptr space id : Nat) : KetFrame s (relBlock s ptr space id) := by
  have h := ketRelease_ketFrame s ptr space id
  unfold relBlock
  split
  · exact h
  · dsimp only
    split
    · exact h
    · split
      · exact h
      · split
        · exact h.trans (stmTry1_ketFrame _ _)
        · exact h

/-- Packets give their blocks back within Kettle's reach. -/
theorem freePkts_ketFrame (s : State) (n : Nat) (l : List Held) : KetFrame s (freePkts s n l) :=
  .foldl _ _ (fun u _ => .foldl _ _ (fun v b => relBlock_ketFrame v b 3 n) u) s

end Sys2Proof.Machine
end

section
/-!
PROOF. Flow commands: O17.
-/
namespace Sys2Proof.Machine

/-! ### Flows and the port -/

@[simp] theorem flow_setFlow (s : State) (n : Nat) (x : Flow) : flow (setFlow s n x) n = x := by simp [flow, setFlow]

theorem flow_setFlow_ne (s : State) {n k : Nat} (x : Flow) (h : k ≠ n) : flow (setFlow s n x) k = flow s k := by
  simp [flow, setFlow, tgetD_tset_ne _ _ _ h.symm]

theorem flow_congr {s t : State} (h : t.flows = s.flows) (n : Nat) : flow t n = flow s n := by rw [flow, flow, h]

@[simp] theorem flow_portResult (s : State) (p : Port) (tag c d n : Nat) : flow (portResult s p tag c d) n = flow s n := rfl

/-- A result register of the flow port leaves the registers below 0x800 of its page. -/
theorem portResult_flow_below (s : State) (tag c d : Nat) {o : Nat} (ho : o < 0x800) (w : Word) :
    tgetD (portResult s .flow tag c d).regs (rkey 0x172 o) w = tgetD s.regs (rkey 0x172 o) w :=
  tgetD_tset_ne _ _ _ (by simp only [Port.page, Port.resOfs, rkey]; omega)

/-- A flow command other than KEY_LOAD, taken and carried out with a known answer. -/
theorem flowCmd_answers {s u : State} {m : Master} {op tag n c d : Nat} {run : POp}
    (h : portTakes s .flow m op n = true) (hop : op ≠ 5)
    (hr : run n (staged s .flow) tag (portResult s .flow tag 0xF 0) = (u, c, d)) :
    (.next (portCmd .flow m op tag n run s) : Host.Outcome State Fault Refusal) = .next (portResult u .flow tag c d) := by
  rw [portCmd_takes _ _ _ _ _ _ _ h (Or.inr hop), hr]

/-! ### OPEN (R88, R89) -/

/-- The flow that OPEN makes of a record. -/
def flowOpened (o : List Byte) : Flow :=
  { st := 1, recd := o.take 128, keyA := leAt o 0x32 2, keyB := leAt o 0x34 2, sw := leAt o 0x40 8, ssrc := leAt o 0x2C 4,
    learnt := !(byteAt o 0).testBit 2 }

theorem opFlowOpen_done {s : State} {o : List Byte} {n : Nat} (tag : Nat) (hn : n < 4096) (hst : (flow s n).st = 0)
    (hbad : flowBad s o = none)
    (hkey : (openFlows s).find? (fun q => keysEqual (flowKey7 o) (leAt o 0x2C 4) ((byteAt o 0).testBit 2) q.2) = none)
    (hslot : byteAt o 3 = 0 ∨ (tget s.keys (leAt o 0x32 2)).isSome = true)
    (hdst : isMcast ((byteAt o 0).testBit 1) (slice o 0x18 16) = true ∨
      portIp (portAddr s (byteAt o 1)) ((byteAt o 0).testBit 1) = slice o 0x18 16)
    (hroom : (openFlows s).length + 1 ≤ profF s 0x106 2 0) :
    opFlowOpen n o tag s = done (setFlow s n (flowOpened o)) := by
  have hslot' : (byteAt o 3 != 0 && (tget s.keys (leAt o 0x32 2)).isNone) = false := by
    rcases hslot with h | h
    · simp [h]
    · simp [← Option.not_isSome, h]
  have hdst' : (!isMcast ((byteAt o 0).testBit 1) (slice o 0x18 16) &&
      portIp (portAddr s (byteAt o 1)) ((byteAt o 0).testBit 1) != slice o 0x18 16) = false := by
    rcases hdst with h | h <;> simp [h]
  simp only [opFlowOpen, hbad, hkey, hst, hslot', hdst', Nat.not_le.mpr hn, Nat.not_lt.mpr hroom, if_false,
    bne_self_eq_false, Bool.false_eq_true]
  rfl

theorem opFlowOpen_illegal {s : State} {o : List Byte} {n f : Nat} (tag : Nat) (hn : n < 4096)
    (hbad : flowBad s o = some f) :
    opFlowOpen n o tag s = illegal s f := by
  simp only [opFlowOpen, hbad, Nat.not_le.mpr hn, if_false]

/-! ### CLOSE (R105) -/

theorem opFlowClose_done {s : State} {n : Nat} (o : List Byte) (tag : Nat) (hn : n < 4096) (hst : (flow s n).st ≠ 0)
    (hw : (flow s n).writing = []) : opFlowClose n o tag s = done (flowEnd s n) := by
  simp only [opFlowClose, hst, hw, Nat.not_le.mpr hn, if_false, List.isEmpty_nil, if_true]

/-- An ended flow is closed and holds nothing; the other flows are as they were. -/
theorem flowEnd_flow (s : State) (n : Nat) :
    (flow (flowEnd s n) n).st = 0 ∧ (flow (flowEnd s n) n).held = [] ∧ ∀ k, k ≠ n → flow (flowEnd s n) k = flow s k := by
  have hown : flow (flowEnd s n) n = { recd := (flow s n).recd } := flow_setFlow _ n _
  have hfree := freePkts_ketFrame s n (flow s n).held
  exact ⟨by rw [hown], by rw [hown], fun k hk => (flow_setFlow_ne _ _ hk).trans (flow_congr hfree.flows k)⟩

/-- The end of a flow leaves key slots, port modes and voted registers as they were. -/
theorem flowEnd_same (s : State) (n : Nat) :
    (flowEnd s n).keys = s.keys ∧ (flowEnd s n).portMode = s.portMode ∧ (flowEnd s n).rvs = s.rvs :=
  have hfree := freePkts_ketFrame s n (flow s n).held
  ⟨hfree.keys, hfree.portMode, hfree.rvs⟩

/-! ### READ_STATUS and SET_SR (R97, R100) -/

theorem opFlowRead_done {s : State} {n : Nat} (o : List Byte) (tag : Nat) (hn : n < 4096) :
    opFlowRead n o tag s = done (portStatus s .flow (flowRecord (flow s n))) := by
  simp only [opFlowRead, Nat.not_le.mpr hn, if_false]

theorem leBytes_length (n v : Nat) : (leBytes n v).length = n := by
  induction n generalizing v with
  | zero => rfl
  | succ n ih => rw [leBytes, List.length_cons, ih]

/-- The record of Table 04-7 has 96 bytes. -/
theorem flowRecord_length (x : Flow) : (flowRecord x).length = 96 := by
  have hcnt : ((List.range 11).flatMap (fun i => leBytes 4 (tgetD x.cnt i 0).toNat)).length = 44 := by
    simp only [List.length_flatMap, leBytes_length]
    rfl
  simp only [flowRecord, List.length_append, leBytes_length, hcnt, zeros, List.length_replicate]

theorem opSetSr_done {s : State} {n : Nat} (o : List Byte) (tag : Nat) (hn : n < 4096) (hst : (flow s n).st ≠ 0) :
    opSetSr n o tag s = done (updFlow s n (fun x => { x with sr := some (leAt o 0 4, leAt o 8 8) })) := by
  simp only [opSetSr, hst, Nat.not_le.mpr hn, if_false]

/-! ### The commands -/

/-- Settles O17: each command's operation answers what its conditions say, and the port writes its result. -/
theorem flowCommands : Obligations.FlowCommands := by
  unfold Obligations.FlowCommands
  refine ⟨?_, ?_, ?_, ?_, ?_⟩
  · intro s m tag n htake hn hst hbad hkey hslot hdst hroom
    have hrun := opFlowOpen_done (s := portResult s .flow tag 0xF 0) tag hn hst hbad hkey hslot hdst hroom
    refine ⟨_, flowCmd_answers htake (by decide) hrun, resultAt_portResult _ _ _ _ _, ?_⟩
    simp only [flow_portResult, flow_setFlow]
    exact ⟨rfl, rfl, rfl, rfl, rfl, rfl, rfl, fun k hk => flow_setFlow_ne _ _ hk, rfl⟩
  · intro s m tag n f htake hn hbad
    have hrun := opFlowOpen_illegal (s := portResult s .flow tag 0xF 0) tag hn hbad
    exact ⟨_, flowCmd_answers htake (by decide) hrun, resultAt_portResult _ _ _ _ _, rfl⟩
  · intro s m tag n htake hn hst hw
    have hrun := opFlowClose_done (s := portResult s .flow tag 0xF 0) (staged s .flow) tag hn hst hw
    obtain ⟨hclosed, hheld, hothers⟩ := flowEnd_flow (portResult s .flow tag 0xF 0) n
    obtain ⟨hkeys, -⟩ := flowEnd_same (portResult s .flow tag 0xF 0) n
    exact ⟨_, flowCmd_answers htake (by decide) hrun, resultAt_portResult _ _ _ _ _, hclosed, hheld,
      hothers, hkeys⟩
  · intro s m tag n htake hn
    have hrun := opFlowRead_done (s := portResult s .flow tag 0xF 0) (staged s .flow) tag hn
    refine ⟨_, flowCmd_answers htake (by decide) hrun, resultAt_portResult _ _ _ _ _, fun k hk => ?_, ?_⟩
    · rw [portResult_flow_below _ _ _ _ (by omega)]
      exact putRec_word _ 0x172 0x300 _ (by rw [flowRecord_length]; omega) _
    · obtain ⟨_, hframe⟩ := portStatus_frame (portResult s .flow tag 0xF 0) .flow (flowRecord (flow s n))
      simp only [flow_portResult, hframe]
      rfl
  · intro s m tag n htake hn hst
    have hrun := opSetSr_done (s := portResult s .flow tag 0xF 0) (staged s .flow) tag hn hst
    refine ⟨_, flowCmd_answers htake (by decide) hrun, resultAt_portResult _ _ _ _ _, ?_⟩
    simp only [flow_portResult, updFlow, flow_setFlow]
    exact ⟨trivial, fun k hk => flow_setFlow_ne _ _ hk, rfl⟩

end Sys2Proof.Machine
end

section
/-!
PROOF. Key commands: O18.
-/
namespace Sys2Proof.Machine

/-! ### KEY_LOAD (R90, R104) -/

/-- The state in which a KEY_LOAD is carried out: its operand is taken and FLOW_STAGE holds zeros. Proofs use its lemmas, and
do not run its 32 writes. -/
@[irreducible] def stageCleared (s : State) : State := putRec s 0x172 0x200 (zeros 128)

theorem stageCleared_frame (s : State) : ∃ r, stageCleared s = { s with regs := r } := by
  rw [stageCleared]
  exact putRec_frame s 0x172 0x200 (zeros 128)

theorem stageCleared_getR (s : State) {q r : Nat} (hq : 0x172 ≠ q) (hr : r < 0x10000) :
    getR (stageCleared s) q r = getR s q r := by
  rw [stageCleared]
  exact putRec_getR_page s _ _ _ (by rw [zeros, List.length_replicate]; decide) hr hq

/-- Clearing the staging registers does not change what the port does with a command. -/
theorem portDisp_stageCleared (s : State) (op idx : Nat) (o : List Byte) :
    portDisp (stageCleared s) .flow op idx o = portDisp s .flow op idx o := by
  have hstop : stopping (stageCleared s) = stopping s := by
    rw [stopping, stopping, stageCleared_getR s (by decide) (by decide), stageCleared_getR s (by decide) (by decide)]
  have hlow : lowEvent (stageCleared s) = lowEvent s := by
    obtain ⟨_, hframe⟩ := stageCleared_frame s
    rw [lowEvent, lowEvent, gongState, gongState, stageCleared_getR s (by decide) (by decide), hframe]
  have hrest : targetDisp (stageCleared s) .flow op idx o = targetDisp s .flow op idx o ∧
      switchHolds (stageCleared s) .flow op = switchHolds s .flow op := by
    obtain ⟨_, hframe⟩ := stageCleared_frame s
    rw [hframe]
    exact ⟨rfl, rfl⟩
  rw [portDisp, portDisp, hstop, hlow, hrest.1, hrest.2]

/-- A KEY_LOAD, taken and carried out with a known answer. -/
theorem keyLoad_answers {s u : State} {m : Master} {tag n c d : Nat} {run : POp} (h : portTakes s .flow m 5 n = true)
    (hr : run n (staged s .flow) tag (portResult (stageCleared s) .flow tag 0xF 0) = (u, c, d)) :
    (.next (portCmd .flow m 5 tag n run s) : Host.Outcome State Fault Refusal) = .next (portResult u .flow tag c d) := by
  simp only [portTakes, Bool.and_eq_true, beq_iff_eq, List.isEmpty_iff] at h
  obtain ⟨⟨hreach, hqueue⟩, hdisp⟩ := h
  have hempty : portQ (stageCleared s) .flow = [] := by
    obtain ⟨_, hframe⟩ := stageCleared_frame s
    rw [hframe]
    exact hqueue
  have hempty' : portQ (portResult (stageCleared s) .flow tag 0xF 0) .flow = [] := hempty
  have hrun : portDisp (portResult (stageCleared s) .flow tag 0xF 0) .flow 5 n (staged s .flow) = .run := by
    rw [portDisp_portResult, portDisp_stageCleared, hdisp]
  unfold portCmd
  rw [guarded_reaches _ _ _ _ _ hreach]
  dsimp only
  rw [if_pos (show (decide (Port.flow = .flow) && decide (5 = 5)) = true from rfl), ← stageCleared,
    show getRec s Port.flow.page Port.flow.stageOfs Port.flow.stageN = staged s .flow from rfl, hempty, hempty', hrun]
  simp [portRun, hr]

theorem opKeyLoad_done {s : State} {o : List Byte} {n : Nat} (tag : Nat) (hn : n < 8192) (hbad : keyBad o = none) :
    opKeyLoad n o tag s = done { s with keys := tset s.keys n (o.take 64) } := by
  simp only [opKeyLoad, hbad, Nat.not_le.mpr hn, if_false]

/-- Once a KEY_LOAD is carried out FLOW_STAGE reads zero (R90). -/
theorem stageCleared_zero (s : State) {k : Nat} (hk : k < 32) :
    tgetD (stageCleared s).regs (rkey 0x172 (0x200 + 4 * k)) 0 = 0 := by
  rw [stageCleared, putRec_word _ _ _ _ (by rw [zeros, List.length_replicate]; omega), leAt_zeros]
  rfl

/-! ### KEY_ERASE (R93) -/

theorem opKeyErase_done {s : State} {n : Nat} (o : List Byte) (tag : Nat) (hn : n < 8192) (hu : keyUser s n = none) :
    opKeyErase n o tag s = done { s with keys := tdel s.keys n } := by
  simp only [opKeyErase, hu, Nat.not_le.mpr hn, if_false]

theorem opKeyErase_used {s : State} {n f : Nat} (o : List Byte) (tag : Nat) (hn : n < 8192) (hu : keyUser s n = some f) :
    opKeyErase n o tag s = refuse s 6 f := by
  simp only [opKeyErase, hu, Nat.not_le.mpr hn, if_false]

/-! ### RELEARN_SSRC and SET_KEYS (R87, R92) -/

theorem opRelearn_done {s : State} {n : Nat} (o : List Byte) (tag : Nat) (hn : n < 4096) (hst : (flow s n).st ≠ 0)
    (halone : (openFlows s).find? (fun q => q.1 != n && flowKey7 q.2.recd == flowKey7 (flow s n).recd) = none) :
    opRelearn n o tag s = done (setFlow s n { flow s n with learnt := false, relearn := true }) := by
  simp only [opRelearn, hst, halone, Nat.not_le.mpr hn, if_false]

/-- What SET_KEYS makes of a flow: KEY_B is promoted first when it is in use. -/
def keysSet (x : Flow) (o : List Byte) : Flow :=
  { x with keyA := if usesB x then x.keyB else x.keyA, keyB := leAt o 0 2, sw := leAt o 8 8 }

theorem opSetKeys_done {s : State} {o : List Byte} {n : Nat} (tag : Nat) (hn : n < 4096) (hst : (flow s n).st ≠ 0)
    (hidx : leAt o 8 8 < 2 ^ 48)
    (hkey : leAt o 0 2 = 0xFFFF ∨ (leAt o 0 2 < 8192 ∧ (tget s.keys (leAt o 0 2)).isSome = true)) :
    opSetKeys n o tag s = done (setFlow s n (keysSet (flow s n) o)) := by
  have hrange : (decide (8191 < leAt o 0 2) && leAt o 0 2 != 0xFFFF) = false := by
    rcases hkey with h | ⟨h, -⟩
    · rw [h, bne_self_eq_false, Bool.and_false]
    · rw [decide_eq_false (by omega), Bool.false_and]
  have hslot : (leAt o 0 2 != 0xFFFF && (tget s.keys (leAt o 0 2)).isNone) = false := by
    rcases hkey with h | ⟨-, h⟩
    · simp [h]
    · simp [← Option.not_isSome, h]
  simp only [opSetKeys, hst, hrange, hslot, Nat.not_le.mpr hn, Nat.not_le.mpr hidx, if_false, Bool.false_eq_true]
  rfl

/-- KEY_B is in use exactly when there is one and the highest accepted index has reached SWITCH_INDEX (R92). -/
theorem usesB_iff (x : Flow) : usesB x = true ↔ x.keyB ≠ 0xFFFF ∧ ∃ h, x.hi = some h ∧ x.sw ≤ trueIdx h := by
  cases hhi : x.hi <;> simp [usesB, hhi]

/-! ### The commands -/

/-- Settles O18: each command's operation answers what its conditions say; KEY_LOAD runs with the staging cleared. -/
theorem keyCommands : Obligations.KeyCommands := by
  unfold Obligations.KeyCommands
  refine ⟨?_, ?_, ?_, ?_, ?_⟩
  · intro s m tag n htake hn hbad
    have hrun := opKeyLoad_done (s := portResult (stageCleared s) .flow tag 0xF 0) tag hn hbad
    obtain ⟨_, hframe⟩ := stageCleared_frame s
    refine ⟨_, keyLoad_answers htake hrun, resultAt_portResult _ _ _ _ _, tget_tset _ _ _, fun k hk => ?_,
      fun k hk => ?_, ?_⟩
    · exact (tget_tset_ne _ _ hk.symm).trans (by rw [hframe]; rfl)
    · rw [portResult_flow_below _ _ _ _ (by omega)]
      exact (portResult_flow_below _ _ _ _ (by omega) _).trans (stageCleared_zero s hk)
    · rw [hframe]
      rfl
  · intro s m tag n htake hn hfree
    have hrun := opKeyErase_done (s := portResult s .flow tag 0xF 0) (staged s .flow) tag hn hfree
    exact ⟨_, flowCmd_answers htake (by decide) hrun, resultAt_portResult _ _ _ _ _, tget_tdel _ _,
      fun k hk => tget_tdel_ne _ hk.symm, rfl⟩
  · intro s m tag n f htake hn hused
    have hrun := opKeyErase_used (s := portResult s .flow tag 0xF 0) (staged s .flow) tag hn hused
    exact ⟨_, flowCmd_answers htake (by decide) hrun, resultAt_portResult _ _ _ _ _, rfl⟩
  · intro s m tag n htake hn hst halone
    have hrun := opRelearn_done (s := portResult s .flow tag 0xF 0) (staged s .flow) tag hn hst halone
    exact ⟨_, flowCmd_answers htake (by decide) hrun, resultAt_portResult _ _ _ _ _, flow_setFlow _ _ _,
      fun k hk => flow_setFlow_ne _ _ hk⟩
  · intro s m tag n htake hn hst hidx hkey
    have hrun := opSetKeys_done (s := portResult s .flow tag 0xF 0) tag hn hst hidx hkey
    refine ⟨_, flowCmd_answers htake (by decide) hrun, resultAt_portResult _ _ _ _ _, ?_⟩
    simp only [flow_portResult, flow_setFlow, ← usesB_iff]
    exact ⟨rfl, rfl, fun h => if_pos h, fun h => if_neg h, fun k hk => flow_setFlow_ne _ _ hk, rfl⟩

end Sys2Proof.Machine
end

section
/-!
PROOF. Links and cages: O19.
-/
namespace Sys2Proof.Machine

/-! ### Stored words -/

@[simp] theorem rawR_putR (s : State) (p o : Nat) (w : Word) : rawR (putR s p o w) p o = w := tgetD_tset _ _ _ _

/-- A voted register's value is the majority of its copies. -/
theorem getR_of_rvs {s : State} {p o : Nat} {x : Tri} (h : tget s.rvs (rkey p o) = some x) : getR s p o = x.maj := by
  rw [getR, h]

theorem bits_word (n : Nat) {hi lo : Nat} (hhi : hi < 32) (hlo : lo ≤ hi) : bits (word n) hi lo = bitsN n hi lo := by
  refine Nat.eq_of_testBit_eq fun i => ?_
  simp only [bits, bitsN, Nat.testBit_mod_two_pow, Nat.testBit_shiftRight]
  by_cases h : i < hi + 1 - lo
  · exact congrArg _ (getLsbD_word n (by omega))
  · simp [h]

/-! ### Links (R80) -/

/-- PORT_LINK with the UP bit and the FEC bit of link k of the cage replaced. -/
def linkWord (w : Word) (k : Nat) (up fec : Bool) : Word := setBits (setBits w k k (b2n up)) (8 + k) (8 + k) (b2n fec)

theorem bit_linkWord (w : Word) (k : Nat) (up fec : Bool) {j : Nat} (hj : j < 32) :
    bit (linkWord w k up fec) j = if j = 8 + k then fec else if j = k then up else bit w j := by
  rw [linkWord, bit_setBits_one _ _ hj, bit_setBits_one _ _ hj]

theorem linkUpOn_taken {s : State} {p : Nat} (fec : Bool) (hp : lportPresent s p = true) (hr : ready s (lportPage p) = true)
    (hm : modState s (p / 4) = 2) :
    linkUpOn s p fec = putR s (lportPage p) 0x104 (linkWord (getR s (lportPage p) 0x104) (p % 4) true fec) := by
  simp only [linkUpOn, hp, hr, hm, decide_true, Bool.and_self, if_true]
  rfl

theorem linkDownOn_up {s : State} {p : Nat} (h : linkUp s p = true) :
    linkDownOn s p = bump (putR s (lportPage p) 0x104 (linkWord (getR s (lportPage p) 0x104) (p % 4) false false))
      (lportPage p) 7 := by
  simp only [linkDownOn, h, if_true]
  rfl

theorem linkDownOn_down {s : State} {p : Nat} (h : linkUp s p = false) : linkDownOn s p = s := by
  simp only [linkDownOn, h, Bool.false_eq_true, if_false]

/-- A link that goes down changes PORT_LINK and counts; voted registers, port modes and flows are as they were. -/
theorem linkDownOn_ketFrame (s : State) (p : Nat) : KetFrame s (linkDownOn s p) := by
  cases h : linkUp s p
  · rw [linkDownOn_down h]
    exact .refl s
  · rw [linkDownOn_up h]
    exact (putR_ketFrame s _ _ _).trans (bump_ketFrame _ _ _)

/-- The page of an up port is a cage's. -/
theorem lportPage_of_linkUp {s : State} {p : Nat} (h : linkUp s p = true) : 0x170 ≤ lportPage p ∧ lportPage p < 0x172 := by
  simp only [linkUp, lportPresent, Bool.and_eq_true, decide_eq_true_eq] at h
  obtain ⟨⟨hp, -⟩, -⟩ := h
  unfold lportPage
  omega

/-- A link that goes down clears its bits of PORT_LINK and counts in CNT7 (R80). -/
theorem linkDownOn_facts {s : State} {p : Nat} (h : linkUp s p = true) :
    rawR (linkDownOn s p) (lportPage p) 0x104 = linkWord (getR s (lportPage p) 0x104) (p % 4) false false ∧
      tgetD (blk (linkDownOn s p) (lportPage p)).cnt 7 0 = satInc (tgetD (blk s (lportPage p)).cnt 7 0) := by
  obtain ⟨hge, hlt⟩ := lportPage_of_linkUp h
  rw [linkDownOn_up h]
  constructor
  · rw [rawR, (bump_pbaOnly _ _ _).word _ (by omega) (by omega)]
    exact tgetD_tset _ _ _ _
  · rw [bump_cnt _ _ _ (by omega), blk_putR]

/-- Taking a link down leaves the other links of its cage as they were. -/
theorem linkUp_linkDownOn {s : State} {p q : Nat} (hv : tget s.rvs (rkey (lportPage p) 0x104) = none)
    (hpage : lportPage q = lportPage p) : linkUp (linkDownOn s p) q = (linkUp s q && decide (q ≠ p)) := by
  cases h : linkUp s p
  · rw [linkDownOn_down h]
    by_cases e : q = p <;> simp [e, h]
  · have hframe := linkDownOn_ketFrame s p
    have hreg : getR (linkDownOn s p) (lportPage p) 0x104 = linkWord (getR s (lportPage p) 0x104) (p % 4) false false := by
      rw [getR, hframe.rvs, hv]
      exact (linkDownOn_facts h).1
    have hpresent : lportPresent (linkDownOn s p) q = lportPresent s q := by
      rw [lportPresent, lportPresent, breakout, breakout, hframe.portMode]
    have hsame : q % 4 = p % 4 ↔ q = p := by unfold lportPage at hpage; omega
    rw [linkUp, linkUp, hpage, hreg, hpresent, bit_linkWord _ _ _ _ (by omega), if_neg (by omega)]
    by_cases e : q = p <;> simp [hsame, e]

/-- The first k links of a cage taken down. -/
def linksDown (s : State) (cage k : Nat) : State := forN k (fun l u => linkDownOn u (4 * cage + l)) s

theorem linksDown_ketFrame (s : State) (cage k : Nat) : KetFrame s (linksDown s cage k) :=
  forN_keeps (KetFrame s) _ k (fun _ _ _ hu => hu.trans (linkDownOn_ketFrame _ _)) (.refl s)

theorem linkUp_linksDown {s : State} {cage l : Nat} (hv : tget s.rvs (rkey (0x170 + cage) 0x104) = none) (hl : l < 4)
    (k : Nat) (hk : k ≤ 4) : linkUp (linksDown s cage k) (4 * cage + l) = (linkUp s (4 * cage + l) && decide (k ≤ l)) := by
  induction k with
  | zero => simp [linksDown, forN]
  | succ k ih =>
    have hpage : ∀ i, i < 4 → lportPage (4 * cage + i) = 0x170 + cage := fun i hi => by unfold lportPage; omega
    have hrvs : (linksDown s cage k).rvs = s.rvs := (linksDown_ketFrame s cage k).rvs
    have hstep : linksDown s cage (k + 1) = linkDownOn (linksDown s cage k) (4 * cage + k) := rfl
    rw [hstep, linkUp_linkDownOn (by rw [hpage k hk, hrvs, hv]) (by rw [hpage l hl, hpage k hk]), ih (by omega),
      Bool.and_assoc, ← Bool.decide_and]
    exact congrArg _ (decide_eq_decide.mpr (by omega))

/-! ### PORT_CTRL (R80) -/

/-- Applying PORT_CTRL puts the register's value into force and leaves the voted registers as they were. -/
theorem portModeApply_facts {s : State} {cage : Nat} {x : Tri} (hx : tget s.rvs (rkey (0x170 + cage) 0x100) = some x) :
    (portModeApply s cage).rvs = s.rvs ∧ tgetD (portModeApply s cage).portMode cage 0 = x.maj := by
  unfold portModeApply
  dsimp only
  generalize hu : (if bit (getR s (0x170 + cage) 0x100) 0 = true then s else
    forN 3 (fun l s => linkDownOn s (4 * cage + l + 1)) s) = u
  have hframe : KetFrame s u := by
    rw [← hu]
    split
    · exact .refl s
    · exact forN_keeps (KetFrame s) _ 3 (fun _ _ _ h => h.trans (linkDownOn_ketFrame _ _)) (.refl s)
  rw [getR_of_rvs (x := x) (by rw [hframe.rvs, hx])]
  refine List.foldlRecOn (motive := fun t : State => t.rvs = s.rvs ∧ tgetD t.portMode cage 0 = x.maj) _ _
    ⟨hframe.rvs, tgetD_tset _ _ _ _⟩ (fun t ht q _ => ?_)
  obtain ⟨-, hmode, hrvs⟩ := flowEnd_same t q.1
  split
  · rw [hrvs, hmode]
    exact ht
  · exact ht

/-- A write of PORT_CTRL is kept in the register; it is in force at once only while the page is QUIESCED. -/
theorem portCtrlWrite_facts (s : State) (cage : Nat) (v : Word) :
    getR (portCtrlWrite s cage v) (0x170 + cage) 0x100 = v &&& 0x3D#32 ∧
      ((blk s (0x170 + cage)).st = .quiesced → tgetD (portCtrlWrite s cage v).portMode cage 0 = v &&& 0x3D#32) ∧
      ((blk s (0x170 + cage)).st ≠ .quiesced →
        (portCtrlWrite s cage v).portMode = s.portMode ∧ (portCtrlWrite s cage v).flows = s.flows) := by
  have hreg : tget (putRV s (0x170 + cage) 0x100 (v &&& 0x3D#32)).rvs (rkey (0x170 + cage) 0x100) =
      some (Tri.all (v &&& 0x3D#32)) := tget_tset _ _ _
  by_cases h : (blk s (0x170 + cage)).st = .quiesced
  · have happly : portCtrlWrite s cage v = portModeApply (putRV s (0x170 + cage) 0x100 (v &&& 0x3D#32)) cage := if_pos h
    obtain ⟨hrvs, hmode⟩ := portModeApply_facts hreg
    rw [happly, getR_of_rvs (by rw [hrvs, hreg]), maj_all]
    exact ⟨rfl, fun _ => by rw [hmode, maj_all], fun e => absurd h e⟩
  · have hheld : portCtrlWrite s cage v = putRV s (0x170 + cage) 0x100 (v &&& 0x3D#32) := if_neg h
    rw [hheld, getR_putRV]
    exact ⟨rfl, fun e => absurd e h, fun _ => ⟨rfl, rfl⟩⟩

/-! ### QSFP28 modules (R558) -/

/-- Fields of PORT_MOD: temperature, power class and STATE. -/
theorem bits_moduleWord {temp cls st : Nat} (ht : temp < 256) (hc : cls < 16) (hs : st < 16) :
    bits (word (temp <<< 24 ||| cls <<< 16 ||| st)) 3 0 = st ∧ bits (word (temp <<< 24 ||| cls <<< 16 ||| st)) 19 16 = cls ∧
      bits (word (temp <<< 24 ||| cls <<< 16 ||| st)) 31 24 = temp := by
  have hlow : cls <<< 16 ||| st = cls * 2 ^ 16 + st := by
    rw [← Nat.shiftLeft_add_eq_or_of_lt (show st < 2 ^ 16 by omega), Nat.shiftLeft_eq]
  have hsum : temp <<< 24 ||| cls <<< 16 ||| st = temp * 2 ^ 24 + (cls * 2 ^ 16 + st) := by
    rw [Nat.or_assoc, hlow, ← Nat.shiftLeft_add_eq_or_of_lt (show cls * 2 ^ 16 + st < 2 ^ 24 by omega), Nat.shiftLeft_eq]
  rw [bits_word _ (by omega) (by omega), bits_word _ (by omega) (by omega), bits_word _ (by omega) (by omega), hsum]
  simp only [bitsN, Nat.shiftRight_eq_div_pow]
  omega

/-- PORT_MOD.STATE that an inserted module shows: active, refused or unreadable. -/
def moduleState (cls : Nat) (readable : Bool) : Nat := if readable then (if 1 ≤ cls ∧ cls ≤ 4 then 2 else 3) else 4

theorem moduleState_lt (cls : Nat) (readable : Bool) : moduleState cls readable < 16 := by
  unfold moduleState
  split
  · split <;> omega
  · omega

theorem qsfpIdentify_taken {s : State} {cage cls temp : Nat} (readable : Bool) (hcage : cage < 2) (hcls : cls < 16)
    (htemp : temp < 256) (hr : ready s (0x170 + cage) = true) :
    qsfpIdentify s cage cls temp readable = putR s (0x170 + cage) 0x108
      (word (temp <<< 24 ||| (if readable then cls else 0) <<< 16 ||| moduleState cls readable)) := by
  cases readable <;> simp [qsfpIdentify, moduleState, hcage, hr, Nat.mod_eq_of_lt hcls, Nat.mod_eq_of_lt htemp]

/-! ### The commands -/

theorem execPortModeWrite_reaches {s : State} {m : Master} {cage : Nat} (v : Word) (hc : cage < 2)
    (hr : reaches s m (0x170 + cage) 0x100 = true) : execPortModeWrite m cage v s = .next (portCtrlWrite s cage v) := by
  rw [execPortModeWrite, if_neg (by omega), guarded_reaches _ _ _ _ _ hr]

theorem execQsfpRemove_cage (s : State) {cage : Nat} (hc : cage < 2) :
    execQsfpRemove cage s = .next (putR (linksDown s cage 4) (0x170 + cage) 0x108 0) := by
  rw [execQsfpRemove, if_pos hc, linksDown]

/-- Settles O19: the port mode, a link that comes up or goes down, and a module that is inserted or removed. -/
theorem linksAndCages : Obligations.LinksAndCages := by
  unfold Obligations.LinksAndCages
  refine ⟨?_, ?_, ?_, ?_, ?_⟩
  · intro s m cage v hc hr
    exact ⟨_, execPortModeWrite_reaches v hc hr, portCtrlWrite_facts s cage v⟩
  · intro s p fec hp hr hm
    refine ⟨_, congrArg Host.Outcome.next (linkUpOn_taken fec hp hr hm), ?_⟩
    rw [rawR_putR, bit_linkWord _ _ _ _ (by omega), bit_linkWord _ _ _ _ (by omega)]
    refine ⟨?_, by rw [if_pos rfl], fun k hk hne => ?_, rfl⟩
    · rw [if_neg (by omega), if_pos rfl]
    · rw [bit_linkWord _ _ _ _ (by omega), if_neg (by omega), if_neg hne]
  · intro s p hup
    obtain ⟨hreg, hcnt⟩ := linkDownOn_facts hup
    refine ⟨_, rfl, ?_, ?_, hcnt⟩
    · rw [hreg, bit_linkWord _ _ _ _ (by omega), if_neg (by omega), if_pos rfl]
    · rw [hreg, bit_linkWord _ _ _ _ (by omega), if_pos rfl]
  · intro s cage cls temp readable hcage hcls htemp hr
    have hclass : (if readable then cls else 0) < 16 := by split <;> omega
    obtain ⟨hstate, hcl, htmp⟩ := bits_moduleWord htemp hclass (moduleState_lt cls readable)
    refine ⟨_, congrArg Host.Outcome.next (qsfpIdentify_taken readable hcage hcls htemp hr), ?_⟩
    rw [rawR_putR]
    exact ⟨hstate, hcl, htmp, rfl⟩
  · intro s cage hcage hv
    refine ⟨_, execQsfpRemove_cage s hcage, rawR_putR _ _ _ _, fun l hl => ?_⟩
    have hdown := linkUp_linksDown hv hl 4 (Nat.le_refl 4)
    rw [decide_eq_false (by omega), Bool.and_false] at hdown
    rw [← hdown, linkUp, linkUp, getR_putR_ne _ _ (by unfold rkey lportPage; omega)]
    rfl

end Sys2Proof.Machine
end

section
/-!
PROOF. The timebase's discipline: O21.
-/
namespace Sys2Proof.Machine

/-! ### TB_STATUS and steps (R102, R103) -/

/-- TB_STATUS.STATE as set. -/
theorem tbSt_state (s : State) {v : Nat} (hv : v < 16) : bits (rawR (tbSt s v) 0x1F0 0x104) 3 0 = v := by
  rw [tbSt, rawR_putR, bits_setBits _ _ (by decide)]
  exact Nat.mod_eq_of_lt hv

theorem edgeMake_time (s : State) (e : Nat) : (edgeMake s e).tb.t = s.tb.t := by
  unfold edgeMake
  split <;> rfl

/-- A step moves the timebase by the offset; an edge it passes does not move it again. -/
theorem tbStep_time (s : State) (d : Int) : (tbStep s d).tb.t = BitVec.ofNat 64 (((now s : Int) + d).toNat) := by
  unfold tbStep
  dsimp only
  split
  · exact edgeMake_time _ _
  · rfl

/-! ### The servo -/

/-- An offset makes a step: in LOCKING, or at 1 ms or more (R103). -/
def stepDue (s : State) (d : Int) : Prop := tbState s = 1 ∨ Config.tMs ≤ d.natAbs

theorem servo_steps {s : State} {f : TbFact} {d : Int} (hd : f.offset = some d) (h : stepDue s d) :
    servo s f = tbSt (tbStep s d) 2 := by
  simp only [servo, hd]
  rw [if_pos (by simpa [stepDue] using h)]

theorem servo_slews {s : State} {f : TbFact} {d : Int} (hd : f.offset = some d) (h : ¬ stepDue s d) :
    servo s f = tbSt { s with tb := { s.tb with freq := max (-500000000) (min 500000000 f.freq) } } 2 := by
  simp only [servo, hd]
  rw [if_neg (by simpa [stepDue] using h)]

/-- A disciplined timebase is LOCKED; it stepped by the offset, or only its frequency changed, within 500 ppm. -/
theorem servo_facts {s : State} {f : TbFact} {d : Int} (hd : f.offset = some d) :
    bits (rawR (servo s f) 0x1F0 0x104) 3 0 = 2 ∧
      (stepDue s d → (servo s f).tb.t = BitVec.ofNat 64 (((now s : Int) + d).toNat)) ∧
      (¬ stepDue s d → (servo s f).tb.t = s.tb.t ∧ -500000000 ≤ (servo s f).tb.freq ∧ (servo s f).tb.freq ≤ 500000000) := by
  by_cases h : stepDue s d
  · rw [servo_steps hd h]
    exact ⟨tbSt_state _ (by decide), fun _ => tbStep_time s d, fun e => absurd h e⟩
  · rw [servo_slews hd h]
    exact ⟨tbSt_state _ (by decide), fun e => absurd e h, fun _ => ⟨rfl, Int.le_max_left _ _,
      Int.max_le.mpr ⟨by decide, Int.min_le_left _ _⟩⟩⟩

/-! ### TB_SRC (R102) -/

theorem tbSrcWrite_dropped {s : State} {v : Word} (h : bits v 1 0 = 3) : tbSrcWrite s v = s := if_pos h

theorem tbSrcWrite_same {s : State} {v : Word} (h3 : bits v 1 0 ≠ 3) (h : bits v 1 0 = bits (getR s 0x1F0 0x100) 1 0) :
    tbSrcWrite s v = putRV s 0x1F0 0x100 (v &&& 0x7F73#32) := by
  simp only [tbSrcWrite]
  rw [if_neg h3, if_pos h]

/-- TB_SRC written with another SOURCE, from when on Sync messages are awaited. -/
def srcChanged (s : State) (v : Word) : State :=
  { putRV s 0x1F0 0x100 (v &&& 0x7F73#32) with tb := { s.tb with lastSync := now s } }

theorem tbSrcWrite_changed {s : State} {v : Word} (h3 : bits v 1 0 ≠ 3) (h : bits v 1 0 ≠ bits (getR s 0x1F0 0x100) 1 0) :
    tbSrcWrite s v = tbSt (srcChanged s v) (if bits v 1 0 = 0 then 0 else 1) := by
  simp only [tbSrcWrite]
  rw [if_neg h3, if_neg h]
  rfl

/-- A write of TB_SRC that is not dropped is kept; STATE follows a change of SOURCE, and the time goes on. -/
theorem tbSrcWrite_facts {s : State} {v : Word} (h3 : bits v 1 0 ≠ 3) :
    getR (tbSrcWrite s v) 0x1F0 0x100 = v &&& 0x7F73#32 ∧ (tbSrcWrite s v).tb.t = s.tb.t ∧
      (bits v 1 0 = bits (getR s 0x1F0 0x100) 1 0 → (tbSrcWrite s v).regs = s.regs) ∧
      (bits v 1 0 ≠ bits (getR s 0x1F0 0x100) 1 0 →
        bits (rawR (tbSrcWrite s v) 0x1F0 0x104) 3 0 = if bits v 1 0 = 0 then 0 else 1) := by
  by_cases h : bits v 1 0 = bits (getR s 0x1F0 0x100) 1 0
  · rw [tbSrcWrite_same h3 h]
    exact ⟨getR_putRV _ _ _ _, rfl, fun _ => rfl, fun e => absurd h e⟩
  · rw [tbSrcWrite_changed h3 h]
    refine ⟨?_, rfl, fun e => absurd e h, fun _ => tbSt_state _ (by split <;> decide)⟩
    exact (getR_putR_ne _ _ (by decide)).trans (getR_putRV s 0x1F0 0x100 _)

/-! ### The commands -/

/-- Leap seconds that came with a PTP message. -/
def leapNoted (s : State) (f : TbFact) : State := { s with life := { s.life with leap := f.leap.getD s.life.leap } }

/-- A Sync message restarts the wait of R103. -/
def syncNoted (s : State) (f : TbFact) : State := if f.sync then { s with tb := { s.tb with lastSync := now s } } else s

theorem syncNoted_same (s : State) (f : TbFact) :
    (syncNoted s f).regs = s.regs ∧ (syncNoted s f).tb.t = s.tb.t ∧ (syncNoted s f).tb.freq = s.tb.freq := by
  unfold syncNoted
  split <;> exact ⟨rfl, rfl, rfl⟩

theorem execPtpMessageReceive_taken {s : State} {f : TbFact} (hr : ready s 0x1F0 = true)
    (hsrc : bits (getR s 0x1F0 0x100) 1 0 = 1) (hport : bits (getR s 0x1F0 0x100) 6 4 = f.port)
    (hdom : bits (getR s 0x1F0 0x100) 14 8 = f.domain) (hup : bit (getR s (0x170 + f.port / 4) 0x104) (f.port % 4) = true) :
    execPtpMessageReceive f s = .next (syncNoted (servo (leapNoted s f) f) f) := by
  have htaken : (!ready s 0x1F0 || bits (getR s 0x1F0 0x100) 1 0 != 1 || bits (getR s 0x1F0 0x100) 6 4 != f.port ||
      bits (getR s 0x1F0 0x100) 14 8 != f.domain ||
      !bit (getR s (0x170 + f.port / 4) 0x104) (f.port % 4)) = false := by simp [hr, hsrc, hport, hdom, hup]
  unfold execPtpMessageReceive syncNoted leapNoted
  dsimp only
  rw [htaken, if_neg Bool.false_ne_true]
  cases f.leap <;> rfl

theorem execPtmUpdate_taken {s : State} (f : TbFact) (hr : ready s 0x1F0 = true) (hsrc : bits (getR s 0x1F0 0x100) 1 0 = 2)
    (hfn : fnReady s 2 = true) (hlink : s.pcie.link = 2) (hptm : s.pcie.ptmEn = true) :
    execPtmUpdate f s = .next (servo s f) := by
  simp only [execPtmUpdate, hr, hsrc, hfn, hlink, hptm, decide_true, Bool.and_self, if_true]

theorem execPtpSyncTimeout_due {s : State} (hr : ready s 0x1F0 = true) (hsrc : bits (getR s 0x1F0 0x100) 1 0 = 1)
    (hage : s.tb.lastSync + 10 * Config.tSec ≤ now s) : execPtpSyncTimeout s = .next (tbSt s 3) := by
  simp only [execPtpSyncTimeout, hr, hsrc, hage, decide_true, Bool.and_self, if_true]

theorem execTbSrcWrite_reaches {s : State} {m : Master} (v : Word) (hr : reaches s m 0x1F0 0x100 = true) :
    execTbSrcWrite m v s = .next (tbSrcWrite s v) := by
  rw [execTbSrcWrite, guarded_reaches _ _ _ _ _ hr]

/-- Settles O21: writes of TB_SRC, an offset by PTP and by PTM, and holdover. -/
theorem timebaseDiscipline : Obligations.TimebaseDiscipline := by
  unfold Obligations.TimebaseDiscipline
  refine ⟨?_, ?_, ?_, ?_⟩
  · intro s m v hr
    have hexec := execTbSrcWrite_reaches v hr
    exact ⟨fun h3 => hexec.trans (congrArg _ (tbSrcWrite_dropped h3)), fun h3 => ⟨_, hexec, tbSrcWrite_facts h3⟩⟩
  · intro s f d hr hsrc hport hdom hup hd
    obtain ⟨hstate, hstep, hslew⟩ := servo_facts (s := leapNoted s f) hd
    obtain ⟨hregs, htime, hfreq⟩ := syncNoted_same (servo (leapNoted s f) f) f
    refine ⟨_, execPtpMessageReceive_taken hr hsrc hport hdom hup, ?_, ?_, ?_⟩
    · rw [rawR, hregs]
      exact hstate
    · rw [htime]
      exact hstep
    · rw [htime, hfreq]
      exact hslew
  · intro s f d hr hsrc hfn hlink hptm hd
    obtain ⟨hstate, hstep, -⟩ := servo_facts (s := s) hd
    exact ⟨_, execPtmUpdate_taken f hr hsrc hfn hlink hptm, hstate, hstep⟩
  · intro s hr hsrc hage
    exact ⟨_, execPtpSyncTimeout_due hr hsrc hage, tbSt_state s (by decide), rfl, rfl⟩

end Sys2Proof.Machine
end

section
/-!
PROOF. The streams' side of the state: streams, frames at the scaler and decoders. Memory, registers, block operations,
event entries and messages leave it alone; grants of blocks to waiting streams change nothing of a stream but its two blocks
(R118).
-/
namespace Sys2Proof.Machine

/-! ### What leaves the streams' side alone -/

/-- Streams, the frames at the scaler and the decoders. -/
def streamSide (s : State) : Tbl Stm × List SFrame × Tbl Dec := (s.stms, s.sframes, s.decs)

/-- A loop over a list leaves the streams' side alone when each of its steps does. -/
theorem foldl_streamSide {α β : Type} (p : β → State) (f : β → α → β) (l : List α)
    (hf : ∀ u x, streamSide (p (f u x)) = streamSide (p u)) (b : β) : streamSide (p (l.foldl f b)) = streamSide (p b) :=
  List.foldlRecOn (motive := fun u => streamSide (p u) = streamSide (p b)) l f rfl (fun u hu x _ => (hf u x).trans hu)

@[simp] theorem bump_streamSide (s : State) (p n : Nat) : streamSide (bump s p n) = streamSide s := by simp [streamSide]

@[simp] theorem putR_streamSide (s : State) (p o : Nat) (w : Word) : streamSide (putR s p o w) = streamSide s := rfl

@[simp] theorem putR64_streamSide (s : State) (p o n : Nat) : streamSide (putR64 s p o n) = streamSide s := rfl

@[simp] theorem wrMem_streamSide (s : State) (a : Nat) (l : List Byte) : streamSide (wrMem s a l) = streamSide s := rfl

@[simp] theorem setPool_streamSide (s : State) (pn : Nat) (p : KPool) : streamSide (setPool s pn p) = streamSide s := rfl

@[simp] theorem msixReq_streamSide (s : State) (v : Nat) : streamSide (msixReq s v) = streamSide s := by simp [streamSide]

@[simp] theorem logRec_streamSide (s : State) (kind code orig flags id page desc detail : Nat) :
    streamSide (logRec s kind code orig flags id page desc detail) = streamSide s := by simp [streamSide]

@[simp] theorem holdFault_streamSide (s : State) (page code space id : Nat) :
    streamSide (holdFault s page code space id) = streamSide s := by simp [streamSide]

@[simp] theorem ctxFault_streamSide (s : State) (n code page desc : Nat) :
    streamSide (ctxFault s n code page desc) = streamSide s := by simp [streamSide]

/-! ### Device and host memory (R415-R419, R454) -/

@[simp] theorem eccRecord_streamSide (s : State) (a kind nbytes source : Nat) :
    streamSide (eccRecord s a kind nbytes source) = streamSide s := by
  unfold eccRecord
  dsimp only
  split <;> simp

@[simp] theorem freeBytes_streamSide (s : State) (n : Nat) : streamSide (freeBytes s n).2 = streamSide s := by
  induction n generalizing s with
  | zero => rfl
  | succ n ih => exact ih { s with free := s.free + 1 }

@[simp] theorem eccSector_streamSide (s : State) (source sec : Nat) :
    streamSide (eccSector s source sec).1 = streamSide s := by
  unfold eccSector
  split
  · rfl
  · split
    · rfl
    · split
      · exact eccRecord_streamSide _ _ _ _ _
      · dsimp only
        split
        · exact (eccRecord_streamSide _ _ _ _ _).trans (freeBytes_streamSide _ 64)
        · exact eccRecord_streamSide _ _ _ _ _

@[simp] theorem granTouches_streamSide (s : State) (a n : Nat) : streamSide (granTouches s a n) = streamSide s := by
  induction n with
  | zero => rfl
  | succ n ih => exact ih

@[simp] theorem wrGddr_streamSide (s : State) (a : Nat) (l : List Byte) : streamSide (wrGddr s a l).1 = streamSide s := by
  have hparts : ∀ (u : State) (secs : List Nat), streamSide (secs.foldl (fun (acc : State × Bool) sec =>
      (bump (eccSector acc.1 2 sec).1 (0x140 + chanOf (sec * 64)) 5, acc.2 || (eccSector acc.1 2 sec).2)) (u, false)).1 =
      streamSide u := fun u secs => foldl_streamSide Prod.fst _ secs (fun _ _ => by simp) (u, false)
  have hall := fun secs => (hparts (granTouches s a (granSpan a l.length)) secs).trans (granTouches_streamSide s _ _)
  unfold wrGddr
  extract_lets u first lastEnd partSecs r
  split
  · exact granTouches_streamSide _ _ _
  · split
    · exact hall partSecs
    · exact hall partSecs

@[simp] theorem hostPut_streamSide (s : State) (p : Nat) (l : List Byte) : streamSide (hostPut s p l) = streamSide s := by
  unfold hostPut
  split <;> rfl

@[simp] theorem unitWrite_streamSide (s : State) (a : Nat) (l : List Byte) :
    streamSide (unitWrite s a l).1 = streamSide s := by
  unfold unitWrite
  split
  · exact wrGddr_streamSide s a l
  · rfl
  · split
    · exact bump_streamSide _ _ _
    · split
      · exact bump_streamSide _ _ _
      · exact hostPut_streamSide _ _ _
  · split
    · exact hostPut_streamSide _ _ _
    · rfl
  · rfl

/-- An entry of the stream event ring (R495). -/
@[simp] theorem evtEntry_streamSide (s : State) (code detail n frameNo : Nat) :
    streamSide (evtEntry s code detail n frameNo) = streamSide s := by
  unfold evtEntry
  dsimp only
  split
  · exact bump_streamSide _ _ _
  · split <;> simp

/-! ### Kettle (R433-R439) -/

@[simp] theorem setOwners_streamSide (s : State) (pn : Nat) (p : KPool) (b : Nat) (es : List Own) :
    streamSide (setOwners s pn p b es) = streamSide s :=
  ((wrMem_streamSide _ _ _).trans ((wrMem_streamSide _ _ _).trans (wrMem_streamSide _ _ _))).trans (setPool_streamSide s pn _)

@[simp] theorem ketFault_streamSide (s : State) (code space id : Nat) :
    streamSide (ketFault s code space id) = streamSide s := by
  unfold ketFault
  dsimp only
  split <;> simp

@[simp] theorem ketTouch_streamSide (s : State) (pn b : Nat) : streamSide (ketTouch s pn b) = streamSide s := by
  have hread : ∀ l : List Nat, streamSide (l.foldl (fun (acc : State × Bool) a =>
      ((eccSector acc.1 0 (a / 64)).1, acc.2 || (eccSector acc.1 0 (a / 64)).2)) (s, false)).1 = streamSide s :=
    fun l => foldl_streamSide Prod.fst _ l (fun _ _ => by simp) (s, false)
  unfold ketTouch
  split
  · rfl
  · dsimp only
    split
    · exact hread _
    · exact hread _

@[simp] theorem ketTouchFree_streamSide (s : State) (pn : Nat) : streamSide (ketTouchFree s pn) = streamSide s := by
  unfold ketTouchFree
  split
  · rfl
  · split <;> simp

@[simp] theorem ketTouchPtr_streamSide (s : State) (ptr : Nat) : streamSide (ketTouchPtr s ptr) = streamSide s := by
  unfold ketTouchPtr
  split
  · split <;> simp
  · rfl

@[simp] theorem ketAlloc_streamSide (s : State) (pn space id cls n : Nat) :
    streamSide (ketAlloc s pn space id cls n).1 = streamSide s := by
  unfold ketAlloc
  refine Eq.trans ?_ (ketTouchFree_streamSide s pn)
  dsimp only
  generalize ketTouchFree s pn = u
  split
  · exact ketFault_streamSide u _ _ _
  · split
    · exact ketFault_streamSide u _ _ _
    · split
      · exact bump_streamSide u _ _
      · refine forN_keeps (fun acc : State × KRes => streamSide acc.1 = streamSide u) _ n (fun k _ acc hacc => ?_) rfl
        split
        · split
          · simpa using hacc
          · exact hacc
        · exact hacc
      · exact bump_streamSide u _ _

@[simp] theorem ketRelease_streamSide (s : State) (ptr space id : Nat) :
    streamSide (ketRelease s ptr space id).1 = streamSide s := by
  unfold ketRelease
  refine Eq.trans ?_ (ketTouchPtr_streamSide s ptr)
  dsimp only
  generalize ketTouchPtr s ptr = u
  split
  · exact ketFault_streamSide u _ _ _
  · split
    · dsimp only
      split
      · exact (bump_streamSide _ _ _).trans (setOwners_streamSide u _ _ _ _)
      · exact setOwners_streamSide u _ _ _ _
    · exact ketFault_streamSide u _ _ _

@[simp] theorem ketReleaseAll_streamSide (s : State) (space id : Nat) :
    streamSide (ketReleaseAll s space id) = streamSide s := by
  refine foldl_streamSide (p := fun u => u) _ _ (fun u pq => foldl_streamSide (p := fun u => u) _ _ (fun v be => ?_) u) s
  split
  · split
    · rfl
    · dsimp only
      split
      · exact (bump_streamSide _ _ _).trans (setOwners_streamSide v _ _ _ _)
      · exact setOwners_streamSide v _ _ _ _
  · rfl

@[simp] theorem stmAlloc_streamSide (s : State) (n pn : Nat) : streamSide (stmAlloc s n pn).1 = streamSide s := by
  have halloc := ketAlloc_streamSide s pn 2 n 1 1
  unfold stmAlloc
  split
  · rfl
  · split
    · next e => rw [e] at halloc; exact halloc
    · next e => rw [e] at halloc; exact halloc

/-! ### Messages to a peer (R539) -/

@[simp] theorem peerWrite_streamSide (s : State) (m : Nat) (msg : List Byte) :
    streamSide (peerWrite s m msg) = streamSide s := by
  have hput : ∀ (u : State) (o : Nat) (l : List Byte), streamSide (peerPut u m o l) = streamSide u := fun u o l => by
    unfold peerPut
    split <;> simp
  unfold peerWrite
  dsimp only
  rw [bump_streamSide]
  exact (hput _ _ _).trans (hput _ _ _)

@[simp] theorem peerSend_streamSide (s : State) (m ty : Nat) (body : List Byte) :
    streamSide (peerSend s m ty body) = streamSide s := by
  unfold peerSend
  dsimp only
  split
  · rw [bump_streamSide]
    rfl
  · rw [peerWrite_streamSide]
    rfl

end Sys2Proof.Machine
end

section
/-!
PROOF. Grants of blocks to waiting streams (R118, R378): whatever releases a block can change the two blocks that a stream
has for its next frame, and nothing else of streams, frames at the scaler and decoders.
-/
namespace Sys2Proof.Machine

/-! ### Streams as a table -/

@[simp] theorem stm_setStm (s : State) (n : Nat) (x : Stm) : stm (setStm s n x) n = x := by simp [stm, setStm]

theorem stm_setStm_ne (s : State) {n k : Nat} (x : Stm) (h : k ≠ n) : stm (setStm s n x) k = stm s k := by
  simp [stm, setStm, tgetD_tset_ne _ _ _ h.symm]

@[simp] theorem stm_updStm (s : State) (n : Nat) (f : Stm → Stm) : stm (updStm s n f) n = f (stm s n) := stm_setStm s n _

theorem stm_updStm_ne (s : State) {n k : Nat} (f : Stm → Stm) (h : k ≠ n) : stm (updStm s n f) k = stm s k :=
  stm_setStm_ne s _ h

theorem stm_congr {s t : State} (h : streamSide t = streamSide s) (k : Nat) : stm t k = stm s k := by
  rw [stm, stm, show t.stms = s.stms from congrArg Prod.fst h]

@[simp] theorem stm_portResult (s : State) (p : Port) (tag c d n : Nat) : stm (portResult s p tag c d) n = stm s n := rfl

/-! ### The frame -/

/-- A stream with other blocks for its next frame. -/
def Stm.withBlocks (x : Stm) (pic map : Option Nat) : Stm := { x with picBlk := pic, mapBlk := map }

/-- Streams differ in the blocks for their next frame at most; the frames at the scaler and the decoders are as they were. -/
structure Grants (s t : State) : Prop where
  stm : ∀ k, ∃ pic map, stm t k = (stm s k).withBlocks pic map
  sframes : t.sframes = s.sframes
  decs : t.decs = s.decs

theorem Grants.of_streamSide {s t : State} (h : streamSide t = streamSide s) : Grants s t :=
  ⟨fun k => ⟨_, _, stm_congr h k⟩, congrArg (fun q => q.2.1) h, congrArg (fun q => q.2.2) h⟩

theorem Grants.refl (s : State) : Grants s s := .of_streamSide rfl

theorem Grants.trans {s t u : State} (h : Grants s t) (k : Grants t u) : Grants s u := by
  refine ⟨fun n => ?_, k.sframes.trans h.sframes, k.decs.trans h.decs⟩
  obtain ⟨p, m, ht⟩ := h.stm n
  obtain ⟨q, l, hu⟩ := k.stm n
  exact ⟨q, l, by rw [hu, ht]; rfl⟩

theorem Grants.foldl {α : Type} (f : State → α → State) (l : List α) (hf : ∀ u x, Grants u (f u x)) (s : State) :
    Grants s (l.foldl f s) :=
  List.foldlRecOn l f (Grants.refl s) (fun u hu x _ => hu.trans (hf u x))

/-- The queue of a stream is as it was. -/
theorem Grants.queue {s t : State} (h : Grants s t) (k : Nat) : (Machine.stm t k).queue = (Machine.stm s k).queue := by
  obtain ⟨p, m, ht⟩ := h.stm k
  rw [ht]
  rfl

/-- A stream is granted blocks. -/
theorem updStm_grants (s : State) (n : Nat) (pic map : Stm → Option Nat) :
    Grants s (updStm s n (fun x => x.withBlocks (pic x) (map x))) := by
  refine ⟨fun k => ?_, rfl, rfl⟩
  by_cases h : k = n
  · subst h
    exact ⟨_, _, stm_updStm s k _⟩
  · exact ⟨_, _, stm_updStm_ne s _ h⟩

/-! ### Grants (R118) -/

/-- One block, when the stream lacks it, is asked for and given to the stream. -/
theorem stmAlloc_grants (s : State) (n pn : Nat) (has : Bool) (pic map : Option Nat → Stm → Option Nat) :
    Grants s (if has then s else
      updStm (stmAlloc s n pn).1 n (fun x => x.withBlocks (pic (stmAlloc s n pn).2 x) (map (stmAlloc s n pn).2 x))) := by
  split
  · exact .refl s
  · exact (Grants.of_streamSide (stmAlloc_streamSide s n pn)).trans (updStm_grants _ n _ _)

theorem stmTry1_grants (s : State) (n : Nat) : Grants s (stmTry1 s n) := by
  unfold stmTry1
  extract_lets x
  split
  · exact .refl s
  · exact (stmAlloc_grants s n x.picPool x.picBlk.isSome (fun b _ => b) (fun _ y => y.mapBlk)).trans
      (stmAlloc_grants _ n x.mapPool x.mapBlk.isSome (fun _ y => y.picBlk) (fun b _ => b))

theorem relBlock_grants (s : State) (ptr space id : Nat) : Grants s (relBlock s ptr space id) := by
  have hrel := Grants.of_streamSide (ketRelease_streamSide s ptr space id)
  unfold relBlock
  split
  · exact hrel
  · dsimp only
    split
    · exact hrel
    · split
      · exact hrel
      · split
        · exact hrel.trans (stmTry1_grants _ _)
        · exact hrel

theorem winRelease_grants (s : State) (n : Nat) (p : WinPic) : Grants s (winRelease s n p) := by
  unfold winRelease
  dsimp only
  split
  · exact .refl s
  · exact relBlock_grants s _ _ _

theorem updEvid_grants (s : State) (n : Nat) (f : Evid → Evid) : Grants s (updEvid s n f) := .of_streamSide rfl

theorem prerollRelease_grants (s : State) (n : Nat) : Grants s (prerollRelease s n).1 := by
  unfold prerollRelease
  dsimp only
  split
  · exact .refl s
  · split
    · exact .refl s
    · exact (updEvid_grants s n _).trans ((winRelease_grants _ n _).trans (.of_streamSide (bump_streamSide _ _ _)))

theorem stmTryK_grants (s : State) (n k : Nat) : Grants s (stmTryK s n k) := by
  induction k generalizing s with
  | zero => exact .refl s
  | succ k ih =>
    have hone := (stmTry1_grants s n).trans (prerollRelease_grants (stmTry1 s n) n)
    unfold stmTryK
    dsimp only
    split
    · split
      · exact hone.trans (ih _)
      · exact hone
    · exact stmTry1_grants s n

theorem stmTry_grants (s : State) (n : Nat) : Grants s (stmTry s n) := stmTryK_grants s n _

theorem poolGrant_grants (s : State) (pn k : Nat) : Grants s (poolGrant s pn k) := by
  induction k generalizing s with
  | zero => exact .refl s
  | succ k ih =>
    unfold poolGrant
    split
    · exact .refl s
    · next m _ _ =>
      dsimp only
      split
      · exact stmTry1_grants s m
      · exact (stmTry1_grants s m).trans (ih _)

theorem relAll_grants (s : State) (space id : Nat) : Grants s (relAll s space id) :=
  (Grants.of_streamSide (ketReleaseAll_streamSide s space id)).trans
    (.foldl _ _ (fun u pn => poolGrant_grants u pn 1024) _)

theorem auRelease_grants (s : State) (n : Nat) (a : Au) : Grants s (auRelease s n a) := by
  unfold auRelease
  split
  · exact .refl s
  · split
    · split
      · exact .of_streamSide (peerSend_streamSide _ _ _ _)
      · exact relBlock_grants _ _ _ _
    · exact relBlock_grants _ _ _ _

/-! ### Evidence (R377-R379, R390) -/

theorem encCplDrain_streamSide (s : State) (k : Nat) : streamSide (encCplDrain s k) = streamSide s := by
  have hwrite : ∀ (u v : State) r, encCplWrite u r = some v → streamSide v = streamSide u := fun u v r h => by
    unfold encCplWrite at h
    dsimp only at h
    split at h
    · cases h
    · split at h
      · cases h
        simp
      · cases h
  induction k generalizing s with
  | zero => rfl
  | succ k ih =>
    unfold encCplDrain
    split
    · rfl
    · split
      · next t e =>
        have ht : streamSide t = streamSide s := hwrite s t _ e
        exact (ih _).trans ht
      · rfl

theorem encComplete_grants (s : State) (r : List Byte) : Grants s (encComplete s r) :=
  .of_streamSide (encCplDrain_streamSide { s with encCpl := s.encCpl ++ [r] } _)

theorem clipEnd_grants (s : State) (n status : Nat) : Grants s (clipEnd s n status) := by
  unfold clipEnd
  extract_lets e s1
  split
  · exact .refl s
  · next c _ =>
    extract_lets x s2 s3 s4 s5 maxF s6
    have h1 : Grants s s1 := updEvid_grants s n _
    have h2 : Grants s1 s2 := by
      unfold s2
      split
      · split
        · exact .of_streamSide rfl
        · exact .refl _
      · exact .refl _
    have h3 : Grants s2 s3 := .of_streamSide (wrGddr_streamSide _ _ _)
    have h4 : Grants s3 s4 := .foldl _ _ (fun u b => relBlock_grants u b 4 2) _
    have h5 : Grants s4 s5 := .foldl _ _ (fun u p => winRelease_grants u n p) _
    have h6 : Grants s5 s6 := encComplete_grants _ _
    exact h1.trans <| h2.trans (h3.trans (h4.trans (h5.trans (h6.trans (.of_streamSide (bump_streamSide _ _ _))))))

theorem evidFlush_grants (s : State) (n status : Nat) : Grants s (evidFlush s n status) := by
  have hclip : Grants s (if (evid s n).clip.isSome then clipEnd s n status else s) := by
    split
    · exact clipEnd_grants s n status
    · exact .refl s
  exact hclip.trans ((updEvid_grants _ n _).trans (.foldl _ _ (fun u p => winRelease_grants u n p) _))

end Sys2Proof.Machine
end

section
/-!
PROOF. Decode queues: O23.
-/
namespace Sys2Proof.Machine

/-- A stream command, taken and carried out with a known answer. -/
theorem stmCmd_answers {s u : State} {m : Master} {op tag n c d : Nat} {run : POp} (h : portTakes s .stm m op n = true)
    (hr : run n (staged s .stm) tag (portResult s .stm tag 0xF 0) = (u, c, d)) :
    (.next (portCmd .stm m op tag n run s) : Host.Outcome State Fault Refusal) = .next (portResult u .stm tag c d) := by
  rw [portCmd_takes _ _ _ _ _ _ _ h (Or.inl (by decide)), hr]

/-! ### SUBMIT (R114) -/

/-- The access unit that a SUBMIT's operand names, entered now. -/
def submitAu (s : State) (o : List Byte) : Au :=
  { addr := leAt o 0 8, len := leAt o 8 4, stamp := leAt o 0x10 8, entry := now s, sample := leAt o 0x18 4 }

/-- A queue with room takes an access unit at its end, and no other queue changes. -/
theorem auQueue_room {s : State} {n : Nat} (a : Au) (hroom : (stm s n).queue.length < 16) :
    (stm (auQueue s n a) n).queue = (stm s n).queue ++ [a] ∧
      ∀ k, k ≠ n → (stm (auQueue s n a) k).queue = (stm s k).queue := by
  have hput : auQueue s n a = stmTry (updStm s n (fun x => { x with queue := x.queue ++ [a] })) n := by
    simp only [auQueue, Nat.not_le.mpr hroom, if_false]
  have hgrants := stmTry_grants (updStm s n (fun x => { x with queue := x.queue ++ [a] })) n
  rw [hput]
  exact ⟨by rw [hgrants.queue, stm_updStm], fun k hk => by rw [hgrants.queue, stm_updStm_ne _ _ hk]⟩

theorem opSubmit_done {s : State} {o : List Byte} {n : Nat} (tag : Nat) (hn : n < 1024) (hst : (stm s n).st ≠ 0)
    (hhost : (stm s n).host = true) (hlen : leAt o 8 4 ≤ leAt (stm s n).recd 0x18 2 * 1024) :
    opSubmit n o tag s = done (auQueue s n (submitAu s o)) := by
  simp only [opSubmit, hst, hhost, Nat.not_le.mpr hn, Nat.not_lt.mpr hlen, if_false, Bool.not_true, Bool.false_eq_true]
  rfl

/-! ### SET_PARAMS (R115, R131) -/

theorem granTouches_frame (s : State) (a n : Nat) : ∃ chans, granTouches s a n = { s with chans := chans } := by
  induction n with
  | zero => exact ⟨_, rfl⟩
  | succ n ih =>
    obtain ⟨_, h⟩ := ih
    rw [granTouches, h]
    exact ⟨_, rfl⟩

/-- With no sector error standing, sector decodes change nothing and find nothing. -/
theorem eccSectors_clean {s : State} (h : s.ecc = []) (source first n : Nat) : eccSectors s source first n = (s, false) := by
  induction n with
  | zero => rfl
  | succ n ih => simp [eccSectors, ih, eccSector, h]

/-- A unit reads GDDR6 without sector errors: the bytes arrive, and only the memory channels change. -/
theorem unitRead_clean {s : State} {a : Nat} (n : Nat) (h : s.ecc = []) (ha : locate a = .gddr) :
    ∃ chans, unitRead s a n = ({ s with chans := chans }, rdMem s a n, true) := by
  obtain ⟨chans, ht⟩ := granTouches_frame s a (granSpan a n)
  refine ⟨chans, ?_⟩
  simp only [unitRead, ha, rdGddr, ht, eccSectors_clean (s := { s with chans := chans }) h]
  rfl

/-- The parameter sets that a SET_PARAMS adds to those that wait. -/
def paramsAdded (x : Stm) (l : List Byte) : Stm := { x with params := x.params ++ [l] }

theorem opSetParams_answers {s : State} {o : List Byte} {n : Nat} (tag : Nat) (above : Bool) (hn : n < 1024)
    (hst : (stm s n).st ≠ 0) (hmin : 1 ≤ leAt o 8 4) (hmax : leAt o 8 4 ≤ 16384) (hecc : s.ecc = [])
    (hloc : locate (leAt o 0 8) = .gddr) :
    ∃ chans, opSetParams above n o tag s = if above then refuse { s with chans := chans } 0xC 0
      else done (updStm { s with chans := chans } n (fun x => paramsAdded x (rdMem s (leAt o 0 8) (leAt o 8 4)))) := by
  obtain ⟨chans, hread⟩ := unitRead_clean (leAt o 8 4) hecc hloc
  have hlen : (decide (leAt o 8 4 < 1) || decide (16384 < leAt o 8 4)) = false := by
    simp only [Bool.or_eq_false_iff, decide_eq_false_iff_not]
    omega
  refine ⟨chans, ?_⟩
  simp only [opSetParams, hst, hlen, hread, Nat.not_le.mpr hn, if_false, Bool.not_true, Bool.false_eq_true]
  rfl

/-! ### FLUSH (R134) -/

/-- A stream after FLUSH: nothing queued, no reference picture, waiting for a random access point. -/
def Stm.flushed (x : Stm) : Stm :=
  { x with st := 1, queue := [], consumed := satAdd x.consumed x.queue.length, dpb := [], dec := none, picBlk := none,
           mapBlk := none, params := [], started := false, ending := none, limitBad := false, expiries := [], inWin := 0 }

theorem stmClear_flush (s : State) (n : Nat) :
    (∃ pic map, stm (stmClear s n false) n = (stm s n).flushed.withBlocks pic map) ∧
      (stmClear s n false).sframes = s.sframes := by
  have hevid := evidFlush_grants s n 1
  have hrel := relAll_grants (updGate (setStm (evidFlush s n 1) n (stm s n).flushed) n
    (fun g => { g with no := 0, whole := true })) 2 n
  obtain ⟨pic, map, hstm⟩ := hrel.stm n
  exact ⟨⟨pic, map, hstm.trans (congrArg (·.withBlocks pic map) (stm_setStm _ n _))⟩, hrel.sframes.trans hevid.sframes⟩

/-- With no migration, CLOSE and FLUSH end none. -/
theorem migEnds_none {s : State} (n reason : Nat) (hin : s.peal.migIn = none) (hout : s.peal.migOut = none) :
    migEnds s n reason = s := by
  simp only [migEnds, hin, hout]

theorem opStmFlush_done {s : State} {n : Nat} (o : List Byte) (tag : Nat) (hn : n < 1024) (hst : (stm s n).st ≠ 0)
    (hdec : (stm s n).dec = none) (hin : s.peal.migIn = none) (hout : s.peal.migOut = none) :
    opStmFlush n o tag s = done (stmClear s n false) := by
  simp [opStmFlush, stmEndCmd, migEnds_none n 7 hin hout, hst, hdec, Nat.not_le.mpr hn]

/-! ### Stream events (R494) -/

/-- Between two states stream n differs in its event counts at most, and the other streams are as they were. -/
structure Counted (s t : State) (n : Nat) : Prop where
  own : ∃ c, stm t n = { stm s n with cnt := c }
  others : ∀ k, k ≠ n → stm t k = stm s k

theorem Counted.of_streamSide {s t : State} (n : Nat) (h : streamSide t = streamSide s) : Counted s t n :=
  ⟨⟨_, stm_congr h n⟩, fun k _ => stm_congr h k⟩

theorem Counted.trans {s t u : State} {n : Nat} (h : Counted s t n) (k : Counted t u n) : Counted s u n := by
  obtain ⟨c, hc⟩ := h.own
  obtain ⟨e, he⟩ := k.own
  exact ⟨⟨e, by rw [he, hc]⟩, fun m hm => (k.others m hm).trans (h.others m hm)⟩

theorem stmEvent_counted (s : State) (n code detail frameNo : Nat) : Counted s (stmEvent s n code detail frameNo) n := by
  unfold stmEvent
  dsimp only
  refine .trans ?_ (.of_streamSide n (evtEntry_streamSide _ _ _ _ _))
  split
  · exact .of_streamSide n (bump_streamSide _ _ _)
  · exact ⟨⟨_, stm_updStm s n _⟩, fun k hk => stm_updStm_ne s _ hk⟩

theorem stmEvents_counted (s : State) (n frameNo : Nat) (evs : List Nat) :
    Counted s (evs.foldl (fun s e => stmEvent s n e 0 frameNo) s) n :=
  List.foldlRecOn (motive := fun u => Counted s u n) evs _ (.of_streamSide n rfl)
    (fun u hu e _ => hu.trans (stmEvent_counted u n e 0 frameNo))

/-! ### DECODER_DISPATCH (R116-R120) -/

theorem firstStm_mem {l : List (Nat × Stm)} {q : Nat × Stm} (h : firstStm l = some q) : q ∈ l := by
  have hall : ∀ q, firstStm l = some q → q ∈ l :=
    List.foldlRecOn (motive := fun b => ∀ q, b = some q → q ∈ l) l _ (fun q hq => by cases hq) (fun b hb x hx q hq => by
      split at hq
      · cases hq
        exact hx
      · split at hq
        · cases hq
          exact hx
        · exact hb q hq)
  exact hall q h

/-- A stream that a decoder takes has no frame in decode, and both blocks. -/
theorem decPick_ready {s : State} {d n : Nat} {x : Stm} (h : decPick s d = some (n, x)) :
    x.dec = none ∧ (∃ pic, x.picBlk = some pic) ∧ ∃ map, x.mapBlk = some map := by
  have hready := (List.mem_filter.mp (firstStm_mem h)).2
  simp only [Stm.ready, Bool.and_eq_true, Option.isNone_iff_eq_none] at hready
  obtain ⟨⟨⟨⟨⟨⟨⟨-, hdec⟩, hpic⟩, hmap⟩, -⟩, -⟩, -⟩, -⟩ := hready
  exact ⟨hdec, Option.isSome_iff_exists.mp hpic, Option.isSome_iff_exists.mp hmap⟩

@[simp] theorem stm_setDec (s : State) (d : Nat) (x : Dec) (n : Nat) : stm (setDec s d x) n = stm s n := by
  simp [stm, setDec]

@[simp] theorem dec_setDec (s : State) (d : Nat) (x : Dec) : dec (setDec s d x) d = x := by
  simp [dec, setDec]

/-- A frame that is not stale goes into decode: its stream's queue and FRAME_NO move on, and its decoder holds it with the
stream's two blocks. -/
theorem frameStart_fresh (s : State) (d n : Nat) (a : Au) (h : AuHdr) :
    (stm (frameStart s d n a h false) n).queue = (stm s n).queue.drop 1 ∧
    (stm (frameStart s d n a h false) n).dec = some d ∧ (stm (frameStart s d n a h false) n).st = 2 ∧
    (stm (frameStart s d n a h false) n).frameNo = (stm s n).frameNo + 1 ∧
    (∀ k, k ≠ n → stm (frameStart s d n a h false) k = stm s k) ∧
    ∃ j, (dec (frameStart s d n a h false) d).job = some j ∧ j.stm = n ∧ j.au = a ∧ j.hdr = h ∧
      j.frameNo = (stm s n).frameNo ∧ j.pic = (stm s n).picBlk.getD 0 ∧ j.map = (stm s n).mapBlk.getD 0 := by
  unfold frameStart
  extract_lets x refs tainted change evs j s1 s2 s3 s4
  have hevents : Counted s1 s2 n := stmEvents_counted s1 n j.frameNo evs
  have hswitch : Counted s2 s4 n := by
    refine .of_streamSide n ?_
    unfold s4
    split
    · rfl
    · exact bump_streamSide _ _ _
  obtain ⟨⟨c, hown⟩, hothers⟩ := hevents.trans hswitch
  simp only [stm_setDec, dec_setDec]
  rw [hown, stm_setStm]
  exact ⟨rfl, rfl, rfl, rfl, fun k hk => (hothers k hk).trans (stm_setStm_ne s _ hk), j, rfl, rfl, rfl, rfl, rfl, rfl, rfl⟩

/-- What a dispatch makes of a stream before its random access point goes into decode. -/
def Stm.atRap (x : Stm) : Stm := { x with limitBad := false, st := 2, expiries := if x.st = 3 then [] else x.expiries }

theorem decDispatch_decodes {s : State} {d n : Nat} {h : AuHdr} {a : Au} {rest : List Au} (hfree : decFree s d = true)
    (hpick : decPick s d = some (n, stm s n)) (hqueue : (stm s n).queue = a :: rest) (hshed : shedLevel s n ≠ 2)
    (hrap : h.rap = true) (hrasl : h.rasl = false) (huns : h.unsupported = false) (hmax : overMaxima (stm s n) h = false)
    (hlimit : (stm s n).limitBad = false) (hparses : h.parses = true) (hex : h.existing = none)
    (hage : aged s a.stamp (stm s n).stale = false ∨ (stm s n).adapt = true) :
    decDispatch s d h = frameStart (updStm s n Stm.atRap) d n a h false := by
  have hstale : (!(stm s n).adapt && aged s a.stamp (stm s n).stale) = false := by
    rcases hage with h | h <;> simp [h]
  simp only [decDispatch, hfree, hpick, hqueue, hshed, hrap, hrasl, huns, hmax, hlimit, hparses, hex, hstale, Bool.not_true,
    Bool.and_false, Bool.false_and, Bool.true_and, Bool.or_self, decide_false, decide_eq_true_eq, Bool.false_eq_true, if_true,
    if_false]
  rfl

theorem decDispatch_waits {s : State} {d n : Nat} {h : AuHdr} {a : Au} {rest : List Au} (hfree : decFree s d = true)
    (hpick : decPick s d = some (n, stm s n)) (hqueue : (stm s n).queue = a :: rest) (hintr : a.intr = 0)
    (hst : (stm s n).st = 1) (hrap : h.rap = false) : decDispatch s d h = auDiscard (popAu s n) n a none := by
  simp [decDispatch, hfree, hpick, hqueue, hintr, hst, hrap]

/-- A stream whose head access unit has left its queue unread: it counts as consumed, and FRAME_NO goes on. -/
def Stm.unread (x : Stm) : Stm :=
  { x with queue := x.queue.drop 1, consumed := satInc x.consumed, frameNo := x.frameNo + 1 }

theorem auDiscard_pop {s : State} {n : Nat} (a : Au) (hadapt : (stm s n).adapt = false) :
    (∃ pic map, stm (auDiscard (popAu s n) n a none) n = (stm s n).unread.withBlocks pic map) ∧
      (auDiscard (popAu s n) n a none).decs = s.decs := by
  have hpop : stm (popAu s n) n = { stm s n with queue := (stm s n).queue.drop 1 } := stm_updStm s n _
  have hkeep : (stm (popAu s n) n).adapt = false := by
    rw [hpop]
    exact hadapt
  have hleave : auDiscard (popAu s n) n a none = auLeave (popAu s n) n a none := by simp [auDiscard, hkeep]
  have hrel : Grants _ (auLeave (popAu s n) n a none) := auRelease_grants (updStm (popAu s n) n (fun x =>
    { x with consumed := satInc x.consumed, frameNo := x.frameNo + 1 })) n a
  obtain ⟨pic, map, hstm⟩ := hrel.stm n
  rw [stm_updStm, hpop] at hstm
  rw [hleave]
  exact ⟨⟨pic, map, hstm⟩, hrel.decs⟩

/-! ### The commands -/

/-- Settles O23: SUBMIT, SET_PARAMS, FLUSH, and a dispatch that decodes or discards. -/
theorem decodeQueue : Obligations.DecodeQueue := by
  unfold Obligations.DecodeQueue
  refine ⟨?_, ?_, ?_, ?_, ?_⟩
  · intro s m tag n htake hn hst hhost hlen hroom
    have hrun := opSubmit_done (s := portResult s .stm tag 0xF 0) tag hn hst hhost hlen
    obtain ⟨hown, hothers⟩ := auQueue_room (s := portResult s .stm tag 0xF 0)
      (submitAu (portResult s .stm tag 0xF 0) (staged s .stm)) hroom
    refine ⟨_, stmCmd_answers htake hrun, resultAt_portResult _ _ _ _ _, ?_⟩
    simp only [stm_portResult] at hown hothers ⊢
    exact ⟨hown, hothers⟩
  · intro s m tag n above htake hn hst hmin hmax hecc _ hloc
    obtain ⟨chans, hrun⟩ := opSetParams_answers (s := portResult s .stm tag 0xF 0) tag above hn hst hmin hmax hecc hloc
    cases above with
    | true => exact ⟨_, stmCmd_answers htake hrun, resultAt_portResult _ _ _ _ _, (List.append_nil _).symm, fun _ _ => rfl⟩
    | false =>
      refine ⟨_, stmCmd_answers htake hrun, resultAt_portResult _ _ _ _ _, ?_, fun k hk => ?_⟩
      · rw [stm_portResult, stm_updStm]
        rfl
      · rw [stm_portResult, stm_updStm_ne _ _ hk]
        rfl
  · intro s m tag n htake hn hst hdec hin hout
    have hrun := opStmFlush_done (s := portResult s .stm tag 0xF 0) (staged s .stm) tag hn hst hdec hin hout
    obtain ⟨⟨pic, map, hstm⟩, hframes⟩ := stmClear_flush (portResult s .stm tag 0xF 0) n
    refine ⟨_, stmCmd_answers htake hrun, resultAt_portResult _ _ _ _ _, ?_⟩
    simp only [stm_portResult] at hstm ⊢
    rw [hstm]
    exact ⟨rfl, rfl, rfl, rfl, rfl, hframes⟩
  · intro s d n h a rest hfree hpick hqueue hshed hrap hrasl huns hmax hlimit hparses hex hage
    have hdispatch := decDispatch_decodes hfree hpick hqueue hshed hrap hrasl huns hmax hlimit hparses hex hage
    obtain ⟨-, ⟨pic, hpic⟩, map, hmap⟩ := decPick_ready hpick
    obtain ⟨hq, hdec, hst, hno, hothers, j, hjob, hjstm, hjau, hjhdr, hjno, hjpic, hjmap⟩ :=
      frameStart_fresh (updStm s n Stm.atRap) d n a h
    rw [stm_updStm] at hq hno hjno hjpic hjmap
    refine ⟨decDispatch s d h, rfl, ?_⟩
    rw [hdispatch]
    refine ⟨hq.trans (congrArg (·.drop 1) hqueue), hdec, hst, hno,
      fun k hk => (hothers k hk).trans (stm_updStm_ne s _ hk), j, hjob, hjstm, hjau, hjhdr, hjno, ?_, ?_⟩
    · rw [hjpic, show (stm s n).atRap.picBlk = some pic from hpic, hpic]
      rfl
    · rw [hjmap, show (stm s n).atRap.mapBlk = some map from hmap, hmap]
      rfl
  · intro s d n h a rest hfree hpick hqueue hintr hst hrap hadapt
    obtain ⟨⟨pic, map, hstm⟩, hdecs⟩ := auDiscard_pop a hadapt
    refine ⟨decDispatch s d h, rfl, ?_⟩
    rw [decDispatch_waits hfree hpick hqueue hintr hst hrap, hstm]
    exact ⟨congrArg (·.drop 1) hqueue, rfl, rfl, rfl, (decPick_ready hpick).1, hdecs⟩

end Sys2Proof.Machine
end

section
/-!
PROOF. SET_PRIORITY and the PRIORITY byte of a stream's record: O22.
-/
namespace Sys2Proof.Machine

/-- A byte put at offset 2 of a list stands there, unless the list ends before that offset: then it stands earlier. -/
theorem byteAt_putAt_two (l : List Byte) (v : Nat) :
    byteAt (putAt l 2 (leBytes 1 v)) 2 = if 2 ≤ l.length then v % 256 else 0 := by
  match l with
  | [] => rfl
  | [_] => rfl
  | _ :: _ :: _ => simp [byteAt, putAt, leBytes]

/-- A stream after SET_PRIORITY: PRIORITY of its record and its effective priority, with demotion cleared. -/
def Stm.withPriority (x : Stm) (p : Nat) : Stm := { x with recd := putAt x.recd 2 (leBytes 1 p), prio := p, inWin := 0 }

theorem opSetPriority_done {s : State} {o : List Byte} {n : Nat} (tag : Nat) (hn : n < 1024) (hst : (stm s n).st ≠ 0)
    (hprio : byteAt o 0 < 8) :
    opSetPriority n o tag s = done (setStm s n ((stm s n).withPriority (byteAt o 0))) := by
  simp only [opSetPriority, hst, Nat.not_le.mpr hn, Nat.not_lt.mpr (Nat.le_of_lt_succ hprio), if_false]
  rfl

/-- What SET_PRIORITY leaves at PRIORITY of the record of an open stream: the new value when the record reaches that far. -/
theorem execSetPriority_record {s : State} {m : Master} {n : Nat} (tag : Nat) (htake : portTakes s .stm m 7 n = true)
    (hn : n < 1024) (hst : (stm s n).st ≠ 0) (hprio : byteAt (staged s .stm) 0 < 8) :
    ∃ t, exec (.setPriority m tag n) s = .next t ∧
      byteAt (stm t n).recd 2 = if 2 ≤ (stm s n).recd.length then byteAt (staged s .stm) 0 else 0 := by
  have hrun := opSetPriority_done (s := portResult s .stm tag 0xF 0) tag hn hst hprio
  have hbyte : byteAt (staged s .stm) 0 % 256 = byteAt (staged s .stm) 0 := Nat.mod_eq_of_lt (by omega)
  refine ⟨_, stmCmd_answers htake hrun, ?_⟩
  simp only [stm_portResult, stm_setStm, Stm.withPriority, byteAt_putAt_two, hbyte]

/-- Decoder 0 runs, stream 0 is open with an empty record, and PRIORITY 1 is staged at the stream port. -/
def shortRecord : State := { State.reset with
  life := { phase := .up, profile := some (putAt (zeros 0x180) 0x103 [1]) }
  blks := [(0x100, { st := .run })]
  regs := [(rkey 0x100 0x500, 1), (rkey 0x1B1 0x1C0, 0x20000000)]
  stms := [(0, { st := 1 })] }

theorem shortRecord_takes : portTakes shortRecord .stm .fw 7 0 = true := by decide

theorem shortRecord_staged : byteAt (staged shortRecord .stm) 0 = 1 := by decide

/-- Refutes O22: of an open stream the statement asks no record, and at an empty one SET_PRIORITY of 1 leaves no byte at
the offset of PRIORITY, which therefore reads 0. -/
theorem not_streamCommands : ¬ Obligations.StreamCommands := by
  unfold Obligations.StreamCommands
  rintro ⟨-, -, -, -, hclaim, -⟩
  have hlow : byteAt (staged shortRecord .stm) 0 < 8 := by rw [shortRecord_staged]; decide
  obtain ⟨t, hexec, -, -, hrecd, -⟩ := hclaim shortRecord .fw 0 0 shortRecord_takes (by decide) (by decide) hlow
  obtain ⟨u, hexec', hshort⟩ := execSetPriority_record 0 shortRecord_takes (by decide) (by decide) hlow
  obtain rfl : u = t := Host.Outcome.next.inj (hexec'.symm.trans hexec)
  rw [hshort, shortRecord_staged] at hrecd
  exact absurd hrecd (by decide)

end Sys2Proof.Machine
end

section
/-!
PROOF. Sequencers: what going over a descriptor, completing it and faulting on it change, and which descriptors issue.
-/
namespace Sys2Proof.Machine

/-! ### Sequencers as a table -/

@[simp] theorem seq_setSeq (s : State) (n lc : Nat) (q : Seq) : seq (setSeq s n lc q) n lc = q := by simp [seq, setSeq]

@[simp] theorem seq_updSeq (s : State) (n lc : Nat) (f : Seq → Seq) : seq (updSeq s n lc f) n lc = f (seq s n lc) :=
  seq_setSeq s n lc _

theorem seq_congr {s t : State} (h : t.seqs = s.seqs) (n lc : Nat) : seq t n lc = seq s n lc := by rw [seq, seq, h]

theorem SeqOnly.refl (s : State) (n lc : Nat) : SeqOnly s s n lc := fun _ _ => rfl

theorem SeqOnly.trans {s t u : State} {n lc : Nat} (h : SeqOnly s t n lc) (k : SeqOnly t u n lc) : SeqOnly s u n lc :=
  fun x hx => (k x hx).trans (h x hx)

theorem updSeq_seqOnly (s : State) (n lc : Nat) (f : Seq → Seq) : SeqOnly s (updSeq s n lc f) n lc :=
  fun _ hk => tgetD_tset_ne _ _ _ (Ne.symm hk)

/-- The context's other sequencers. -/
theorem SeqOnly.seq_ne {s t : State} {n lc l : Nat} (h : SeqOnly s t n lc) (hl : l ≠ lc) : seq t n l = seq s n l :=
  h _ (by omega)

/-- Changes of several sequencers of a context change the table of sequencers alone. -/
theorem updSeqs_frame (s : State) (n : Nat) (f : Nat → Seq → Seq) (ls : List Nat) :
    ∃ q, ls.foldl (fun s l => updSeq s n l (f l)) s = { s with seqs := q } := by
  induction ls generalizing s with
  | nil => exact ⟨s.seqs, rfl⟩
  | cons l ls ih =>
    obtain ⟨q, h⟩ := ih (updSeq s n l (f l))
    exact ⟨q, h⟩

/-! ### Going over a descriptor (R226, R252, R326) -/

/-- A sequencer that goes on behind descriptor i: at the end of a CLAIM's body the next take is due. -/
def Seq.over (q : Seq) (i : Iss) : Seq :=
  let p := skipDone { q with pc := q.pc + 64, np := byteAt i.d 1 % 4 != 0 } 32
  match p.claim with
  | some k => if p.pc = k.stop then { p with claim := some { k with due := true } } else p
  | none => p

theorem advance_eq (s : State) (n lc : Nat) (i : Iss) : advance s n lc i = updSeq s n lc (fun q => q.over i) := rfl

theorem skipDone_frame (q : Seq) (k : Nat) : ∃ pc skip, skipDone q k = { q with pc := pc, skip := skip } := by
  induction k generalizing q with
  | zero => exact ⟨q.pc, q.skip, rfl⟩
  | succ k ih =>
    rw [skipDone]
    split
    · obtain ⟨pc, skip, h⟩ := ih { q with pc := q.pc + 64, skip := q.skip.erase q.pc }
      exact ⟨pc, skip, h⟩
    · exact ⟨q.pc, q.skip, rfl⟩

theorem skipDone_nil {q : Seq} (h : q.skip = []) (k : Nat) : skipDone q k = q := by
  cases k with
  | zero => rfl
  | succ k => simp [skipDone, h]

theorem Seq.over_frame (q : Seq) (i : Iss) :
    ∃ pc np skip claim, q.over i = { q with pc := pc, np := np, skip := skip, claim := claim } := by
  obtain ⟨pc, skip, h⟩ := skipDone_frame { q with pc := q.pc + 64, np := byteAt i.d 1 % 4 != 0 } 32
  unfold Seq.over
  rw [h]
  dsimp only
  split
  · split
    · exact ⟨_, _, _, _, rfl⟩
    · exact ⟨_, _, _, _, rfl⟩
  · exact ⟨_, _, _, _, rfl⟩

@[simp] theorem Seq.over_same (q : Seq) (i : Iss) :
    (q.over i).core = q.core ∧ (q.over i).st = q.st ∧ (q.over i).rrc = q.rrc ∧ (q.over i).held = q.held ∧
      (q.over i).issued = q.issued ∧ (q.over i).wait = q.wait ∧ (q.over i).barrier = q.barrier := by
  obtain ⟨_, _, _, _, h⟩ := q.over_frame i
  rw [h]
  exact ⟨rfl, rfl, rfl, rfl, rfl, rfl, rfl⟩

/-- With nothing marked done, the PC moves over one descriptor. -/
theorem Seq.over_pc {q : Seq} (h : q.skip = []) (i : Iss) : (q.over i).pc = q.pc + 64 := by
  unfold Seq.over
  rw [skipDone_nil (q := { q with pc := q.pc + 64, np := byteAt i.d 1 % 4 != 0 }) h]
  dsimp only
  split
  · split
    · rfl
    · rfl
  · rfl

/-! ### Completing a descriptor (R226, R498) -/

/-- A sequencer with descriptor i no longer issued. -/
def Seq.without (q : Seq) (i : Iss) : Seq :=
  { q with issued := q.issued.filter (fun j => !(j.addr == i.addr && j.iter == i.iter)) }

theorem Seq.not_mem_without (q : Seq) (i : Iss) : ∀ j ∈ (q.without i).issued, ¬(j.addr = i.addr ∧ j.iter = i.iter) := by
  intro j hj
  have hkept := (List.mem_filter.mp hj).2
  rintro ⟨haddr, hiter⟩
  simp [haddr, hiter] at hkept

theorem leaseClose_frame (s : State) (n lc : Nat) (l : Option (Nat × Nat)) :
    ∃ x, leaseClose s n lc l = { s with leases := x } := by
  cases l with
  | none => exact ⟨s.leases, rfl⟩
  | some l => exact ⟨_, rfl⟩

/-- The core's counts after a completion: SEQ_DONE, and the descriptors that ran past their bound. -/
def doneCounted (s : State) (n lc : Nat) (past : Bool) : State :=
  let t := bumpR s (lcPg s n lc) 0x218 1
  if past then bumpR t (lcPg s n lc) 0x21C 1 else t

theorem doneCounted_frame (s : State) (n lc : Nat) (past : Bool) :
    ∃ r, doneCounted s n lc past = { s with regs := r } := by
  cases past with
  | false => exact ⟨_, rfl⟩
  | true => exact ⟨_, rfl⟩

theorem doneCounted_count (s : State) (n lc : Nat) (past : Bool) :
    tgetD (doneCounted s n lc past).regs (rkey (lcPg s n lc) 0x218) 0 = satAdd (getR s (lcPg s n lc) 0x218) 1 := by
  cases past with
  | false => exact tgetD_tset _ _ _ _
  | true => exact (tgetD_tset_ne _ _ _ (by unfold rkey; omega)).trans (tgetD_tset _ _ _ _)

/-- Everything that a completion can change. -/
theorem retire_frame (s : State) (n lc : Nat) (i : Iss) (past : Bool) :
    ∃ c l, retire s n lc i past =
      { updSeq s n lc (fun q => q.without i) with regs := (doneCounted s n lc past).regs, ctxs := c, leases := l } := by
  obtain ⟨r, hr⟩ := doneCounted_frame s n lc past
  have hretire : retire s n lc i past = leaseClose (updSeq (updCtx (doneCounted s n lc past) n
      (fun c => { c with progress := now (doneCounted s n lc past) })) n lc (fun q => q.without i)) n lc i.lease := rfl
  obtain ⟨l, hl⟩ := leaseClose_frame (updSeq (updCtx (doneCounted s n lc past) n
      (fun c => { c with progress := now (doneCounted s n lc past) })) n lc (fun q => q.without i)) n lc i.lease
  rw [hretire, hl, hr]
  exact ⟨_, l, rfl⟩

@[simp] theorem retire_same (s : State) (n lc : Nat) (i : Iss) (past : Bool) :
    (retire s n lc i past).mem = s.mem ∧ (retire s n lc i past).pcieMem = s.pcieMem ∧
      (retire s n lc i past).clave = s.clave := by
  obtain ⟨_, _, h⟩ := retire_frame s n lc i past
  rw [h]
  exact ⟨rfl, rfl, rfl⟩

theorem seq_retire (s : State) (n lc : Nat) (i : Iss) (past : Bool) :
    seq (retire s n lc i past) n lc = (seq s n lc).without i := by
  obtain ⟨_, _, h⟩ := retire_frame s n lc i past
  rw [h]
  exact seq_updSeq s n lc (fun q => q.without i)

theorem retire_seqOnly (s : State) (n lc : Nat) (i : Iss) (past : Bool) : SeqOnly s (retire s n lc i past) n lc := by
  obtain ⟨_, _, h⟩ := retire_frame s n lc i past
  rw [h]
  exact updSeq_seqOnly s n lc (fun q => q.without i)

theorem retire_count (s : State) (n lc : Nat) (i : Iss) (past : Bool) :
    tgetD (retire s n lc i past).regs (rkey (lcPg s n lc) 0x218) 0 = satAdd (getR s (lcPg s n lc) 0x218) 1 := by
  obtain ⟨_, _, h⟩ := retire_frame s n lc i past
  rw [h]
  exact doneCounted_count s n lc past

theorem retire_retired (s : State) (n lc : Nat) (i : Iss) (past : Bool) : Retired s (retire s n lc i past) n lc i := by
  refine ⟨?_, retire_count s n lc i past⟩
  rw [seq_retire]
  exact Seq.not_mem_without _ i

/-! ### Descriptors that complete at once -/

@[simp] theorem immediate_same (s : State) (n lc : Nat) (i : Iss) (past : Bool) :
    (immediate s n lc i past).mem = s.mem ∧ (immediate s n lc i past).clave = s.clave := by
  simp [immediate, advance_eq, updSeq, setSeq]

theorem seq_immediate (s : State) (n lc : Nat) (i : Iss) (past : Bool) :
    seq (immediate s n lc i past) n lc = ((seq s n lc).over i).without i := by
  rw [immediate, seq_retire, advance_eq, seq_updSeq]

theorem immediate_seqOnly (s : State) (n lc : Nat) (i : Iss) (past : Bool) : SeqOnly s (immediate s n lc i past) n lc :=
  (updSeq_seqOnly s n lc _).trans (retire_seqOnly _ n lc i past)

theorem immediate_passed (s : State) (n lc : Nat) (i : Iss) (past : Bool) : Passed s (immediate s n lc i past) n lc := by
  constructor
  · intro hskip
    rw [seq_immediate]
    exact Seq.over_pc hskip i
  · have hpage : lcPg (advance s n lc i) n lc = lcPg s n lc := by
      rw [lcPg, advance_eq, seq_updSeq, ((seq s n lc).over_same i).1, lcPg]
    have hcount := retire_count (advance s n lc i) n lc i past
    rw [hpage] at hcount
    exact hcount

/-- Where a sequencer stands: its core, its PC, and the descriptors marked done. -/
def Seq.place (q : Seq) : Nat × Nat × List Nat := (q.core, q.pc, q.skip)

/-- A descriptor passed after a change that left the sequencer's place and its core's count of completed descriptors. -/
theorem Passed.of_place {s u t : State} {n lc : Nat} (h : Passed u t n lc)
    (hplace : (seq u n lc).place = (seq s n lc).place) (hcount : getR u (lcPg s n lc) 0x218 = getR s (lcPg s n lc) 0x218) :
    Passed s t n lc := by
  simp only [Seq.place, Prod.mk.injEq] at hplace
  obtain ⟨hcore, hpc, hskip⟩ := hplace
  obtain ⟨hmove, hdone⟩ := h
  have hpage : lcPg u n lc = lcPg s n lc := by rw [lcPg, hcore, lcPg]
  rw [hpage, hcount] at hdone
  rw [hskip, hpc] at hmove
  exact ⟨hmove, hdone⟩

/-- A descriptor passed, and then the sequencer changed without moving. -/
theorem Passed.then {s t u : State} {n lc : Nat} (h : Passed s t n lc) (hpc : (seq u n lc).pc = (seq t n lc).pc)
    (hregs : u.regs = t.regs) : Passed s u n lc := by
  obtain ⟨hmove, hdone⟩ := h
  exact ⟨fun hskip => hpc.trans (hmove hskip), by rw [hregs]; exact hdone⟩

/-! ### Faults (R225, R228, R334) -/

theorem seqLive_live {s : State} {n lc : Nat} (h : seqLive s n lc = true) : (ctx s n).st.live = true := by
  simp only [seqLive, Bool.and_eq_true, Bool.or_eq_true, beq_iff_eq] at h
  obtain ⟨hrun | ⟨hevict, -⟩, -⟩ := h
  · rw [hrun]; rfl
  · rw [hevict]; rfl

/-- A fault raised on a live context that no reset holds tears it down with the fault's code (R491, R334). -/
theorem raiseFault_faulted (s : State) (n code page desc detail orig tagFlags : Nat) (hlive : (ctx s n).st.live = true)
    (hrst : inReset s n = false) : Faulted (raiseFault s (.ctx n) code page desc detail orig tagFlags) n code := by
  have hsec : ¬ ((ctx s n).st = .teardown ∨ inReset s n = true) := by
    rw [hrst]
    rintro (h | h)
    · rw [h] at hlive; cases hlive
    · cases h
  simp only [Faulted, raiseFault, Bool.or_eq_true, decide_eq_true_eq, if_neg hsec, if_pos hlive, startTeardown, ctx_updCtx]
  trivial

/-- A descriptor's fault on a context that runs: the context is torn down, and memory is as it was. -/
theorem seqFaultNow_faulted {s : State} {n lc : Nat} (i : Iss) (code page : Nat) (hlive : seqLive s n lc = true)
    (hrst : inReset s n = false) :
    Faulted (seqFaultNow s n lc i code page) n code ∧ (seqFaultNow s n lc i code page).mem = s.mem := by
  let raised := raiseFault (putR64 s (corePg (seq s n lc).core) 0x210 i.addr) (.ctx n) code page i.addr
    (lastEvent (putR64 s (corePg (seq s n lc).core) 0x210 i.addr) code page) 0 0
  obtain ⟨q, hq⟩ := updSeqs_frame raised n (fun l q => { q with st := if l = lc then 4 else q.st, issued := [] })
    (lcores raised n)
  have hfault : seqFaultNow s n lc i code page = { raised with seqs := q } := hq
  rw [hfault]
  exact ⟨raiseFault_faulted _ n code page i.addr _ 0 0 (seqLive_live hlive) hrst, by simp [raised, putR64]⟩

/-! ### The next descriptor (R225) -/

theorem issues_core {s : State} {n lc : Nat} {i : Iss} (h : issues s n lc i = true) : (seq s n lc).core < 48 := by
  simp only [issues, Bool.and_eq_true, decide_eq_true_eq, and_assoc] at h
  obtain ⟨-, hcore, -⟩ := h
  exact hcore

/-- A descriptor that may issue does so under its own row; reading it changes the memory channels alone. -/
theorem issue_of_issues {s : State} {n lc : Nat} {i : Iss} (h : issues s n lc i = true) :
    ∃ c, ∀ (isRow : List Byte → Bool) (act : Iss → State → State), isRow i.d = true →
      issue s n lc isRow act = act i { s with chans := c } := by
  simp only [issues, Bool.and_eq_true, decide_eq_true_eq, beq_iff_eq, bne_iff_ne, Bool.not_eq_true', List.isEmpty_iff,
    and_assoc] at h
  obtain ⟨hlive, -, hst, hended, hbase, hdue, hpc, hgddr, hecc, hi, hctx, hop, hlow, hdisp, htag, hdesc, hissued, htagged⟩ := h
  obtain ⟨c, hread⟩ := unitRead_clean 64 hecc hgddr
  have hbytes : rdMem s (seq s n lc).pc 64 = i.d := (congrArg Iss.d hi).symm
  have hnext : nextIss s n lc i.d = i := by rw [← hbytes]; exact hi.symm
  refine ⟨c, fun isRow act hrow => ?_⟩
  obtain ⟨t, ht⟩ : ∃ t, t = { s with chans := c } := ⟨_, rfl⟩
  have hlow' : lowEvent t = false := by rw [ht]; exact hlow
  have hdisp' : seqDisp t (seq s n lc) i.d = .run := by rw [ht]; exact hdisp
  have hctxs : ctx t n = ctx s n := by rw [ht]; rfl
  have hop' : knownOp (byteAt i.d 0) = true := hop
  rw [← ht] at hread ⊢
  have hnodue : ∀ k, (seq s n lc).claim = some k → k.due = false := fun k hk => by simpa [hk] using hdue
  have hopen : ∀ g, i.tag = some g → ((seq s n lc).tag g).st = 1 ∧ mayTag i.d = true := fun g hg => by simpa [hg] using htag
  unfold issue
  cases hclaim : (seq s n lc).claim <;> cases htags : i.tag <;>
    simp [hclaim, hnodue, htags, hopen, hread, hbytes, hnext, hctxs, hlow', hdisp', hop', hctx, hlive, hst, hended, hbase,
      hrow, hdesc, Nat.not_le.mpr hpc, Nat.not_le.mpr hissued, Nat.not_le.mpr htagged]

theorem isOp_kind {i : Iss} {o : Nat} (h : i.kind = o) : isOp o i.d = true := by simpa [isOp, Iss.kind] using h

end Sys2Proof.Machine
end

section
/-!
PROOF. Clave counters: what setting one leaves alone while the job rings that it drives are checked (R138, R145, R251).
-/
namespace Sys2Proof.Machine

/-! ### Registers under faults -/

/-- A log record changes no register but Tocsin's and the PBA's. -/
theorem logRec_getR (s : State) (kind code orig flags id page desc detail : Nat) {q r : Nat} (hq : q ≠ 0x1A0)
    (hpba : q ≠ 0x202) (hr : r < 0x10000) : getR (logRec s kind code orig flags id page desc detail) q r = getR s q r :=
  logRec_keeps (fun t => getR t q r = getR s q r) s kind code orig flags id page desc detail
    (fun _ _ => getR_putR_page _ _ (by decide) hr hq.symm) (fun u m hu => (bump_getR u _ m q r hpba hr).trans hu)

theorem holdFault_getR (s : State) (page code space id : Nat) {q r : Nat} (hpba : q ≠ 0x202) (hr : r < 0x10000) :
    getR (holdFault s page code space id) q r = getR s q r := by
  unfold holdFault
  split
  · rfl
  · exact updBlk_getR s page _ q r hpba hr

theorem ctxFault_getR (s : State) (n code page desc : Nat) {q r : Nat} (hq : q ≠ 0x1A0) (hpba : q ≠ 0x202)
    (hr : r < 0x10000) : getR (ctxFault s n code page desc) q r = getR s q r := by
  have hlog := fun flags => logRec_getR s 0 code 0 flags n page desc 0 hq hpba hr
  have hhold := fun flags => (holdFault_getR (logRec s 0 code 0 flags n page desc 0) page code 0 n hpba hr).trans (hlog flags)
  unfold ctxFault raiseFault
  dsimp only
  split
  · exact hlog _
  · split
    · exact hhold _
    · exact hhold _

/-! ### Counters and the job rings -/

/-- What a check of the job rings leaves alone: sequencers, counters, leases, and every register below the cluster pages. -/
structure RingsOnly (s t : State) : Prop where
  seqs : t.seqs = s.seqs
  clave : t.clave = s.clave
  leases : t.leases = s.leases
  low : ∀ p o, p < 0x128 → o < 0x10000 → getR t p o = getR s p o

theorem RingsOnly.refl (s : State) : RingsOnly s s := ⟨rfl, rfl, rfl, fun _ _ _ _ => rfl⟩

theorem RingsOnly.trans {s t u : State} (h : RingsOnly s t) (k : RingsOnly t u) : RingsOnly s u :=
  ⟨k.seqs.trans h.seqs, k.clave.trans h.clave, k.leases.trans h.leases,
    fun p o hp ho => (k.low p o hp ho).trans (h.low p o hp ho)⟩

theorem putRV_ringsOnly (s : State) {p o : Nat} (w : Word) (hp : 0x128 ≤ p) (ho : o < 0x10000) :
    RingsOnly s (putRV s p o w) := by
  refine ⟨by simp, by simp, by simp, fun q r hq hr => getR_putRV_ne _ _ fun hkey => ?_⟩
  have := (rkey_inj ho hr hkey).1
  omega

theorem ctxFault_ringsOnly (s : State) (n code page desc : Nat) : RingsOnly s (ctxFault s n code page desc) :=
  ⟨by simp, by simp, by simp, fun _ _ hq hr => ctxFault_getR s n code page desc (by omega) (by omega) hr⟩

theorem ringCheck_ringsOnly (s : State) (p : Nat) {m : Nat} (hm : m < 8) : RingsOnly s (ringCheck s p m) := by
  unfold ringCheck
  dsimp only
  split
  · exact .refl s
  · split
    · exact (putRV_ringsOnly s _ (by omega) (by unfold ringOfs; omega)).trans (ctxFault_ringsOnly _ _ _ _ _)
    · exact ⟨rfl, rfl, rfl, fun _ _ _ _ => rfl⟩

/-- Setting a counter is that, and a check of the job rings. -/
theorem clvSet_ringsOnly (s : State) (k : Nat) (v : Word) :
    RingsOnly { s with clave := tset s.clave k v } (clvSet s k v) := by
  unfold clvSet
  refine forN_keeps (RingsOnly _) _ 4 (fun p _ t ht => ?_) (.refl _)
  refine forN_keeps (RingsOnly _) _ 8 (fun m hm u hu => ?_) ht
  split
  · exact hu.trans (ringCheck_ringsOnly u p hm)
  · exact hu

@[simp] theorem clv_clvSet (s : State) (k : Nat) (v : Word) : clv (clvSet s k v) k = v := by
  rw [clv, (clvSet_ringsOnly s k v).clave, tgetD_tset]

theorem clv_clvSet_ne (s : State) {k j : Nat} (v : Word) (h : j ≠ k) : clv (clvSet s k v) j = clv s j := by
  rw [clv, (clvSet_ringsOnly s k v).clave, tgetD_tset_ne _ _ _ h.symm, clv]

theorem clv_congr {s t : State} (h : t.clave = s.clave) (k : Nat) : clv t k = clv s k := by rw [clv, clv, h]

end Sys2Proof.Machine
end

section
/-!
PROOF. Waits and signals: O33.
-/
namespace Sys2Proof.Machine

/-! ### Going on after a wait (R250, R254) -/

theorem getR_putR64_ne (s : State) (p o m : Nat) {r : Nat} (h : o ≠ r) (h' : o + 4 ≠ r) :
    getR (putR64 s p o m) p r = getR s p r := by
  unfold putR64
  rw [getR_putR_ne _ _ (by unfold rkey; omega), getR_putR_ne _ _ (by unfold rkey; omega)]

/-- A sequencer that has waited since a time wakes, and the descriptor at its PC completes. -/
def goesOn (s : State) (n lc since : Nat) (wake : Seq → Seq) : State :=
  let t := updSeq (addWaitCyc s n lc since) n lc wake
  immediate t n lc (atPc t n lc) false

theorem seq_goesOn (s : State) (n lc since : Nat) (wake : Seq → Seq) :
    ∃ i, seq (goesOn s n lc since wake) n lc = ((wake (seq s n lc)).over i).without i := by
  refine ⟨atPc (updSeq (addWaitCyc s n lc since) n lc wake) n lc, ?_⟩
  rw [goesOn, seq_immediate, seq_updSeq]
  rfl

theorem goesOn_passed (s : State) (n lc since : Nat) {wake : Seq → Seq}
    (hplace : (wake (seq s n lc)).place = (seq s n lc).place) : Passed s (goesOn s n lc since wake) n lc := by
  refine (immediate_passed _ n lc _ false).of_place ?_ ?_
  · rw [seq_updSeq]
    exact hplace
  · exact getR_putR64_ne s _ 0x220 _ (by decide) (by decide)

theorem goesOn_seqOnly (s : State) (n lc since : Nat) (wake : Seq → Seq) : SeqOnly s (goesOn s n lc since wake) n lc :=
  (updSeq_seqOnly (addWaitCyc s n lc since) n lc wake).trans (immediate_seqOnly _ n lc _ false)

theorem goesOn_mem (s : State) (n lc since : Nat) (wake : Seq → Seq) : (goesOn s n lc since wake).mem = s.mem :=
  (immediate_same _ n lc _ false).1

/-! ### WAIT (R250) -/

/-- The check that a context owns the Clave counter it names. -/
theorem clave_check {s : State} {n : Nat} {i : Iss}
    (h : (byteAt i.d 8).testBit 0 = true → clvOwned s (leAt i.d 0xA 2) n = true) :
    ((byteAt i.d 8).testBit 0 && !clvOwned s (leAt i.d 0xA 2) n) = false := by
  cases hbit : (byteAt i.d 8).testBit 0 with
  | false => rfl
  | true => rw [h hbit]; rfl

/-- The wait that a WAIT starts. -/
def waitOf (s : State) (n : Nat) (i : Iss) : Wait :=
  let isel := byteAt i.d 8 / 4 % 4
  { clave := (byteAt i.d 8).testBit 0, lc := byteAt i.d 9, ctr := leAt i.d 0xA 2,
    thresh := word ((leAt i.d 0xC 4 + (if isel = 0 then 0 else i.idx.getD (isel - 1) 0)) % 2 ^ 32), since := now s,
    budget := if leAt i.d 0x10 4 = 0 then wdogTicks s n else leAt i.d 0x10 4 }

theorem waitIssue_waits {s : State} {n : Nat} (lc : Nat) {i : Iss}
    (h : (byteAt i.d 8).testBit 0 = true → clvOwned s (leAt i.d 0xA 2) n = true) :
    waitIssue n lc i s = updSeq s n lc (fun q => { q with st := 2, wait := some (waitOf s n i) }) := by
  simp only [waitIssue, clave_check h, Bool.false_eq_true, if_false]
  rfl

theorem waitSatisfied_meets {s : State} {n lc : Nat} {w : Wait} (hw : (seq s n lc).wait = some w)
    (hlive : seqLive s n lc = true) (h : (waitValue s n w - w.thresh).toNat < 2 ^ 31) :
    waitSatisfied s n lc = goesOn s n lc w.since (fun q => { q with wait := none, st := 1 }) := by
  have hmeets : meets (waitValue s n w) w.thresh = true := decide_eq_true h
  simp only [waitSatisfied, hw, hlive, hmeets, Bool.not_true, Bool.or_self, Bool.false_eq_true, if_false]
  rfl

theorem waitSatisfied_below {s : State} {n lc : Nat} {w : Wait} (hw : (seq s n lc).wait = some w)
    (h : 2 ^ 31 ≤ (waitValue s n w - w.thresh).toNat) : waitSatisfied s n lc = s := by
  have hmeets : meets (waitValue s n w) w.thresh = false := decide_eq_false (Nat.not_lt.mpr h)
  simp only [waitSatisfied, hw, hmeets, Bool.not_false, Bool.or_true, if_true]

theorem waitExpiry_before {s : State} {n lc : Nat} {w : Wait} (hw : (seq s n lc).wait = some w)
    (h : now s < w.since + w.budget) : waitExpiry s n lc = s := by
  simp only [waitExpiry, hw, h, decide_true, Bool.or_true, if_true]

theorem waitExpiry_due {s : State} {n lc : Nat} {w : Wait} (hw : (seq s n lc).wait = some w)
    (hlive : seqLive s n lc = true) (h : w.since + w.budget ≤ now s) :
    waitExpiry s n lc = seqFaultNow (addWaitCyc s n lc w.since) n lc (atPc s n lc) 0x09 (lcPg s n lc) := by
  simp only [waitExpiry, hw, hlive, Nat.not_lt.mpr h, Bool.not_true, Bool.false_or, decide_false, Bool.false_eq_true,
    if_false]

/-! ### SIGNAL (R249, R251, R294) -/

theorem testBit_zero_of_mod {x b : Nat} (h : x % 4 = b) : x.testBit 0 = decide (b % 2 = 1) := by
  rw [Nat.testBit_eq_decide_div_mod_eq, ← h]
  congr 1
  simp only [eq_iff_iff]
  omega

theorem testBit_one_of_mod {x b : Nat} (h : x % 4 = b) : x.testBit 1 = decide (b / 2 = 1) := by
  rw [Nat.testBit_eq_decide_div_mod_eq, ← h]
  congr 1
  simp only [eq_iff_iff]
  omega

theorem signalDo_rowReady {d : List Byte} (n lc : Nat) (s : State) (h : (byteAt d 8).testBit 0 = false) :
    signalDo n lc d s = updSeq s n lc (fun q =>
      { q with rrc := tset q.rrc (leAt d 0xA 2) (tgetD q.rrc (leAt d 0xA 2) 0 + word (leAt d 0xC 4)) }) := by
  simp only [signalDo, h, Bool.not_false, if_true]

theorem signalDo_add {d : List Byte} (n lc : Nat) (s : State) (h : byteAt d 8 % 4 = 1) :
    RingsOnly { s with clave := tset s.clave (leAt d 0xA 2) (clv s (leAt d 0xA 2) + word (leAt d 0xC 4)) }
      (signalDo n lc d s) := by
  obtain ⟨hseqs, hclave, hleases, hlow⟩ :=
    clvSet_ringsOnly s (leAt d 0xA 2) (clv s (leAt d 0xA 2) + word (leAt d 0xC 4))
  have hdo : signalDo n lc d s = { clvAdd s (leAt d 0xA 2) (leAt d 0xC 4) with
      claveLast := tset (clvAdd s (leAt d 0xA 2) (leAt d 0xC 4)).claveLast (leAt d 0xA 2) (clv s (leAt d 0xA 2)) } := by
    simp [signalDo, testBit_zero_of_mod h, testBit_one_of_mod h]
  rw [hdo]
  exact ⟨hseqs, hclave, hleases, hlow⟩

theorem signalDo_set {d : List Byte} (n lc : Nat) (s : State) (h : byteAt d 8 % 4 = 3) :
    RingsOnly { s with clave := tset s.clave (leAt d 0xA 2) (word (leAt d 0xC 4)) } (signalDo n lc d s) := by
  have hdo : signalDo n lc d s = clvSet s (leAt d 0xA 2) (word (leAt d 0xC 4)) := by
    simp [signalDo, testBit_zero_of_mod h, testBit_one_of_mod h]
  rw [hdo]
  exact clvSet_ringsOnly s _ _

theorem signalIssue_untagged {s : State} {n lc : Nat} {i : Iss}
    (hown : (byteAt i.d 8).testBit 0 = true → clvOwned s (leAt i.d 0xA 2) n = true) (htag : i.tag = none)
    (hissued : (seq s n lc).issued = []) :
    signalIssue n lc i s = immediate (signalDo n lc i.d s) n lc i false := by
  simp only [signalIssue, clave_check hown, htag, hissued, Option.isSome_none, List.isEmpty_nil, Bool.not_true,
    Bool.false_eq_true, if_false]

theorem signalIssue_held {s : State} {n lc : Nat} {i : Iss}
    (hown : (byteAt i.d 8).testBit 0 = true → clvOwned s (leAt i.d 0xA 2) n = true) (htag : i.tag.isSome = true)
    (hroom : (seq s n lc).held.length < 16) :
    signalIssue n lc i s = advance (updSeq s n lc (fun q => { q with held := (seq s n lc).held ++ [i] })) n lc i := by
  simp only [signalIssue, clave_check hown, htag, Nat.not_le.mpr hroom, Bool.false_eq_true, if_false, if_true]
  rfl

/-- A SIGNAL to a row-ready counter: it adds, and the stream goes on (R249). -/
theorem signalRowReady_facts {s : State} {n lc : Nat} {i : Iss} (hbit : (byteAt i.d 8).testBit 0 = false) :
    let t := immediate (signalDo n lc i.d s) n lc i false
    Passed s t n lc ∧
      (seq t n lc).rrc = tset (seq s n lc).rrc (leAt i.d 0xA 2)
        (tgetD (seq s n lc).rrc (leAt i.d 0xA 2) 0 + word (leAt i.d 0xC 4)) ∧
      t.clave = s.clave ∧ t.mem = s.mem := by
  rw [signalDo_rowReady n lc s hbit]
  refine ⟨(immediate_passed _ n lc i false).of_place (by rw [seq_updSeq]; rfl) rfl, ?_, ?_, ?_⟩
  · rw [seq_immediate, seq_updSeq]
    exact (Seq.over_same _ i).2.2.1
  · exact (immediate_same _ n lc i false).2
  · exact (immediate_same _ n lc i false).1

/-- A SIGNAL that sets counter k at the hub: the stream goes on, and no other counter changes (R251). -/
theorem signalHub_facts {s : State} {n lc k : Nat} {i : Iss} {v : Word} (hcore : (seq s n lc).core < 48)
    (h : RingsOnly { s with clave := tset s.clave k v } (signalDo n lc i.d s)) :
    let t := immediate (signalDo n lc i.d s) n lc i false
    Passed s t n lc ∧ clv t k = v ∧ ∀ j, j ≠ k → clv t j = clv s j := by
  obtain ⟨hseqs, hclave, -, hlow⟩ := h
  have hclv := (immediate_same (signalDo n lc i.d s) n lc i false).2.trans hclave
  refine ⟨(immediate_passed _ n lc i false).of_place (congrArg Seq.place (seq_congr hseqs n lc)) (hlow _ _ ?_ (by decide)), ?_,
    fun j hj => ?_⟩
  · unfold lcPg corePg
    omega
  · rw [clv, hclv]
    exact tgetD_tset _ _ _ _
  · rw [clv, hclv]
    exact tgetD_tset_ne _ _ _ hj.symm

/-! ### The commands -/

theorem execClaveValWrite_reaches {s : State} {m : Master} {k : Nat} (v : Word) (hk : k < 256)
    (h : reaches s m 0x190 (0x800 + 16 * k) = true) : execClaveValWrite m k v s = .next (clvSet s k v) := by
  rw [execClaveValWrite, if_pos hk, guarded_reaches _ _ _ _ _ h]

/-- Settles O33: each command is its equation, and what going on, faulting or a counter's change leaves alone. -/
theorem waitsAndSignals : Obligations.WaitsAndSignals := by
  unfold Obligations.WaitsAndSignals
  refine ⟨?_, ?_, ?_, ?_, ?_, ?_⟩
  · intro s n lc i h hkind
    obtain ⟨c, hissue⟩ := issue_of_issues h
    have hop := isOp_kind hkind
    refine ⟨updSeq { s with chans := c } n lc (fun q => { q with st := 2, wait := some (waitOf s n i) }), waitOf s n i,
      by rw [seq_updSeq], by rw [seq_updSeq], by rw [seq_updSeq]; rfl, rfl, rfl, rfl, rfl, updSeq_seqOnly _ n lc _, rfl, ?_, ?_⟩
    · intro hbit
      refine ⟨congrArg Host.Outcome.next ((hissue _ _ (by simp only [hop, hbit]; rfl)).trans ?_), rfl, hbit⟩
      exact waitIssue_waits lc (fun hset => absurd (hbit.symm.trans hset) (by decide))
    · intro hbit hown
      refine ⟨congrArg Host.Outcome.next ((hissue _ _ (by simp only [hop, hbit]; rfl)).trans ?_), hbit⟩
      exact waitIssue_waits lc (fun _ => hown)
  · intro s n lc w hw hlive
    refine ⟨fun h => ⟨_, congrArg Host.Outcome.next (waitSatisfied_meets hw hlive h), ?_⟩,
      fun h => congrArg Host.Outcome.next (waitSatisfied_below hw h)⟩
    obtain ⟨i, hseq⟩ := seq_goesOn s n lc w.since (fun q => { q with wait := none, st := 1 })
    rw [hseq]
    obtain ⟨-, hst, -, -, -, hwait, -⟩ := Seq.over_same { seq s n lc with wait := none, st := 1 } i
    exact ⟨hwait, hst, goesOn_passed s n lc _ rfl, goesOn_seqOnly s n lc _ _, goesOn_mem s n lc _ _⟩
  · intro s n lc w hw hlive hrst
    refine ⟨fun h => congrArg Host.Outcome.next (waitExpiry_before hw h), fun h => ⟨_, congrArg Host.Outcome.next
      (waitExpiry_due hw hlive h), ?_⟩⟩
    exact seqFaultNow_faulted (s := addWaitCyc s n lc w.since) _ 9 _ hlive hrst
  · intro s n lc i h hkind htag hissued
    obtain ⟨c, hissue⟩ := issue_of_issues h
    have hop := isOp_kind hkind
    refine ⟨fun hbit => ?_, fun hmod hown => ?_, fun hmod hown => ?_⟩
    · have hrun := (hissue (fun d => isOp 0x11 d && !(byteAt d 8).testBit 0) (signalIssue n lc)
        (by simp only [hop, hbit]; rfl)).trans
        (signalIssue_untagged (fun hset => absurd (hbit.symm.trans hset) (by decide)) htag hissued)
      obtain ⟨hpassed, hrrc, hclave, hmem⟩ := signalRowReady_facts (s := { s with chans := c }) (n := n) (lc := lc) hbit
      refine ⟨_, congrArg Host.Outcome.next hrun, hpassed, ?_, ?_, hclave, hmem⟩
      · rw [hrrc]
        exact tgetD_tset _ _ _ _
      · intro k hk
        rw [hrrc]
        exact tgetD_tset_ne _ _ _ hk.symm
    · have hrun := (hissue (fun d => isOp 0x11 d && byteAt d 8 % 4 == 1) (signalIssue n lc)
        (by simp only [hop, hmod]; rfl)).trans (signalIssue_untagged (fun _ => hown) htag hissued)
      exact ⟨_, congrArg Host.Outcome.next hrun,
        signalHub_facts (s := { s with chans := c }) (issues_core h) (signalDo_add n lc _ hmod)⟩
    · have hrun := (hissue (fun d => isOp 0x11 d && byteAt d 8 % 4 == 3) (signalIssue n lc)
        (by simp only [hop, hmod]; rfl)).trans (signalIssue_untagged (fun _ => hown) htag hissued)
      exact ⟨_, congrArg Host.Outcome.next hrun,
        signalHub_facts (s := { s with chans := c }) (issues_core h) (signalDo_set n lc _ hmod)⟩
  · intro s n lc i h hkind htag hmod hown hroom
    obtain ⟨c, hissue⟩ := issue_of_issues h
    have hrun := (hissue (fun d => isOp 0x11 d && byteAt d 8 % 4 == 1) (signalIssue n lc)
      (by simp only [isOp_kind hkind, hmod]; rfl)).trans (signalIssue_held (fun _ => hown) htag hroom)
    refine ⟨_, congrArg Host.Outcome.next hrun, ?_, rfl⟩
    rw [advance_eq, seq_updSeq, seq_updSeq]
    exact (Seq.over_same _ i).2.2.2.1
  · intro s m k v hk h
    exact ⟨_, execClaveValWrite_reaches v hk h, clv_clvSet s k v, fun j hj => clv_clvSet_ne s v hj⟩

end Sys2Proof.Machine
end

section
/-!
PROOF. Claims and fences: O34.
-/
namespace Sys2Proof.Machine

/-! ### CLAIM (R252) -/

theorem bodyOk_congr {s t : State} (h : t.mem = s.mem) (a k : Nat) : bodyOk t a k = bodyOk s a k := by
  induction k generalizing a with
  | zero => rfl
  | succ k ih => simp only [bodyOk, rdMem, h, ih]

/-- The loop that a CLAIM opens: its first take is due. -/
def loopOf (s : State) (n lc : Nat) (i : Iss) : Claim :=
  { ctr := leAt i.d 0xA 2, lease := (byteAt i.d 8).testBit 0, body := (seq s n lc).pc + 64,
    stop := (seq s n lc).pc + 64 * (leAt i.d 0xC 2 + 1), step := leAt i.d 0xE 2, limit := leAt i.d 0x10 4,
    mul := [leAt i.d 0x14 4, leAt i.d 0x18 4, leAt i.d 0x1C 4] }

theorem claimIssue_opens {s : State} {n lc : Nat} {i : Iss} (hown : clvOwned s (leAt i.d 0xA 2) n = true)
    (hlease : (byteAt i.d 8).testBit 0 = true → bit (getR s 0x190 (0x804 + 16 * leAt i.d 0xA 2)) 30 = true)
    (hstop : (seq s n lc).pc + 64 * (leAt i.d 0xC 2 + 1) ≤ (seq s n lc).stop)
    (hbody : bodyOk s ((seq s n lc).pc + 64) (leAt i.d 0xC 2) = true) (hnone : (seq s n lc).claim = none) :
    claimIssue n lc i s =
      updSeq (immediate s n lc i false) n lc (fun q => { q with claim := some (loopOf s n lc i) }) := by
  have hleaseOk : ((byteAt i.d 8).testBit 0 && !bit (getR s 0x190 (0x804 + 16 * leAt i.d 0xA 2)) 30) = false := by
    cases hbit : (byteAt i.d 8).testBit 0 with
    | false => rfl
    | true => rw [hlease hbit]; rfl
  simp only [claimIssue, hown, hleaseOk, hbody, hnone, Nat.not_lt.mpr hstop, Bool.not_true, Bool.or_self, decide_false,
    Option.isSome_none, Bool.false_eq_true, if_false]
  rfl

theorem claimOpened_passed (s : State) (n lc : Nat) (i : Iss) (c : Claim) :
    Passed s (updSeq (immediate s n lc i false) n lc (fun q => { q with claim := some c })) n lc :=
  (immediate_passed s n lc i false).then (by rw [seq_updSeq]) rfl

/-! ### CLAIM_TAKE (R252) -/

/-- The value that the hub answers a take of a counter: the lowest returned one, else the counter's. -/
def takeValue (s : State) (k : Nat) : Nat := (tgetD s.returns k []).headD (clv s k).toNat

/-- What a take changes at the hub: of counters, its own at most, by STEP below LIMIT when no value was returned. -/
theorem hubTake_facts (s : State) (c : Claim) :
    (hubTake s c).2 = takeValue s c.ctr ∧ (hubTake s c).1.seqs = s.seqs ∧ (hubTake s c).1.leases = s.leases ∧
      (∀ k, k ≠ c.ctr → clv (hubTake s c).1 k = clv s k) ∧
      clv (hubTake s c).1 c.ctr = if tgetD s.returns c.ctr [] = [] ∧ takeValue s c.ctr < c.limit then
        clv s c.ctr + word c.step else clv s c.ctr := by
  cases hret : tgetD s.returns c.ctr [] with
  | cons v l =>
    simp [hubTake, takeValue, hret, clv]
  | nil =>
    by_cases hlimit : (clv s c.ctr).toNat < c.limit
    · obtain ⟨hseqs, hclave, hleases, -⟩ := clvSet_ringsOnly s c.ctr (clv s c.ctr + word c.step)
      simp only [hubTake, takeValue, hret, List.headD_nil, true_and, if_pos hlimit]
      exact ⟨hseqs, hleases, fun k hk => clv_clvSet_ne s _ hk, clv_clvSet s c.ctr _⟩
    · simp only [hubTake, takeValue, hret, List.headD_nil, true_and, if_neg hlimit]
      exact ⟨fun _ _ => rfl, rfl⟩

/-- The loop with its next iteration under way. -/
def Claim.taken (c : Claim) (v : Nat) : Claim := { c with due := false, val := some v, iter := c.iter + 1 }

/-- A sequencer at the first descriptor of its loop's body, with the indices of value v. -/
def Seq.iterates (q : Seq) (c : Claim) (v : Nat) : Seq :=
  { q with claim := some (c.taken v), pc := c.body, idx := c.mul.map (fun m => v * m % 2 ^ 32) }

/-- A sequencer that has left its loop. -/
def Seq.leaves (q : Seq) (c : Claim) : Seq := skipDone { q with claim := none, pc := c.stop } 32

theorem Seq.leaves_facts (q : Seq) (c : Claim) :
    (q.leaves c).claim = none ∧ (q.skip = [] → (q.leaves c).pc = c.stop) := by
  obtain ⟨pc, skip, h⟩ := skipDone_frame { q with claim := none, pc := c.stop } 32
  constructor
  · rw [Seq.leaves, h]
  · intro hskip
    rw [Seq.leaves, skipDone_nil (q := { q with claim := none, pc := c.stop }) hskip]

/-- The hub's record of a take with LEASE. -/
def leased (s : State) (c : Claim) (v n lc : Nat) : State :=
  if c.lease then { s with leases := s.leases ++ [(c.ctr, v, n, lc)] } else s

theorem leased_facts (s : State) (c : Claim) (v n lc : Nat) :
    (leased s c v n lc).seqs = s.seqs ∧ (leased s c v n lc).clave = s.clave ∧
      (leased s c v n lc).leases = if c.lease then s.leases ++ [(c.ctr, v, n, lc)] else s.leases := by
  unfold leased
  split
  · exact ⟨rfl, rfl, rfl⟩
  · exact ⟨rfl, rfl, rfl⟩

/-- What a take below LIMIT leaves: the hub's counters, the sequencer in its body, and the value's lease. -/
theorem iterates_facts (s : State) (n lc : Nat) (c : Claim) :
    let v := takeValue s c.ctr
    let t := updSeq (leased (hubTake s c).1 c v n lc) n lc (fun q => q.iterates c v)
    (∀ k, clv t k = clv (hubTake s c).1 k) ∧ seq t n lc = (seq s n lc).iterates c v ∧
      t.leases = if c.lease then s.leases ++ [(c.ctr, v, n, lc)] else s.leases := by
  obtain ⟨-, hseqs, hleases, -⟩ := hubTake_facts s c
  obtain ⟨hseqs', hclave, hleases'⟩ := leased_facts (hubTake s c).1 c (takeValue s c.ctr) n lc
  refine ⟨clv_congr hclave, ?_, ?_⟩
  · rw [seq_updSeq, seq_congr (hseqs'.trans hseqs)]
  · rw [hleases] at hleases'
    exact hleases'

section Take

variable {s : State} {n lc : Nat} {c : Claim} (hclaim : (seq s n lc).claim = some c) (hdue : c.due = true)
  (hlive : seqLive s n lc = true) (hst : (seq s n lc).st = 1) (hroom : c.lease = true → s.leases.length < 1024)

include hclaim hdue hlive hst hroom

/-- A take that is served. -/
theorem claimTake_served : claimTake s n lc =
    if c.limit ≤ takeValue s c.ctr then updSeq (hubTake s c).1 n lc (fun q => q.leaves c)
    else updSeq (leased (hubTake s c).1 c (takeValue s c.ctr) n lc) n lc (fun q => q.iterates c (takeValue s c.ctr)) := by
  have hroomOk : (c.lease && decide (1024 ≤ s.leases.length)) = false := by
    cases hlease : c.lease with
    | false => rfl
    | true => exact decide_eq_false (Nat.not_le.mpr (hroom hlease))
  simp only [claimTake, hclaim, hdue, hlive, hst, hroomOk, (hubTake_facts s c).1, Bool.not_true, bne_self_eq_false,
    Bool.or_self, Bool.false_eq_true, if_false]
  rfl

/-- Below LIMIT the body runs. -/
theorem claimTake_below (h : takeValue s c.ctr < c.limit) : claimTake s n lc =
    updSeq (leased (hubTake s c).1 c (takeValue s c.ctr) n lc) n lc (fun q => q.iterates c (takeValue s c.ctr)) := by
  rw [claimTake_served hclaim hdue hlive hst hroom, if_neg (Nat.not_le.mpr h)]

/-- At LIMIT or above the stream leaves the loop. -/
theorem claimTake_above (h : c.limit ≤ takeValue s c.ctr) :
    claimTake s n lc = updSeq (hubTake s c).1 n lc (fun q => q.leaves c) := by
  rw [claimTake_served hclaim hdue hlive hst hroom, if_pos h]

end Take

/-! ### FENCE (R248) -/

theorem isFence_kind {i : Iss} {k : Nat} (h : i.kind = 0x30) (hk : byteAt i.d 8 = k) : isFence k i.d = true := by
  simp only [isFence, isOp_kind h, hk, beq_self_eq_true, Bool.and_self]

theorem fenceIssue_idle {s : State} {n lc : Nat} (i : Iss) (h : (seq s n lc).issued = []) :
    fenceIssue n lc i s = immediate s n lc i false := by
  simp only [fenceIssue, h, List.isEmpty_nil, if_true]

theorem fenceIssue_busy {s : State} {n lc : Nat} (i : Iss) (h : (seq s n lc).issued ≠ []) : fenceIssue n lc i s = s := by
  simp only [fenceIssue, List.isEmpty_iff, h, if_false]

theorem barrierIssue_waits {s : State} {n lc : Nat} {i : Iss} (h : (seq s n lc).issued = [])
    (hid : ∀ l x y, (seq s n l).barrier = some (x, y) → x = leAt i.d 0xA 2) :
    barrierIssue n lc i s = updSeq s n lc (fun q => { q with st := 2, barrier := some (leAt i.d 0xA 2, now s) }) := by
  simp only [barrierIssue, h, List.isEmpty_nil, Bool.not_true, Bool.false_eq_true, if_false]
  split
  · next hother =>
    obtain ⟨l, -, hl⟩ := List.any_eq_true.mp hother
    cases hbar : (seq s n l).barrier with
    | none => simp [hbar] at hl
    | some p => simp [hbar, hid l p.1 p.2 hbar] at hl
  · rfl

/-- A sequencer whose stream has ended. -/
def Seq.atEnd (q : Seq) : Seq := { q with ended := true, st := 0, claim := none }

/-- The state that END leaves. -/
def endedStream (s : State) (n lc : Nat) (i : Iss) : State :=
  updCtx (updSeq (immediate s n lc i false) n lc Seq.atEnd) n
    (fun c => { c with ended := if c.ended.contains lc then c.ended else c.ended ++ [lc] })

theorem endIssue_ends {s : State} {n lc : Nat} (i : Iss) (h : (seq s n lc).issued = [])
    (hstop : (seq s n lc).pc + 64 = (seq s n lc).stop) : endIssue n lc i s = endedStream s n lc i := by
  simp only [endIssue, h, hstop, bne_self_eq_false, List.isEmpty_nil, Bool.not_true, Bool.false_eq_true, if_false]
  rfl

theorem endedStream_facts (s : State) (n lc : Nat) (i : Iss) :
    (seq (endedStream s n lc i) n lc).ended = true ∧ (ctx (endedStream s n lc i) n).ended.contains lc = true ∧
      SeqOnly s (endedStream s n lc i) n lc ∧ (endedStream s n lc i).mem = s.mem := by
  refine ⟨?_, ?_, (immediate_seqOnly s n lc i false).trans ?_, (immediate_same s n lc i false).1⟩
  · exact congrArg Seq.ended (seq_updSeq (immediate s n lc i false) n lc Seq.atEnd)
  · rw [endedStream, ctx_updCtx]
    dsimp only
    split
    · assumption
    · simp
  · exact updSeq_seqOnly (immediate s n lc i false) n lc Seq.atEnd

/-! ### The barrier's release (R248) -/

/-- A core that waits at the barrier goes on. -/
def released (n : Nat) (s : State) (l : Nat) : State :=
  match (seq s n l).barrier with
  | none => s
  | some (_, since) => goesOn s n l since (fun q => { q with st := 1, barrier := none })

theorem barrierRelease_all {s : State} {n : Nat} (hrun : (ctx s n).st = .running) (hne : lcores s n ≠ [])
    (hall : ∀ l ∈ lcores s n, (seq s n l).barrier.isSome = true) :
    barrierRelease s n = (lcores s n).foldl (released n) s := by
  have hany : ((lcores s n).any fun l => (seq s n l).barrier.isNone) = false :=
    List.any_eq_false.mpr fun l hl => by
      have := hall l hl
      simp_all [Option.isSome_iff_ne_none]
  have hempty : (lcores s n).isEmpty = false := by simpa using hne
  simp only [barrierRelease, hrun, hempty, hany, bne_self_eq_false, Bool.or_self, Bool.false_eq_true, if_false]
  rfl

/-- A sequencer has gone on from the barrier. -/
def wentOn (q q' : Seq) : Prop := q'.barrier = none ∧ q'.st = 1 ∧ (q.skip = [] → q'.pc = q.pc + 64)

theorem released_facts {s : State} {n l : Nat} (h : (seq s n l).barrier.isSome = true) :
    (released n s l).mem = s.mem ∧ SeqOnly s (released n s l) n l ∧ wentOn (seq s n l) (seq (released n s l) n l) := by
  obtain ⟨p, hp⟩ := Option.isSome_iff_exists.mp h
  have hrel : released n s l = goesOn s n l p.2 (fun q => { q with st := 1, barrier := none }) := by
    simp only [released, hp]
  obtain ⟨i, hseq⟩ := seq_goesOn s n l p.2 (fun q => { q with st := 1, barrier := none })
  rw [hrel, hseq]
  obtain ⟨-, hst, -, -, -, -, hbar⟩ := Seq.over_same { seq s n l with st := 1, barrier := none } i
  exact ⟨goesOn_mem s n l _ _, goesOn_seqOnly s n l _ _, hbar, hst,
    fun hskip => Seq.over_pc (q := { seq s n l with st := 1, barrier := none }) hskip i⟩

/-- Every core of a list is released once, by its own step. -/
theorem releases_facts (n : Nat) (ls : List Nat) (hnodup : ls.Nodup) (s : State)
    (hall : ∀ l ∈ ls, (seq s n l).barrier.isSome = true) :
    (ls.foldl (released n) s).mem = s.mem ∧ (∀ l, l ∉ ls → seq (ls.foldl (released n) s) n l = seq s n l) ∧
      ∀ l ∈ ls, wentOn (seq s n l) (seq (ls.foldl (released n) s) n l) := by
  induction ls generalizing s with
  | nil => exact ⟨rfl, fun _ _ => rfl, by simp⟩
  | cons x ls ih =>
    obtain ⟨hx, hnodup⟩ := List.nodup_cons.mp hnodup
    obtain ⟨hmem, honly, hwent⟩ := released_facts (hall x (List.mem_cons_self ..))
    have hsame : ∀ l, l ≠ x → seq (released n s x) n l = seq s n l := fun l hl => honly.seq_ne hl
    have hne : ∀ l ∈ ls, l ≠ x := fun l hl e => hx (e ▸ hl)
    obtain ⟨ihmem, ihout, ihin⟩ := ih hnodup (released n s x)
      (fun l hl => by rw [hsame l (hne l hl)]; exact hall l (List.mem_cons_of_mem _ hl))
    refine ⟨ihmem.trans hmem, fun l hl => ?_, fun l hl => ?_⟩
    · rw [List.mem_cons, not_or] at hl
      exact (ihout l hl.2).trans (hsame l hl.1)
    · rcases List.mem_cons.mp hl with rfl | hl
      · rw [List.foldl_cons, ihout l hx]
        exact hwent
      · rw [List.foldl_cons, ← hsame l (hne l hl)]
        exact ihin l hl

/-! ### The commands -/

/-- Settles O34: each command is its equation, and the barrier's release goes through the cores one by one. -/
theorem claimsAndFences : Obligations.ClaimsAndFences := by
  unfold Obligations.ClaimsAndFences
  refine ⟨?_, ?_, ?_, ?_, ?_, ?_⟩
  · intro s n lc i h hkind hown hlease hstop hbody hnone
    obtain ⟨c, hissue⟩ := issue_of_issues h
    have hrun := (hissue _ (claimIssue n lc) (isOp_kind hkind)).trans
      (claimIssue_opens hown hlease hstop ((bodyOk_congr (s := s) (t := { s with chans := c }) rfl _ _).trans hbody) hnone)
    exact ⟨_, loopOf s n lc i, congrArg Host.Outcome.next hrun, congrArg Seq.claim (seq_updSeq _ n lc _), rfl, rfl, rfl, rfl,
      rfl, rfl, rfl, claimOpened_passed { s with chans := c } n lc i _, (immediate_same { s with chans := c } n lc i false).2⟩
  · intro s n lc v c hclaim hdue hlive hst hroom hv
    obtain ⟨-, hseqs, hleases, hother, hown⟩ := hubTake_facts s c
    obtain rfl : v = takeValue s c.ctr := hv
    rcases Nat.lt_or_ge (takeValue s c.ctr) c.limit with hlt | hge
    · obtain ⟨hclv, hseq, hlease⟩ := iterates_facts s n lc c
      refine ⟨_, congrArg Host.Outcome.next (claimTake_below hclaim hdue hlive hst hroom hlt),
        fun k hk => (hclv k).trans (hother k hk), fun _ => ?_, fun hge => absurd hlt (Nat.not_lt.mpr hge)⟩
      rw [hseq]
      refine ⟨rfl, rfl, fun hret => ?_, fun hret => ?_, hlease, c.taken (takeValue s c.ctr), rfl, rfl, rfl⟩
      · rw [hclv, hown, if_pos ⟨hret, hlt⟩]
      · rw [hclv, hown, if_neg (fun hnil => hret hnil.1)]
    · refine ⟨_, congrArg Host.Outcome.next (claimTake_above hclaim hdue hlive hst hroom hge), hother,
        fun hlt => absurd hlt (Nat.not_lt.mpr hge), fun _ => ?_⟩
      obtain ⟨hnone, hpc⟩ := (seq s n lc).leaves_facts c
      rw [if_neg (fun hnil => absurd hnil.2 (Nat.not_lt.mpr hge))] at hown
      rw [seq_updSeq, seq_congr hseqs]
      exact ⟨hnone, hown, hleases, hpc⟩
  · intro s n lc i h hkind hscope
    obtain ⟨c, hissue⟩ := issue_of_issues h
    refine ⟨fenceIssue n lc i { s with chans := c },
      fun hk => congrArg Host.Outcome.next (hissue _ _ (isFence_kind hkind hk)),
      fun hk => congrArg Host.Outcome.next (hissue _ _ (isFence_kind hkind hk)), ?_⟩
    by_cases hissued : (seq s n lc).issued = []
    · rw [fenceIssue_idle (s := { s with chans := c }) i hissued]
      exact ⟨(immediate_same { s with chans := c } n lc i false).1, immediate_seqOnly { s with chans := c } n lc i false,
        fun _ => immediate_passed { s with chans := c } n lc i false, fun hbusy => absurd hissued hbusy⟩
    · rw [fenceIssue_busy (s := { s with chans := c }) i hissued]
      exact ⟨rfl, SeqOnly.refl s n lc, fun hidle => absurd hidle hissued, fun _ => ⟨rfl, rfl⟩⟩
  · intro s n lc i h hkind hscope hissued hid
    obtain ⟨c, hissue⟩ := issue_of_issues h
    refine ⟨_, congrArg Host.Outcome.next ((hissue _ _ (isFence_kind hkind hscope)).trans (barrierIssue_waits hissued hid)),
      ?_, ?_, ?_, updSeq_seqOnly _ n lc _, rfl⟩
    · rw [seq_updSeq]; rfl
    · rw [seq_updSeq]
    · rw [seq_updSeq]; rfl
  · intro s n hrun _ hne hall
    obtain ⟨hmem, -, hwent⟩ := releases_facts n (lcores s n) List.nodup_range s hall
    exact ⟨_, congrArg Host.Outcome.next (barrierRelease_all hrun hne hall), hmem, hwent⟩
  · intro s n lc i h hkind hscope hissued hstop
    obtain ⟨c, hissue⟩ := issue_of_issues h
    exact ⟨_, congrArg Host.Outcome.next ((hissue _ _ (isFence_kind hkind hscope)).trans (endIssue_ends i hissued hstop)),
      endedStream_facts { s with chans := c } n lc i⟩

end Sys2Proof.Machine
end

section
/-!
PROOF. Bytes moved through handles: reads and writes of byte ranges, of scratchpads, and of SCRATCH handles (R230, R277).
-/
namespace Sys2Proof.Machine

/-! ### Ranges of bytes -/

theorem memWrL_append (m : List Host.Cell) (a : Nat) (l l' : List Byte) :
    memWrL m a (l ++ l') = memWrL (memWrL m a l) (a + l.length) l' := by
  induction l generalizing m a with
  | nil => rfl
  | cons b l ih =>
    rw [List.cons_append, memWrL, memWrL, ih, List.length_cons, Nat.add_assoc, Nat.add_comm 1]

/-- A written range reads back whole. -/
theorem memRdL_memWrL (m : List Host.Cell) (a : Nat) {n : Nat} {l : List Byte} (h : l.length = n) :
    memRdL (memWrL m a l) a n = l := by
  subst h
  induction l generalizing m a with
  | nil => rfl
  | cons b l ih =>
    have hfirst : memRd (memWrL m a (b :: l)) a = b := memRd_memWrL_in m a 0 (b :: l) (Nat.zero_lt_succ _)
    rw [List.length_cons, memRdL, hfirst, memWrL, ih]

/-! ### Scratchpads (R286) -/

/-- A scratchpad read answers the bytes; it can count PENDING rows. -/
theorem scrRead_frame (s : State) (c o n : Nat) :
    ∃ r, scrRead s c o n = ({ s with regs := r }, rdMem s (scratchAddr c o) n) := by
  unfold scrRead
  dsimp only
  split
  · exact ⟨s.regs, rfl⟩
  · exact ⟨_, rfl⟩

/-- Bytes written at an address, the scratchpads' states being as given. -/
def stored (s : State) (x : Tbl CoreSt) (a : Nat) (l : List Byte) : State :=
  { s with cores := x, mem := memWrL s.mem a l }

theorem stored_stored (s : State) (x y : Tbl CoreSt) (a : Nat) (l l' : List Byte) :
    stored (stored s x a l) y (a + l.length) l' = stored s y a (l ++ l') := by
  simp only [stored, memWrL_append]

/-- A scratchpad write writes the bytes; PENDING can clear in its rows. -/
theorem scrWrite_stored (s : State) (c o : Nat) (l : List Byte) :
    ∃ x, scrWrite s c o l = stored s x (scratchAddr c o) l := by
  unfold scrWrite
  dsimp only
  split
  · exact ⟨s.cores, rfl⟩
  · exact ⟨_, rfl⟩

theorem scratchAddr_add (c o k : Nat) : scratchAddr c (o + k) = scratchAddr c o + k := by
  unfold scratchAddr
  omega

/-! ### SCRATCH handles -/

section Handle

variable {n lc hb o : Nat} {i : Iss} {h : HRef} (hscr : h.scr = true)

include hscr

/-- A read inside a SCRATCH handle. -/
theorem hRead_inside {s : State} {ofs len : Nat} (hh : href s n lc (hb % 64) = some h)
    (ho : (ofs + iselOf i hb) % 2 ^ 32 = o) (hext : o + len ≤ h.ext) :
    ∃ r, hRead s n lc i hb ofs len = ({ s with regs := r }, rdMem s (scratchAddr h.core (h.base + o)) len, none) := by
  obtain ⟨r, hr⟩ := scrRead_frame s h.core (h.base + o) len
  have hlen : min len (h.ext - o) = len := Nat.min_eq_left (by omega)
  refine ⟨r, ?_⟩
  simp only [hRead, hh, hscr, ho, hlen, hr, Bool.not_true, Bool.false_eq_true, if_false, Nat.lt_irrefl]

/-- A write inside a SCRATCH handle that is not read-only. -/
theorem hWrite_inside {s : State} {ofs : Nat} {l : List Byte} (hh : href s n lc (hb % 64) = some h) (hro : h.ro = false)
    (ho : (ofs + iselOf i hb) % 2 ^ 32 = o) (hext : o + l.length ≤ h.ext) :
    ∃ x, hWrite s n lc i hb ofs l = (stored s x (scratchAddr h.core (h.base + o)) l, none) := by
  obtain ⟨x, hx⟩ := scrWrite_stored s h.core (h.base + o) l
  have hlen : min l.length (h.ext - o) = l.length := Nat.min_eq_left (by omega)
  refine ⟨x, ?_⟩
  simp only [hWrite, hh, hscr, hro, ho, hlen, List.take_length, hx, Bool.not_true, Bool.or_self, Bool.false_eq_true, if_false,
    Nat.lt_irrefl]

/-- The place of a byte inside a SCRATCH handle that an operand names, and how far it reaches. -/
theorem opTgt_inside {s : State} {x : Opnd} {ofs : Nat} (hx : x.isH = true) (hh : href s n lc (x.hb % 64) = some h)
    (hro : h.ro = false) (ho : (x.base + iselOf i x.hb) % 2 ^ 32 = o) (hext : o + ofs < h.ext) (hwrap : o + ofs < 2 ^ 32) :
    opTgt s n lc i x ofs true =
      (.scr h.core (h.base + (o + ofs)), min (64 - (h.base + (o + ofs)) % 64) (h.ext - (o + ofs))) := by
  have hofs : (x.base + ofs + iselOf i x.hb) % 2 ^ 32 = o + ofs := by omega
  simp only [opTgt, hx, hh, hro, hscr, hofs, Nat.not_le.mpr hext, Bool.not_true, Bool.and_false, Bool.false_eq_true, if_false,
    if_true]

/-- Bytes written through an operand inside a SCRATCH handle stand there, and nothing else of memory changes. -/
theorem opWrite_inside {x : Opnd} (hx : x.isH = true) (hro : h.ro = false) (ho : (x.base + iselOf i x.hb) % 2 ^ 32 = o)
    (fuel ofs : Nat) (l : List Byte) (s : State) (hh : href s n lc (x.hb % 64) = some h) (hfuel : l.length < fuel)
    (hext : o + ofs + l.length ≤ h.ext) (hwrap : o + ofs + l.length ≤ 2 ^ 32) :
    ∃ y, opWrite n lc i x fuel ofs l s =
      (stored s y (scratchAddr h.core (h.base + (o + ofs))) l, l.length, none) := by
  induction fuel generalizing ofs l s with
  | zero => exact absurd hfuel (Nat.not_lt_zero _)
  | succ fuel ih =>
    rcases Nat.eq_zero_or_pos l.length with hnil | hpos
    · obtain rfl := List.length_eq_zero_iff.mp hnil
      exact ⟨s.cores, rfl⟩
    · have htgt := opTgt_inside (s := s) hscr hx hh hro ho (ofs := ofs) (by omega) (by omega)
      obtain ⟨k, hk⟩ : ∃ k, k = min (min (64 - (h.base + (o + ofs)) % 64) (h.ext - (o + ofs))) l.length := ⟨_, rfl⟩
      have hkpos : 0 < k := by omega
      have hkle : k ≤ l.length := by omega
      have htake : (l.take k).length = k := by rw [List.length_take, Nat.min_eq_left hkle]
      obtain ⟨y, hy⟩ := scrWrite_stored s h.core (h.base + (o + ofs)) (l.take k)
      obtain ⟨z, hz⟩ := ih (ofs + k) (l.drop k) (stored s y (scratchAddr h.core (h.base + (o + ofs))) (l.take k)) hh
        (by rw [List.length_drop]; omega) (by rw [List.length_drop]; omega) (by rw [List.length_drop]; omega)
      have hplace : scratchAddr h.core (h.base + (o + (ofs + k))) =
          scratchAddr h.core (h.base + (o + ofs)) + (l.take k).length := by
        rw [htake, ← scratchAddr_add, Nat.add_assoc h.base, Nat.add_assoc o]
      rw [hplace, stored_stored, List.take_append_drop] at hz
      have hempty : l.isEmpty = false := by simpa [List.isEmpty_iff] using List.ne_nil_of_length_pos hpos
      refine ⟨z, ?_⟩
      simp only [opWrite, hempty, Bool.false_eq_true, if_false, htgt, ← hk, tgtWrite, hy, hz, List.length_drop,
        Nat.add_sub_cancel' hkle]

end Handle

end Sys2Proof.Machine
end

section
/-!
PROOF. DMA, RESHARD and top-k: O32.
-/
namespace Sys2Proof.Machine

/-! ### Registers under a counted event -/

section PbaWords

variable {P : Tbl Word → Prop} (hpba : ∀ t v w, v < 2048 → P t → P (tset t (rkey 0x202 (4 * (v / 32))) w))

include hpba

/-- What holds of the registers whatever the words of the PBA are, holds after an interrupt request. -/
theorem msixTake_regs {s : State} {v : Nat} (hv : v < 2048) (hs : P s.regs) : P (msixTake s v).regs := by
  unfold msixTake
  split
  · have hpme : (msixPme (pbaSet s v true)).regs = (pbaSet s v true).regs := by unfold msixPme; split <;> rfl
    rw [hpme]
    exact hpba s.regs v _ hv hs
  · have hsend : (msixSend s v).regs = s.regs := by unfold msixSend; dsimp only; split <;> rfl
    rw [hsend]
    exact hs

theorem msixMerge_regs {s : State} (hs : P s.regs) : P (msixMerge s).regs := by
  unfold msixMerge
  dsimp only
  split
  · exact hs
  · split
    · next hvec => exact msixTake_regs hpba (irqVec_lt hvec) hs
    · exact hs

theorem irqReq_regs {s : State} (p : Nat) (hs : P s.regs) : P (irqReq s p).regs := by
  unfold irqReq
  split
  · unfold msixReq
    split
    · exact hs
    · next hsend =>
      simp only [Bool.or_eq_true, decide_eq_true_eq, not_or, Nat.not_le] at hsend
      split
      · exact msixTake_regs hpba hsend.2 (msixMerge_regs hpba hs)
      · exact msixTake_regs hpba hsend.2 hs
  · exact hs

theorem bump_regs {s : State} (p m : Nat) (hs : P s.regs) : P (bump s p m).regs := by
  unfold bump
  dsimp only
  split
  · exact hs
  · exact irqReq_regs hpba p hs

end PbaWords

/-- A counted event leaves the register at 0x218 of every page: the PBA's words lie below that offset. -/
theorem bump_done (s : State) (q m p : Nat) :
    tgetD (bump s q m).regs (rkey p 0x218) 0 = tgetD s.regs (rkey p 0x218) 0 :=
  bump_regs (P := fun t => tgetD t (rkey p 0x218) 0 = tgetD s.regs (rkey p 0x218) 0)
    (fun t v w hv ht => (tgetD_tset_ne t w 0 (by unfold rkey; omega)).trans ht) q m rfl

/-! ### Read requests (R309, R455) -/

/-- What making read requests leaves alone: sequencers, both memories, and the cores' counts of completed descriptors. -/
structure Requests (s t : State) : Prop where
  seqs : t.seqs = s.seqs
  mem : t.mem = s.mem
  pcieMem : t.pcieMem = s.pcieMem
  done : ∀ p, tgetD t.regs (rkey p 0x218) 0 = tgetD s.regs (rkey p 0x218) 0

theorem Requests.refl (s : State) : Requests s s := ⟨rfl, rfl, rfl, fun _ => rfl⟩

theorem dmaReads_requests (n lc c : Nat) (i : Iss) (l : List (Nat × Nat)) (s : State) :
    Requests s (dmaReads n lc c i l s).1 := by
  induction l generalizing s with
  | nil => exact .refl s
  | cons u l ih =>
    unfold dmaReads
    split
    · split
      · exact .refl s
      · split
        · exact ⟨by simp, by simp, by simp, bump_done s 0x180 7⟩
        · obtain ⟨hseqs, hmem, hpcie, hdone⟩ := ih (hostMark { s with pcie := { s.pcie with np := tset s.pcie.np _ _ } })
          exact ⟨hseqs, hmem, hpcie, hdone⟩
    · exact .refl s

/-- A descriptor stays retired when the issued ones keep their addresses and iterations and the count stands. -/
theorem Retired.after {u s t : State} {n lc : Nat} {i : Iss} (h : Retired u s n lc i)
    (hissued : ∀ j ∈ (seq t n lc).issued, ∃ k ∈ (seq s n lc).issued, j.addr = k.addr ∧ j.iter = k.iter)
    (hdone : ∀ p, tgetD t.regs (rkey p 0x218) 0 = tgetD s.regs (rkey p 0x218) 0) : Retired u t n lc i := by
  obtain ⟨hgone, hcount⟩ := h
  refine ⟨fun j hj => ?_, (hdone _).trans hcount⟩
  obtain ⟨k, hk, haddr, hiter⟩ := hissued j hj
  rw [haddr, hiter]
  exact hgone k hk

/-- Making read requests brings no retired descriptor back, and leaves both memories. -/
theorem dmaPump_retired {u s : State} {n lc : Nat} {i : Iss} (h : Retired u s n lc i) :
    Retired u (dmaPump s n lc) n lc i ∧ (dmaPump s n lc).mem = s.mem ∧ (dmaPump s n lc).pcieMem = s.pcieMem := by
  unfold dmaPump
  refine List.foldlRecOn (motive := fun t => Retired u t n lc i ∧ t.mem = s.mem ∧ t.pcieMem = s.pcieMem) _ _
    ⟨h, rfl, rfl⟩ (fun t ht e _ => ?_)
  obtain ⟨hret, hmem, hpcie⟩ := ht
  dsimp only
  split
  · exact ⟨hret, hmem, hpcie⟩
  · next x _ =>
    obtain ⟨hseqs, hmem', hpcie', hdone⟩ :=
      dmaReads_requests n lc (seq t n lc).core x ((hostUnits t n lc x).drop x.units) t
    refine ⟨hret.after ?_ hdone, hmem'.trans hmem, hpcie'.trans hpcie⟩
    intro j hj
    rw [seq_updSeq, seq_congr hseqs] at hj
    obtain ⟨k, hk, rfl⟩ := List.mem_map.mp hj
    refine ⟨k, hk, ?_⟩
    split
    · exact ⟨rfl, rfl⟩
    · exact ⟨rfl, rfl⟩

/-! ### DMA_COMPLETE (R281-R283) -/

/-- What marking handles leaves: all but the sequencers, and each sequencer's core. -/
def HandleMarks (s t : State) (n lc : Nat) : Prop := ∃ q, t = { s with seqs := q } ∧ (seq t n lc).core = (seq s n lc).core

theorem HandleMarks.refl (s : State) (n lc : Nat) : HandleMarks s s n lc := ⟨s.seqs, rfl, rfl⟩

theorem HandleMarks.trans {s t u : State} {n lc : Nat} (h : HandleMarks s t n lc) (k : HandleMarks t u n lc) :
    HandleMarks s u n lc := by
  obtain ⟨q, rfl, hq⟩ := h
  obtain ⟨r, rfl, hr⟩ := k
  exact ⟨r, rfl, hr.trans hq⟩

theorem updHandle_marks (s : State) (n lc num : Nat) (f : List Byte → List Byte) :
    HandleMarks s (updHandle s n lc num f) n lc := by
  refine ⟨_, rfl, ?_⟩
  rw [updHandle, seq_updSeq]

theorem HandleMarks.ite {s t u : State} {n lc : Nat} (c : Prop) [Decidable c] (ht : HandleMarks s t n lc)
    (hu : HandleMarks s u n lc) : HandleMarks s (if c then t else u) n lc := by
  split
  · exact ht
  · exact hu

theorem dmaMarks_marks (s : State) (n lc : Nat) (i : Iss) : HandleMarks s (dmaMarks s n lc i) n lc := by
  unfold dmaMarks
  lift_lets
  intro t
  have ht : HandleMarks s t n lc := by
    dsimp only [t]
    split
    · exact .ite _ ((updHandle_marks s n lc _ _).trans (updHandle_marks _ n lc _ _)) (.refl s n lc)
    · exact .refl s n lc
  refine .ite _ ?_ ht
  split
  · exact .ite _ ht (ht.trans (updHandle_marks t n lc _ _))
  · exact ht

/-- A DMA that nothing holds back and whose move meets no fault retires its descriptor. -/
theorem dmaComplete_moves {s u : State} {n lc e k : Nat} {i : Iss} {f : ExecFact}
    (hi : (seq s n lc).issued.find? (fun j => j.kind == 8 && byteAt j.d 8 % 2 == e) = some i) (hlive : seqLive s n lc = true)
    (hclear : (seq s n lc).clear i = true) (hgates : gatesOf s n lc i = 0) (hwaits : dmaWaits s n lc i = false)
    (harr : dmaArrived s n lc i = true) (hpar : f.par = false) (hhz : f.hz = [])
    (hrun : dmaRun s n lc i i.prog i.dmaBytes = (u, k, none)) :
    dmaComplete s n lc e f = dmaPump (retire (dmaMarks u n lc i) n lc i f.past) n lc := by
  simp [dmaComplete, hi, hlive, hclear, hgates, hwaits, harr, hpar, hhz, hrun]

theorem dmaComplete_facts (u : State) (n lc : Nat) (i : Iss) (past : Bool) :
    let t := dmaPump (retire (dmaMarks u n lc i) n lc i past) n lc
    Retired u t n lc i ∧ t.mem = u.mem ∧ t.pcieMem = u.pcieMem := by
  obtain ⟨q, hmarks, hcore⟩ := dmaMarks_marks u n lc i
  have hret : Retired u (retire (dmaMarks u n lc i) n lc i past) n lc i := by
    obtain ⟨hgone, hcount⟩ := retire_retired (dmaMarks u n lc i) n lc i past
    refine ⟨hgone, ?_⟩
    rw [lcPg, hcore] at hcount
    refine hcount.trans ?_
    rw [hmarks]
    rfl
  obtain ⟨hretired, hmem, hpcie⟩ := dmaPump_retired hret
  obtain ⟨hmem', hpcie', -⟩ := retire_same (dmaMarks u n lc i) n lc i past
  refine ⟨hretired, hmem.trans (hmem'.trans ?_), hpcie.trans (hpcie'.trans ?_)⟩
  · rw [hmarks]
  · rw [hmarks]

/-! ### FILL (R281) -/

/-- The bytes that a FILL writes in a row: its pattern over and over. -/
def fillRow (i : Iss) : List Byte := (List.range (leAt i.d 0x20 4)).map (fun k => (i.d.drop 0x2C).getD (k % 4) 0)

theorem fillRow_length (i : Iss) : (fillRow i).length = leAt i.d 0x20 4 := by rw [fillRow, List.length_map, List.length_range]

/-- A move that has reached its end moves nothing. -/
theorem dmaMove_end (n lc : Nat) (i : Iss) (hi fuel : Nat) (s : State) : dmaMove n lc i hi fuel hi s = (s, hi, none) := by
  cases fuel with
  | zero => rfl
  | succ fuel => simp [dmaMove]

theorem dmaRow_fill (s : State) (n lc j : Nat) {i : Iss} (hfill : i.fill = true) (htransp : i.transp = false) :
    dmaRow s n lc i j 0 = (s, fillRow i, none) := by
  simp [dmaRow, hfill, Iss.dmaShape, htransp, fillRow]

/-- A FILL of one row inside a SCRATCH handle writes its pattern there (R281). -/
theorem dmaRun_fill {s : State} {n lc o : Nat} {i : Iss} {h : HRef} (hfill : i.fill = true) (htransp : i.transp = false)
    (hrows : leAt i.d 0xC 4 = 1) (hdst : i.dst.isH = true) (hh : href s n lc (i.dst.hb % 64) = some h) (hscr : h.scr = true)
    (hro : h.ro = false) (ho : (i.dst.base + iselOf i i.dst.hb) % 2 ^ 32 = o) (hext : o + leAt i.d 0x20 4 ≤ h.ext)
    (hwrap : o + leAt i.d 0x20 4 ≤ 2 ^ 32) :
    (dmaRun s n lc i 0 i.dmaBytes).2.2 = none ∧
      (dmaRun s n lc i 0 i.dmaBytes).1.mem = memWrL s.mem (scratchAddr h.core (h.base + o)) (fillRow i) := by
  have hshape : i.dmaShape = (1, leAt i.d 0x20 4) := by simp [Iss.dmaShape, htransp, hrows]
  have hbytes : i.dmaBytes = (fillRow i).length := by rw [Iss.dmaBytes, hshape, fillRow_length, Nat.one_mul]
  have hmove : ∃ y, dmaMove n lc i i.dmaBytes (i.dmaBytes + 1) 0 s =
      (stored s y (scratchAddr h.core (h.base + o)) (fillRow i), i.dmaBytes, none) := by
    rw [← fillRow_length] at hext hwrap hshape
    have hrow := dmaRow_fill s n lc 0 hfill htransp
    rw [hbytes]
    rcases Nat.eq_zero_or_pos (fillRow i).length with hnone | hpos
    · refine ⟨s.cores, ?_⟩
      simp [dmaMove, List.length_eq_zero_iff.mp hnone, stored, memWrL]
    · obtain ⟨y, hy⟩ :=
        opWrite_inside hscr hdst hro ho ((fillRow i).length + 1) 0 (fillRow i) s hh (Nat.lt_succ_self _) hext hwrap
      refine ⟨y, ?_⟩
      simp [dmaMove, hshape, hrow, hy, List.ne_nil_of_length_pos hpos, dmaMove_end]
  obtain ⟨y, hy⟩ := hmove
  simp [dmaRun, hy, overlapFix, hfill, stored, putR64]

/-! ### RESHARD (R246, R247) -/

/-- A RESHARD whose partners have all issued, and whose pushes meet no fault, retires. -/
theorem reshardComplete_met {s u : State} {n lc : Nat} {i : Iss} {f : ExecFact} (h : reshardMet s n lc i = true)
    (hpar : f.par = false) (hhz : f.hz = [])
    (hpush : reshardPushes n i.d ((partsOf i.d).takeWhile (· != lc)).length s = (u, none)) :
    reshardComplete s n lc f = retire u n lc i f.past := by
  simp only [reshardMet, Bool.and_eq_true, beq_iff_eq] at h
  obtain ⟨⟨hhead, hlive⟩, hall⟩ := h
  unfold reshardComplete
  rw [hhead]
  dsimp only
  rw [hlive, hpush, hpar, hhz, Bool.not_true, Bool.false_or]
  split
  · next hmissing =>
    rw [Bool.not_eq_true'] at hmissing
    exact absurd (hall.symm.trans hmissing) (by decide)
  · rfl

/-- The partners of a core's RESHARD that have not issued theirs. -/
def reshardMissing (s : State) (n lc : Nat) (i : Iss) : Bool :=
  (partners i.d ((partsOf i.d).takeWhile (· != lc)).length).any fun k =>
    (partsOf i.d).getD k 64 != lc && !i.got.contains ((partsOf i.d).getD k 64) &&
      (reshardAt s n ((partsOf i.d).getD k 64) i.d).isNone

theorem reshardExpiry_eq {s : State} {n lc : Nat} {i : Iss} (hi : (seq s n lc).issued.find? (fun j => j.kind == 9) = some i)
    (hlive : seqLive s n lc = true) (hmissing : reshardMissing s n lc i = true) :
    reshardExpiry s n lc =
      if now s < i.since + wdogTicks s n then s else seqFaultNow s n lc i 0x09 (lcPg s n lc) := by
  simp only [reshardMissing] at hmissing
  simp only [reshardExpiry, hi, hlive, hmissing, Bool.not_true, Bool.or_self, Bool.false_or, decide_eq_true_eq]

/-! ### Top-k (R350) -/

theorem topPairs_length (k : Nat) (l : List (Nat × Nat)) : (topPairs k l).length = k := by
  simp only [topPairs, List.length_append, List.length_take, List.length_replicate]
  omega

theorem pairBytes_length (l : List (Nat × Nat)) : (pairBytes l).length = 8 * l.length := by
  induction l with
  | nil => rfl
  | cons q l ih =>
    rw [pairBytes, List.flatMap_cons, List.length_append, ← pairBytes, ih, List.length_append, leBytes_length, leBytes_length,
      List.length_cons]
    omega

/-- The logits of m tokens from `first` on, as bytes hold them. -/
def logitsOf (first m : Nat) (l : List Byte) : List (Nat × Nat) :=
  (List.range m).map (fun j => (first + j, leAt l (4 * j) 4))

/-- The bytes that the top-k program writes for m logits in bytes l. -/
def topBytes (first m k : Nat) (l : List Byte) : List Byte := pairBytes (topPairs k (logitsOf first m l))

theorem topBytes_length (first m k : Nat) (l : List Byte) : (topBytes first m k l).length = 8 * k := by
  rw [topBytes, pairBytes_length, topPairs_length]

/-- The top-k program between two SCRATCH handles that contain its logits and its pairs. -/
theorem topRun_inside {s : State} {n lc first m k o0 o1 : Nat} {i : Iss} {h0 h1 : HRef}
    (hh0 : href s n lc (i.h 0 % 64) = some h0) (hh1 : href s n lc (i.h 1 % 64) = some h1) (hs0 : h0.scr = true)
    (hs1 : h1.scr = true) (hro : h1.ro = false) (ho0 : iselOf i (i.h 0) % 2 ^ 32 = o0) (ho1 : iselOf i (i.h 1) % 2 ^ 32 = o1)
    (hext0 : o0 + 4 * m ≤ h0.ext) (hext1 : o1 + 8 * k ≤ h1.ext) :
    ∃ u, vecProg n lc i (.topK first m k) s = (u, none) ∧ u.mem = memWrL s.mem (scratchAddr h1.core (h1.base + o1))
      (topBytes first m k (rdMem s (scratchAddr h0.core (h0.base + o0)) (4 * m))) := by
  obtain ⟨r, hread⟩ := hRead_inside (o := o0) hs0 hh0 (i := i) (ofs := 0) (by rw [Nat.zero_add]; exact ho0) hext0
  have hrun : vecProg n lc i (.topK first m k) s = hWrite { s with regs := r } n lc i (i.h 1) 0
      (topBytes first m k (rdMem s (scratchAddr h0.core (h0.base + o0)) (4 * m))) := by
    simp only [vecProg, topRun, hread]
    rfl
  obtain ⟨x, hwrite⟩ := hWrite_inside (o := o1) (s := { s with regs := r }) hs1 hh1 (i := i) (ofs := 0)
    (l := topBytes first m k (rdMem s (scratchAddr h0.core (h0.base + o0)) (4 * m))) hro
    (by rw [Nat.zero_add]; exact ho1) (by rw [topBytes_length]; exact hext1)
  exact ⟨_, hrun.trans hwrite, rfl⟩

/-- A VEC that nothing holds back, under no tag, runs its program and retires. -/
theorem vecStep_runs {s u : State} {n lc : Nat} {i : Iss} {f : VecFact} (hready : vecReady s n lc f.prog = some i)
    (hgates : vecGates s n lc i f.prog = 0) (hpar : f.par = false) (htag : i.tag = none)
    (hprog : vecProg n lc i f.prog s = (u, none)) : vecStep s n lc f = retire u n lc i f.past := by
  simp [vecStep, hready, vecRun, hgates, hpar, vecMarks, htag, hprog]

/-! ### The commands -/

/-- Settles O32: each completion is its equation; where bytes stand afterwards is what their writes say. -/
theorem dataMovement : Obligations.DataMovement := by
  unfold Obligations.DataMovement
  refine ⟨?_, ?_, ?_, ?_, ?_⟩
  · intro s u n lc e k i f hi hlive hclear hgates hwaits harr hpar hhz hrun
    exact ⟨_, congrArg Host.Outcome.next (dmaComplete_moves hi hlive hclear hgates hwaits harr hpar hhz hrun),
      dmaComplete_facts u n lc i f.past⟩
  · intro s n lc e o i f h hi hlive hclear hgates hwaits harr hpar hhz hfill htransp hprog hrows hdst hh hscr hro ho hext hwrap
    obtain ⟨hnone, hmem⟩ := dmaRun_fill hfill htransp hrows hdst hh hscr hro ho.symm hext hwrap
    have hrun : dmaRun s n lc i i.prog i.dmaBytes =
        ((dmaRun s n lc i 0 i.dmaBytes).1, (dmaRun s n lc i 0 i.dmaBytes).2.1, none) := by
      rw [hprog, ← hnone]
    obtain ⟨-, hleft, -⟩ := dmaComplete_facts (dmaRun s n lc i 0 i.dmaBytes).1 n lc i f.past
    refine ⟨_, congrArg Host.Outcome.next (dmaComplete_moves hi hlive hclear hgates hwaits harr hpar hhz hrun), ?_, ?_⟩
    · intro k hk
      rw [hleft, hmem, scratchAddr_add _ (h.base + o) k, memRd_memWrL_in _ _ _ _ (by rw [fillRow_length]; exact hk)]
      simp [fillRow]
    · intro a ha
      rw [hleft, hmem]
      exact memRd_memWrL_out _ _ _ _ (by rw [fillRow_length]; exact ha)
  · intro s u n lc i f hmet hpar hhz hpush
    exact ⟨_, congrArg Host.Outcome.next (reshardComplete_met hmet hpar hhz hpush), retire_retired u n lc i f.past,
      (retire_same u n lc i f.past).1⟩
  · intro s n lc i hi hlive hrst hmissing
    have hexpiry := reshardExpiry_eq hi hlive hmissing
    refine ⟨fun hearly => congrArg Host.Outcome.next (hexpiry.trans (if_pos hearly)), fun hlate => ⟨_,
      congrArg Host.Outcome.next (hexpiry.trans (if_neg (Nat.not_lt.mpr hlate))), ?_⟩⟩
    exact seqFaultNow_faulted i 9 _ hlive hrst
  · intro s n lc first m k o0 o1 i f h0 h1 hf hpar hready hgates htag hh0 hh1 hs0 hs1 hro ho0 ho1 hext0 hext1
    obtain ⟨u, hprog, hmem⟩ := topRun_inside (first := first) hh0 hh1 hs0 hs1 hro ho0.symm ho1.symm hext0 hext1
    obtain ⟨hgone, -⟩ := retire_retired u n lc i f.past
    refine ⟨_, congrArg Host.Outcome.next (vecStep_runs hready hgates hpar htag (by rw [hf]; exact hprog)), hgone, ?_, ?_⟩
    · rw [rdMem, (retire_same u n lc i f.past).1, hmem]
      exact memRdL_memWrL _ _ (topBytes_length first m k _)
    · intro a ha
      rw [(retire_same u n lc i f.past).1, hmem]
      exact memRd_memWrL_out _ _ _ _ (by rw [topBytes_length]; exact ha)

end Sys2Proof.Machine
end

section
/-!
PROOF. Scrubs of scratchpad rows: O36. A kill scrub squashes the open tags first, which rewrites handle entries; the rows
it zeroes are still those the context's handles spanned before (R285, R298, R308).
-/
namespace Sys2Proof.Machine

/-! ### Rows zeroed (R285) -/

/-- Rows of a core's scratchpad zeroed, range by range. -/
def rowsZeroed (s : State) (c : Nat) (rows : List (Nat × Nat)) : State :=
  rows.foldl (fun s r => { s with mem := memZero s.mem (scratchAddr c (64 * r.1)) (64 * (r.2 - r.1)) }) s

theorem rowsZeroed_frame (s : State) (c : Nat) (rows : List (Nat × Nat)) : ∃ m, rowsZeroed s c rows = { s with mem := m } := by
  induction rows generalizing s with
  | nil => exact ⟨s.mem, rfl⟩
  | cons r rows ih =>
    obtain ⟨m, h⟩ := ih { s with mem := memZero s.mem (scratchAddr c (64 * r.1)) (64 * (r.2 - r.1)) }
    exact ⟨m, h⟩

/-- A byte that reads 0 still does when memory is zeroed anywhere. -/
theorem memRd_memZero_zero {m : List Host.Cell} (a n : Nat) {x : Nat} (h : memRd m x = 0) : memRd (memZero m a n) x = 0 := by
  rw [memRd_memZero, h, ite_self]

/-- A row lies in one of the ranges. -/
def InRows (l : List (Nat × Nat)) (x : Nat) : Prop := ∃ r ∈ l, r.1 ≤ x ∧ x < r.2

/-- The bytes of a zeroed row read 0. -/
theorem memRd_rowsZeroed {s : State} {c : Nat} {rows : List (Nat × Nat)} {a : Nat}
    (h : memRd s.mem a = 0 ∨ scratchAddr c 0 ≤ a ∧ InRows rows ((a - scratchAddr c 0) / 64)) :
    memRd (rowsZeroed s c rows).mem a = 0 := by
  induction rows generalizing s with
  | nil =>
    obtain h | ⟨-, r, hr, -⟩ := h
    · exact h
    · cases hr
  | cons r rows ih =>
    refine ih ?_
    obtain h | ⟨hlow, r', hr', hfrom, hto⟩ := h
    · exact .inl (memRd_memZero_zero _ _ h)
    · obtain rfl | htail := List.mem_cons.mp hr'
      · refine .inl ?_
        rw [memRd_memZero, if_neg]
        unfold scratchAddr at *
        omega
      · exact .inr ⟨hlow, r', htail, hfrom, hto⟩

/-- Adding rows to ranges keeps the rows that lie in them. -/
theorem InRows.rowsAdd {l : List (Nat × Nat)} {x : Nat} (a b : Nat) (h : InRows l x) : InRows (rowsAdd l a b) x := by
  obtain ⟨r, hr, hfrom, hto⟩ := h
  unfold Machine.rowsAdd
  split
  · next hab =>
    by_cases hin : a ≤ x ∧ x < b
    · exact ⟨(a, b), by simp, hin⟩
    · have hcut : ∃ y ∈ ([(r.1, min r.2 a), (max r.1 b, r.2)] : List (Nat × Nat)), y.1 ≤ x ∧ x < y.2 := by
        by_cases hxa : x < a
        · exact ⟨_, List.mem_cons_self, hfrom, by omega⟩
        · exact ⟨(max r.1 b, r.2), by simp, by omega, hto⟩
      obtain ⟨y, hy, hyx⟩ := hcut
      have hkept : y ∈ rowsCut l a b :=
        List.mem_flatMap.mpr ⟨r, hr, List.mem_filter.mpr ⟨hy, decide_eq_true (by omega)⟩⟩
      exact ⟨y, List.mem_append_left _ hkept, hyx⟩
  · exact ⟨r, hr, hfrom, hto⟩

/-- Added rows lie in the ranges. -/
theorem inRows_rowsAdd_new (l : List (Nat × Nat)) {a b x : Nat} (h : a ≤ x ∧ x < b) : InRows (rowsAdd l a b) x := by
  rw [rowsAdd, if_pos (by omega)]
  exact ⟨(a, b), by simp, h⟩

/-- Rows added range by range lie in the ranges. -/
theorem inRows_foldl {l rs : List (Nat × Nat)} {x : Nat} (h : InRows l x ∨ InRows rs x) :
    InRows (rs.foldl (fun l r => rowsAdd l r.1 r.2) l) x := by
  induction rs generalizing l with
  | nil =>
    obtain h | ⟨r, hr, -⟩ := h
    · exact h
    · cases hr
  | cons r rs ih =>
    refine ih ?_
    obtain h | ⟨r', hr', hx⟩ := h
    · exact .inl (h.rowsAdd r.1 r.2)
    · obtain rfl | htail := List.mem_cons.mp hr'
      · exact .inl (inRows_rowsAdd_new l hx)
      · exact .inr ⟨r', htail, hx⟩

/-! ### Core states -/

@[simp] theorem coreSt_setCore (s : State) (c : Nat) (x : CoreSt) : coreSt (setCore s c x) c = x := tgetD_tset _ _ _ _

theorem coreSt_setCore_ne (s : State) {c k : Nat} (x : CoreSt) (h : k ≠ c) : coreSt (setCore s c x) k = coreSt s k :=
  tgetD_tset_ne _ _ _ (Ne.symm h)

theorem coreSt_congr {s t : State} (h : t.cores = s.cores) (c : Nat) : coreSt t c = coreSt s c := by rw [coreSt, coreSt, h]

/-! ### Local spans of handle entries (R277) -/

/-- An entry's nonempty local span is the other entry's too. -/
def SpanKept (lc : Nat) (e e' : List Byte) : Prop := ∀ r, localSpan lc e = some r → r.1 < r.2 → localSpan lc e' = some r

theorem SpanKept.trans {lc : Nat} {e e' e'' : List Byte} (h : SpanKept lc e e') (k : SpanKept lc e' e'') :
    SpanKept lc e e'' := fun r hr hlt => k r (h r hr hlt) hlt

/-- An entry too short to hold an extent spans no rows. -/
theorem length_of_localSpan {lc : Nat} {e : List Byte} {r : Nat × Nat} (h : localSpan lc e = some r) (hlt : r.1 < r.2) :
    8 ≤ e.length := by
  refine Nat.le_of_not_lt fun hshort => ?_
  have hext : leAt e 0x10 8 = 0 := by rw [leAt, List.drop_eq_nil_of_le (by omega)]; rfl
  simp only [localSpan, hext] at h
  split at h
  · cases h
    omega
  · cases h

theorem drop_putAt {l b : List Byte} {o k : Nat} (ho : o ≤ l.length) (hk : o + b.length ≤ k) :
    (putAt l o b).drop k = l.drop k := by
  have hhead : (l.take o ++ b).length = o + b.length := by rw [List.length_append, List.length_take_of_le ho]
  rw [putAt, List.drop_append, hhead, List.drop_eq_nil_of_le (by omega), List.nil_append, List.drop_drop,
    Nat.add_sub_cancel' hk]

theorem byteAt_putAt_lt {l b : List Byte} {o k : Nat} (ho : o ≤ l.length) (hk : k < o) :
    byteAt (putAt l o b) k = byteAt l k := by
  have htake : k < (l.take o).length := by rw [List.length_take_of_le ho]; exact hk
  rw [byteAt, byteAt, putAt, List.append_assoc, List.getD_eq_getElem?_getD, List.getD_eq_getElem?_getD,
    List.getElem?_append_left htake, List.getElem?_take_of_lt hk]

/-- Bytes 2 to 7 of an entry have no part in its span. -/
theorem spanKept_putAt (lc : Nat) (e : List Byte) {o : Nat} {b : List Byte} (ho : 2 ≤ o) (hb : o + b.length ≤ 8) :
    SpanKept lc e (putAt e o b) := by
  intro r hr hlt
  have hlen := length_of_localSpan hr hlt
  have hle : o ≤ e.length := by omega
  rw [← hr]
  simp only [localSpan, leAt, byteAt_putAt_lt hle (show 0 < o by omega), byteAt_putAt_lt hle (show 1 < o by omega),
    drop_putAt hle (show o + b.length ≤ 8 from hb), drop_putAt hle (show o + b.length ≤ 0x10 by omega)]

/-- Byte 0 of an entry with PROVISIONAL set or cleared, its bits 0 and 4 as they were. -/
theorem provisional_bits (x : Nat) (on : Bool) (hx : x < 256) :
    (x - 8 * (x / 8 % 2) + 8 * b2n on) % 256 % 2 = x % 2 ∧
      ((x - 8 * (x / 8 % 2) + 8 * b2n on) % 256).testBit 4 = x.testBit 4 := by
  have hon : b2n on ≤ 1 := by cases on <;> decide
  simp only [Nat.testBit_eq_decide_div_mod_eq, decide_eq_decide]
  omega

/-- PROVISIONAL has no part in a span. -/
theorem spanKept_provisional (lc : Nat) (e : List Byte) (on : Bool) :
    SpanKept lc e (putAt e 0 (leBytes 1 (byteAt e 0 - 8 * (byteAt e 0 / 8 % 2) + 8 * b2n on))) := by
  intro r hr hlt
  obtain _ | ⟨b, e⟩ := e
  · exact absurd (length_of_localSpan hr hlt) (by decide)
  · obtain ⟨hvalid, hspace⟩ := provisional_bits (byteAt (b :: e) 0) on (BitVec.isLt b)
    generalize hv : byteAt (b :: e) 0 - 8 * (byteAt (b :: e) 0 / 8 % 2) + 8 * b2n on = v at hvalid hspace ⊢
    have hput : putAt (b :: e) 0 (leBytes 1 v) = BitVec.ofNat 8 v :: e := rfl
    have hbyte : byteAt (BitVec.ofNat 8 v :: e) 0 = v % 256 := BitVec.toNat_ofNat v 8
    have hrest : localSpan lc (BitVec.ofNat 8 v :: e) = localSpan lc (b :: e) := by
      simp only [localSpan, hbyte, hvalid, hspace]
      rfl
    rw [hput, hrest, hr]

/-! ### Rows of a logical core under a squash (R298, R308) -/

/-- The nonempty row ranges of a logical core's local handles stay ranges of them, and no SP_DEBUG changes. -/
structure RowsKept (s t : State) (n lc : Nat) : Prop where
  rows : ∀ r ∈ localRows s n lc, r.1 < r.2 → r ∈ localRows t n lc
  debug : ∀ p, getR t p 0x408 = getR s p 0x408

namespace RowsKept

variable {s t u : State} {n lc : Nat}

theorem trans (h : RowsKept s t n lc) (k : RowsKept t u n lc) : RowsKept s u n lc :=
  ⟨fun r hr hlt => k.rows r (h.rows r hr hlt) hlt, fun p => (k.debug p).trans (h.debug p)⟩

theorem of_handles (h : (seq t n lc).handles = (seq s n lc).handles) (hdebug : ∀ p, getR t p 0x408 = getR s p 0x408) :
    RowsKept s t n lc :=
  ⟨fun r hr _ => by rw [localRows, h]; exact hr, hdebug⟩

theorem refl (s : State) (n lc : Nat) : RowsKept s s n lc := of_handles rfl fun _ => rfl

/-- A loop over a list keeps what each of its steps keeps. -/
theorem foldl {α : Type} (f : State → α → State) (l : List α) (hf : ∀ u x, RowsKept u (f u x) n lc) (s : State) :
    RowsKept s (l.foldl f s) n lc :=
  List.foldlRecOn (motive := fun u => RowsKept s u n lc) l f (refl s n lc) fun u hu x _ => hu.trans (hf u x)

end RowsKept

/-- Setting a key keeps every entry of a table but the one that the key answers. -/
theorem mem_tset_of_mem {α : Type} {t : Tbl α} (i : Nat) (x : α) {q : Nat × α} (h : q ∈ t) :
    q ∈ tset t i x ∨ tget t i = some q.2 := by
  induction t with
  | nil => cases h
  | cons p t ih =>
    obtain ⟨k, v⟩ := p
    rw [tset]
    split
    · exact .inl (List.mem_cons_of_mem _ h)
    · split
      · next hk =>
        obtain rfl | htail := List.mem_cons.mp h
        · exact .inr (if_pos hk)
        · exact .inl (List.mem_cons_of_mem _ htail)
      · next hk =>
        obtain rfl | htail := List.mem_cons.mp h
        · exact .inl List.mem_cons_self
        · rw [tget, if_neg hk]
          exact (ih htail).imp_left (List.mem_cons_of_mem _)

/-- A handle entry changed without its span. -/
theorem updHandle_rowsKept (s : State) (n lc num : Nat) {f : List Byte → List Byte} (hf : ∀ e, SpanKept lc e (f e)) :
    RowsKept s (updHandle s n lc num f) n lc := by
  refine ⟨fun r hr hlt => ?_, fun _ => rfl⟩
  obtain ⟨q, hq, hrow⟩ := List.mem_filterMap.mp hr
  obtain ⟨x, hspan, rfl⟩ := Option.map_eq_some_iff.mp hrow
  rw [localRows, updHandle, seq_updSeq]
  refine List.mem_filterMap.mpr ?_
  dsimp only [tmod]
  split
  · exact ⟨q, hq, hrow⟩
  · next v hv =>
    obtain hkept | hchanged := mem_tset_of_mem num (f v) hq
    · exact ⟨q, hkept, hrow⟩
    · obtain rfl : v = q.2 := Option.some.inj (hv.symm.trans hchanged)
      refine ⟨(num, f q.2), mem_of_tget (tget_tset _ _ _), ?_⟩
      rw [hf q.2 x hspan (by dsimp only at hlt; omega)]
      rfl

theorem hTensor_rowsKept (s : State) (n lc num fmt scale : Nat) : RowsKept s (hTensor s n lc num fmt scale) n lc :=
  updHandle_rowsKept s n lc num fun e =>
    (spanKept_putAt lc e (Nat.le_refl 2) (by have := leBytes_length 1 fmt; omega)).trans
      (spanKept_putAt lc _ (by decide) (by have := leBytes_length 4 scale; omega))

theorem hProv_rowsKept (s : State) (n lc num : Nat) (on : Bool) (ptag : Nat) (wide : Bool) :
    RowsKept s (hProv s n lc num on ptag wide) n lc :=
  updHandle_rowsKept s n lc num fun e =>
    (spanKept_provisional lc e on).trans (spanKept_putAt lc _ (by decide)
      (by have := leBytes_length 1 (ptag + 8 * b2n wide); omega))

theorem markPending_rowsKept (s : State) (c a b who n lc : Nat) : RowsKept s (markPending s c a b who) n lc :=
  .of_handles rfl fun _ => rfl

/-- A sequencer changed elsewhere than in its handles. -/
theorem updSeq_rowsKept (s : State) (n lc : Nat) {f : Seq → Seq} (hf : ∀ q, (f q).handles = q.handles) :
    RowsKept s (updSeq s n lc f) n lc :=
  .of_handles (by rw [seq_updSeq, hf]) fun _ => rfl

theorem dropIss_rowsKept (s : State) (n lc : Nat) (p : Iss → Bool) : RowsKept s (dropIss s n lc p) n lc := by
  have hdrop : RowsKept s (updSeq s n lc (fun q => { q with issued := q.issued.filter (fun i => !p i) })) n lc :=
    updSeq_rowsKept s n lc fun _ => rfl
  have hclose : ∀ (u : State) (i : Iss), RowsKept u (leaseClose u n lc i.lease) n lc := by
    intro u i
    obtain ⟨x, h⟩ := leaseClose_frame u n lc i.lease
    rw [h]
    exact .of_handles rfl fun _ => rfl
  exact hdrop.trans (.foldl _ _ hclose _)

theorem startSquash_rowsKept (s : State) (n lc t verdict : Nat) (closed surface : Bool) :
    RowsKept s (startSquash s n lc t verdict closed surface) n lc :=
  (dropIss_rowsKept s n lc _).trans (updSeq_rowsKept _ n lc fun _ => rfl)

theorem bumpR_rowsKept (s : State) (p m n lc : Nat) {o : Nat} (ho : o < 0x10000) (hne : o ≠ 0x408) :
    RowsKept s (bumpR s p o m) n lc :=
  .of_handles rfl fun _ => getR_putR_ne s _ fun e => hne (rkey_inj ho (by decide) e).2

/-- A handle of a squashed tag free again, its rows PENDING. -/
def handleFreed (n lc : Nat) (s : State) (num : Nat) : State :=
  match href s n lc num with
  | none => s
  | some r =>
    let s := if r.scr && !r.remote then markPending s r.core (r.base / 64) ((r.base + r.ext) / 64) n else s
    hTensor (hProv s n lc num false 0 false) n lc num 0xFF 0x3F800000

theorem handleFreed_rowsKept (s : State) (n lc num : Nat) : RowsKept s (handleFreed n lc s num) n lc := by
  have hfree : ∀ u, RowsKept u (hTensor (hProv u n lc num false 0 false) n lc num 0xFF 0x3F800000) n lc := fun u =>
    (hProv_rowsKept u n lc num false 0 false).trans (hTensor_rowsKept _ n lc num _ _)
  unfold handleFreed
  split
  · exact .refl s n lc
  · dsimp only
    split
    · exact (markPending_rowsKept s _ _ _ _ n lc).trans (hfree _)
    · exact hfree s

/-- A sequencer without a squashed tag's slots and groups. -/
def Seq.discarded (q : Seq) (t : Nat) : Seq :=
  { q with engs := q.engs.map (fun e => (e.1, e.2.squash t)), grps := q.grps.filter (fun g => g.iss.tag != some t) }

theorem discardTag_eq (s : State) (n lc t : Nat) :
    discardTag s n lc t = bumpR ((tagHandles (seq s n lc) t).foldl (handleFreed n lc)
      (setSeq s n lc ((seq s n lc).discarded t))) (lcPg s n lc) 0x538 1 := rfl

theorem discardTag_rowsKept (s : State) (n lc t : Nat) : RowsKept s (discardTag s n lc t) n lc := by
  have hset : RowsKept s (setSeq s n lc ((seq s n lc).discarded t)) n lc :=
    .of_handles (by rw [seq_setSeq]; rfl) fun _ => rfl
  rw [discardTag_eq]
  exact (hset.trans (.foldl _ _ (fun u h => handleFreed_rowsKept u n lc h) _)).trans
    (bumpR_rowsKept _ _ _ n lc (by decide) (by decide))

theorem squashAll_rowsKept (s : State) (n lc : Nat) : RowsKept s (squashAll s n lc) n lc := by
  refine .foldl _ _ (fun u t => ?_) s
  dsimp only
  split
  · exact .refl u n lc
  · exact ((startSquash_rowsKept u n lc t 0 true false).trans (discardTag_rowsKept _ n lc t)).trans
      (updSeq_rowsKept _ n lc fun _ => rfl)

/-! ### KILL_SCRUB_COMPLETE of a teardown (R285, R308) -/

/-- The rows of a core that the kill scrub of a logical core covers: those PENDING and those of its local handles. -/
def killRows (s : State) (c n lc : Nat) : List (Nat × Nat) :=
  (localRows s n lc).foldl (fun l r => rowsAdd l r.1 r.2) (coreSt s c).pend

/-- A core after a kill scrub with retention armed: its rows stay as they are for inspection. -/
def killRetained (s : State) (c n lc : Nat) : State :=
  setCore (putRV s (corePg c) 0x408 0) c { coreSt s c with st := 3, who := n, rows := killRows s c n lc }

/-- A core after a kill scrub without retention: its rows 0, none PENDING, and the scrub counted. -/
def killZeroed (s : State) (c n lc : Nat) : State :=
  bumpR (setCore (rowsZeroed s c (killRows s c n lc)) c { coreSt s c with who := n, pend := [], rows := [] }) (corePg c) 0x40C 1

/-- What a context has parked on a core is gone, and its park area is PENDING. -/
def unparked (s : State) (c n : Nat) : State :=
  parkPending { s with car := { s.car with parkedOn := tdel s.car.parkedOn c } } c n

/-- A core's acknowledgement of a teardown: its sequencer is gone. -/
def killAcked (s : State) (c n lc : Nat) : State :=
  updCtx { s with seqs := tdel s.seqs (64 * n + lc) } n (fun x => { x with acked := x.acked ++ [c] })

/-- A kill scrub behind the squash of the open tags. -/
def killDone (u : State) (c n lc : Nat) : State :=
  let v := if bit (getR u (corePg c) 0x408) 31 && bits (getR u (corePg c) 0x408) 11 0 = n then killRetained u c n lc
    else killZeroed u c n lc
  killAcked (if tget u.car.parkedOn c == some n then unparked v c n else v) c n lc

theorem killScrub_eq (s : State) (c n : Nat) :
    killScrub s c n = if (ctx s n).st != .teardown || !(ctx s n).cores.contains c || (ctx s n).acked.contains c then s
      else
        let lc := ((ctx s n).cores.takeWhile (· != c)).length
        killDone (squashAll s n lc) c n lc := rfl

theorem killAcked_facts (s : State) (c n lc : Nat) :
    (ctx (killAcked s c n lc) n).acked.contains c = true ∧ tget (killAcked s c n lc).seqs (64 * n + lc) = none ∧
      (killAcked s c n lc).mem = s.mem := by
  refine ⟨?_, tget_tdel _ _, rfl⟩
  rw [killAcked, ctx_updCtx]
  simp

theorem memRd_unparked_zero {s : State} (c n : Nat) {a : Nat} (h : memRd s.mem a = 0) : memRd (unparked s c n).mem a = 0 :=
  memRd_memZero_zero _ _ h

/-- The rows that a local handle spanned before the squash are zeroed after it. -/
theorem memRd_killZeroed {s u : State} {c n lc a : Nat} (h : RowsKept s u n lc) {r : Nat × Nat} (hr : r ∈ localRows s n lc)
    (hlow : scratchAddr c (64 * r.1) ≤ a) (hhigh : a < scratchAddr c (64 * r.2)) : memRd (killZeroed u c n lc).mem a = 0 := by
  unfold scratchAddr at hlow hhigh
  have hbase : scratchAddr c 0 ≤ a := by unfold scratchAddr; omega
  have hrow : r.1 ≤ (a - scratchAddr c 0) / 64 ∧ (a - scratchAddr c 0) / 64 < r.2 := by unfold scratchAddr; omega
  have hcovered : InRows (killRows u c n lc) ((a - scratchAddr c 0) / 64) :=
    inRows_foldl (.inr ⟨r, h.rows r hr (by omega), hrow⟩)
  exact memRd_rowsZeroed (s := u) (.inr ⟨hbase, hcovered⟩)

/-- With no retention armed, the core acknowledges, and the rows of the context's local handles there read 0. -/
theorem killDone_facts {s u : State} {c n lc : Nat} (h : RowsKept s u n lc) (hret : bit (getR s (corePg c) 0x408) 31 = false) :
    (ctx (killDone u c n lc) n).acked.contains c = true ∧ tget (killDone u c n lc).seqs (64 * n + lc) = none ∧
      ∀ r ∈ localRows s n lc, ∀ a, scratchAddr c (64 * r.1) ≤ a → a < scratchAddr c (64 * r.2) →
        memRd (killDone u c n lc).mem a = 0 := by
  have hdone : killDone u c n lc = killAcked (if tget u.car.parkedOn c == some n then unparked (killZeroed u c n lc) c n
      else killZeroed u c n lc) c n lc := by
    simp only [killDone, h.debug, hret, Bool.false_and, Bool.false_eq_true, if_false]
  rw [hdone]
  obtain ⟨hacked, hgone, hmem⟩ := killAcked_facts (if tget u.car.parkedOn c == some n then unparked (killZeroed u c n lc) c n
      else killZeroed u c n lc) c n lc
  refine ⟨hacked, hgone, fun r hr a hlow hhigh => ?_⟩
  have hzero := memRd_killZeroed h hr hlow hhigh
  rw [hmem]
  split
  · exact memRd_unparked_zero c n hzero
  · exact hzero

/-! ### The release of retained rows (R285, R287) -/

/-- Writes that waited for a scrub change memory alone. -/
theorem lateWritten_frame (s : State) (c : Nat) (l : List (Nat × List Byte)) :
    ∃ m, l.foldl (fun s (w : Nat × List Byte) => wrMem s (scratchAddr c w.1) w.2) s = { s with mem := m } := by
  induction l generalizing s with
  | nil => exact ⟨s.mem, rfl⟩
  | cons w l ih =>
    obtain ⟨m, h⟩ := ih (wrMem s (scratchAddr c w.1) w.2)
    exact ⟨m, h⟩

/-- A core's state after its scrub. -/
def CoreSt.scrubbed (x : CoreSt) : CoreSt := { x with st := 0, rows := [], pend := [], late := [] }

theorem scrubDone_eq {s : State} {c : Nat} (h : (coreSt s c).st = 1) :
    scrubDone s c = bumpR ((coreSt s c).late.foldl (fun s (w : Nat × List Byte) => wrMem s (scratchAddr c w.1) w.2)
      (setCore (rowsZeroed s c (coreSt s c).rows) c (coreSt s c).scrubbed)) (corePg c) 0x40C 1 :=
  if_neg (by rw [h]; decide)

/-- The end of a core's scrub: but for memory, the core's state and its count change alone. -/
theorem scrubDone_frame {s : State} {c : Nat} (h : (coreSt s c).st = 1) :
    ∃ m, scrubDone s c = bumpR { setCore s c (coreSt s c).scrubbed with mem := m } (corePg c) 0x40C 1 := by
  obtain ⟨m, hrows⟩ := rowsZeroed_frame s c (coreSt s c).rows
  obtain ⟨m', hlate⟩ := lateWritten_frame (setCore { s with mem := m } c (coreSt s c).scrubbed) c (coreSt s c).late
  refine ⟨m', ?_⟩
  rw [scrubDone_eq h, hrows, hlate]
  rfl

/-! ### SP_DEBUG (R287) -/

theorem spDebugWrite_mem (s : State) (c : Nat) (v : Word) : (spDebugWrite s c v).mem = s.mem := by
  unfold spDebugWrite
  dsimp only
  split
  · rfl
  · split
    · rfl
    · rfl

/-- RETAIN with a context arms retention. -/
theorem getR_spDebugWrite (s : State) (c : Nat) {v : Word} (h : bits v 11 0 ≠ 0) :
    getR (spDebugWrite s c v) (corePg c) 0x408 = v &&& 0x80000FFF#32 := by
  simp only [spDebugWrite, h, decide_false, Bool.and_false, Bool.false_eq_true, if_false]
  split
  · exact getR_putRV s _ _ _
  · exact getR_putRV s _ _ _

/-- RELEASE of a core with retained rows starts their scrub. -/
theorem spDebugWrite_releases {s : State} {c : Nat} {v : Word} (hrel : bit v 30 = true) (hret : bit v 31 = false)
    (hst : (coreSt s c).st = 3) :
    spDebugWrite s c v = setCore (putRV s (corePg c) 0x408 (v &&& 0x80000FFF#32)) c { coreSt s c with st := 1 } := by
  have hput : coreSt (putRV s (corePg c) 0x408 (v &&& 0x80000FFF#32)) c = coreSt s c := rfl
  simp [spDebugWrite, hrel, hret, hput, hst]

/-! ### The commands -/

/-- Settles O36: each command is its equation; the rows that a teardown's scrub zeroes are found before the squash of the
open tags, which keeps every nonempty span of a local handle. -/
theorem scratchpadScrubs : Obligations.ScratchpadScrubs := by
  unfold Obligations.ScratchpadScrubs
  refine ⟨?_, ?_, ?_, ?_, ?_⟩
  · intro s c n hst
    obtain ⟨m, hdone⟩ := scrubDone_frame hst
    refine ⟨_, congrArg Host.Outcome.next (if_pos hst), ?_⟩
    rw [hdone]
    have hcores : ∀ k, coreSt (bumpR { setCore s c (coreSt s c).scrubbed with mem := m } (corePg c) 0x40C 1) k =
        coreSt (setCore s c (coreSt s c).scrubbed) k := coreSt_congr rfl
    refine ⟨?_, ?_, tgetD_tset _ _ _ _, fun k hk => (hcores k).trans (coreSt_setCore_ne s _ hk)⟩
    · rw [hcores, coreSt_setCore]; rfl
    · rw [hcores, coreSt_setCore]; rfl
  · intro s c n hst htear hcore hack hret
    have hopen : ((ctx s n).st != .teardown || !(ctx s n).cores.contains c || (ctx s n).acked.contains c) = false := by
      rw [htear, hcore, hack]; rfl
    have hkill : killScrub s c n = _ := (killScrub_eq s c n).trans (if_neg (by rw [hopen]; decide))
    exact ⟨_, congrArg Host.Outcome.next ((if_neg (by omega)).trans hkill), killDone_facts (squashAll_rowsKept s n _) hret⟩
  · intro s c hpend hdue
    refine ⟨setCore s c { coreSt s c with pend := [] }, congrArg Host.Outcome.next (if_neg ?_), ?_, ?_, rfl⟩
    · simp [hpend, Nat.not_lt.mpr hdue]
    · rw [coreSt_setCore]
    · exact fun k hk => coreSt_setCore_ne s _ hk
  · intro s m c v hc hr hret hctx
    have hrun : execSpDebugRetain m c v s = .next (spDebugWrite s c v) := by
      simp [execSpDebugRetain, hc, hret, guarded_reaches m _ _ s _ hr]
    exact ⟨_, hrun, getR_spDebugWrite s c hctx, spDebugWrite_mem s c v⟩
  · intro s m c v hc hr hrel hret hst
    have hrun : execSpDebugRelease m c v s = .next (spDebugWrite s c v) := by
      simp [execSpDebugRelease, hc, hrel, guarded_reaches m _ _ s _ hr]
    refine ⟨_, hrun, ?_⟩
    rw [spDebugWrite_releases hrel hret hst]
    exact ⟨congrArg CoreSt.st (coreSt_setCore _ c _), fun k hk => coreSt_setCore_ne _ _ hk, rfl⟩

end Sys2Proof.Machine
end

section
/-!
PROOF. Sequencers under the accesses of a context: reads and writes of its targets and the moves of its DMAs change no
sequencer (R281-R283, R418, R454).
-/
namespace Sys2Proof.Machine

/-! ### GDDR6 and scratchpads -/

theorem KetFrame.seqs {s t : State} (h : KetFrame s t) : t.seqs = s.seqs := by
  obtain ⟨_, _, _, _, _, _, _, _, _, _, _, rfl⟩ := h
  rfl

/-- A loop over a list changes no sequencer when none of its steps does. -/
theorem foldl_seqs {α β : Type} (p : β → State) {f : β → α → β} (l : List α) (hf : ∀ u x, (p (f u x)).seqs = (p u).seqs)
    (b : β) : (p (l.foldl f b)).seqs = (p b).seqs :=
  List.foldlRecOn (motive := fun u => (p u).seqs = (p b).seqs) l f rfl fun u hu x _ => (hf u x).trans hu

@[simp] theorem eccSector_seqs (s : State) (source sec : Nat) : (eccSector s source sec).1.seqs = s.seqs :=
  (eccSector_ketFrame s source sec).seqs

@[simp] theorem granTouches_seqs (s : State) (a n : Nat) : (granTouches s a n).seqs = s.seqs := by
  obtain ⟨chans, h⟩ := granTouches_frame s a n
  rw [h]

@[simp] theorem rdGddr_seqs (s : State) (source a n : Nat) : (rdGddr s source a n).1.seqs = s.seqs := by
  have hsectors : ∀ (u : State) first k, (eccSectors u source first k).1.seqs = u.seqs := fun u first k => by
    induction k with
    | zero => rfl
    | succ k ih => exact (eccSector_seqs _ source _).trans ih
  exact (hsectors _ _ _).trans (granTouches_seqs s a _)

@[simp] theorem wrGddr_seqs (s : State) (a : Nat) (l : List Byte) : (wrGddr s a l).1.seqs = s.seqs := by
  unfold wrGddr
  extract_lets u first lastEnd partSecs r
  have hparts : r.1.seqs = s.seqs :=
    (foldl_seqs Prod.fst partSecs (fun _ _ => by simp) (u, false)).trans (granTouches_seqs s a _)
  split
  · exact granTouches_seqs s a _
  · split
    · exact hparts
    · exact hparts

@[simp] theorem scrRead_seqs (s : State) (c o n : Nat) : (scrRead s c o n).1.seqs = s.seqs := by
  obtain ⟨r, h⟩ := scrRead_frame s c o n
  rw [h]

@[simp] theorem scrWrite_seqs (s : State) (c o : Nat) (l : List Byte) : (scrWrite s c o l).seqs = s.seqs := by
  obtain ⟨x, h⟩ := scrWrite_stored s c o l
  rw [h]
  rfl

/-! ### Targets and operands -/

@[simp] theorem mirrorRead_seqs (s : State) (page ofs : Nat) : (mirrorRead s page ofs).1.seqs = s.seqs := by
  unfold mirrorRead
  extract_lets fs u v key
  have hguard : u.seqs = s.seqs := by
    unfold u
    split
    · simp
    · rfl
  split
  · simp
  · split
    · simp
    · split
      · exact hguard
      · split
        · exact hguard
        · exact hguard

@[simp] theorem tgtRead_seqs (s : State) (n : Nat) (t : Tgt) (len : Nat) : (tgtRead s n t len).1.seqs = s.seqs := by
  cases t with
  | scr c o => exact scrRead_seqs s c o len
  | gddr a =>
    unfold tgtRead
    dsimp only
    split
    · exact rdGddr_seqs s 0 a len
    · exact rdGddr_seqs s 0 a len
  | mirror page o =>
    unfold tgtRead
    dsimp only
    split
    · rfl
    · exact foldl_seqs (β := State × List Byte) Prod.fst _ (fun u k => mirrorRead_seqs u.1 page _) (s, [])
  | park => rfl
  | host p => rfl
  | held => rfl
  | bad code page => rfl

@[simp] theorem tgtWrite_seqs (s : State) (t : Tgt) (l : List Byte) : (tgtWrite s t l).1.seqs = s.seqs := by
  cases t with
  | scr c o => exact scrWrite_seqs s c o l
  | gddr a => exact wrGddr_seqs s a l
  | park => rfl
  | host p => rfl
  | mirror page o => rfl
  | held => rfl
  | bad code page => rfl

section Operand

variable (n lc : Nat) (i : Iss)

@[simp] theorem opRead_seqs (x : Opnd) (fuel ofs len : Nat) (s : State) :
    (opRead n lc i x fuel ofs len s).1.seqs = s.seqs := by
  induction fuel generalizing ofs len s with
  | zero => rfl
  | succ fuel ih =>
    unfold opRead
    dsimp only
    split
    · rfl
    · split
      · exact tgtRead_seqs s n _ _
      · exact (ih _ _ _).trans (tgtRead_seqs s n _ _)

@[simp] theorem opWrite_seqs (x : Opnd) (fuel ofs : Nat) (l : List Byte) (s : State) :
    (opWrite n lc i x fuel ofs l s).1.seqs = s.seqs := by
  induction fuel generalizing ofs l s with
  | zero => rfl
  | succ fuel ih =>
    unfold opWrite
    dsimp only
    split
    · rfl
    · split
      · exact tgtWrite_seqs s _ _
      · exact (ih _ _ _).trans (tgtWrite_seqs s _ _)

/-! ### DMAs (R281-R283) -/

@[simp] theorem dmaRow_seqs (s : State) (j b : Nat) : (dmaRow s n lc i j b).1.seqs = s.seqs := by
  unfold dmaRow
  dsimp only
  split
  · rfl
  · split
    · refine foldl_seqs Prod.fst _ (fun u r => ?_) (s, [], none)
      split
      · rfl
      · exact opRead_seqs n lc i _ _ _ _ _
    · exact opRead_seqs n lc i _ _ _ _ s

@[simp] theorem dmaMove_seqs (hi fuel lo : Nat) (s : State) : (dmaMove n lc i hi fuel lo s).1.seqs = s.seqs := by
  induction fuel generalizing lo s with
  | zero => rfl
  | succ fuel ih =>
    have hpiece : ∀ j b f o l, (opWrite n lc i i.dst f o l (dmaRow s n lc i j b).1).1.seqs = s.seqs := fun j b f o l =>
      (opWrite_seqs n lc i _ f o l _).trans (dmaRow_seqs n lc i s j b)
    unfold dmaMove
    dsimp only
    split
    · rfl
    · split
      · exact hpiece _ _ _ _ _
      · split
        · split
          · exact hpiece _ _ _ _ _
          · exact hpiece _ _ _ _ _
        · exact (ih _ _).trans (hpiece _ _ _ _ _)

theorem physWr_seqs (s : State) (p : Nat) (b : Byte) : (physWr s p b).seqs = s.seqs := by
  unfold physWr
  split
  · rfl
  · rfl

@[simp] theorem overlapFix_seqs (old : State) (lo hi : Nat) (s : State) :
    (overlapFix old n lc i lo hi s).seqs = s.seqs := by
  unfold overlapFix
  dsimp only
  split
  · rfl
  · split
    · exact foldl_seqs id _ (fun u q => physWr_seqs u _ _) s
    · rfl

@[simp] theorem dmaRun_seqs (s : State) (lo hi : Nat) : (dmaRun s n lc i lo hi).1.seqs = s.seqs := by
  simp [dmaRun]

end Operand

end Sys2Proof.Machine
end

section
/-!
PROOF. Speculation tags: O35.
-/
namespace Sys2Proof.Machine

/-! ### Tags of a sequencer (R291, Table 12-2) -/

@[simp] theorem Seq.tag_setTag (q : Seq) (k : Nat) (x : STag) : (q.setTag k x).tag k = x := tgetD_tset _ _ _ _

theorem Seq.tag_setTag_ne (q : Seq) {k j : Nat} (x : STag) (h : j ≠ k) : (q.setTag k x).tag j = q.tag j :=
  tgetD_tset_ne _ _ _ h.symm

theorem Seq.tag_congr {p q : Seq} (h : p.tags = q.tags) (k : Nat) : p.tag k = q.tag k := by rw [Seq.tag, Seq.tag, h]

theorem Seq.over_tags (q : Seq) (i : Iss) : (q.over i).tags = q.tags := by
  obtain ⟨_, _, _, _, h⟩ := q.over_frame i
  rw [h]

theorem immediate_tag (s : State) (n lc : Nat) (i : Iss) (past : Bool) (k : Nat) :
    (seq (immediate s n lc i past) n lc).tag k = (seq s n lc).tag k := by
  rw [seq_immediate]
  exact Seq.tag_congr (Seq.over_tags _ i) k

/-- A descriptor passed with tag k becoming x: no other tag and no memory changed. -/
structure TagMoved (s t : State) (n lc k : Nat) (x : STag) : Prop where
  passed : Passed s t n lc
  mem : t.mem = s.mem
  tag : (seq t n lc).tag k = x
  others : ∀ j, j ≠ k → (seq t n lc).tag j = (seq s n lc).tag j

/-! ### SPEC (R289) -/

/-- A stream with tag k open, and its core's count of opened tags. -/
def tagOpened (s : State) (n lc k : Nat) : State :=
  bumpR (updSeq s n lc (fun q => q.setTag k { st := 1 })) (lcPg s n lc) 0x530 1

theorem specIssue_free {s : State} {n lc : Nat} {i : Iss} (h : ((seq s n lc).tag (byteAt i.d 8 % 8)).st = 0) :
    specIssue n lc i s = immediate (tagOpened s n lc (byteAt i.d 8 % 8)) n lc i false := by
  simp only [specIssue, h, bne_self_eq_false, Bool.false_eq_true, if_false]
  rfl

theorem seq_tagOpened (s : State) (n lc k : Nat) : seq (tagOpened s n lc k) n lc = (seq s n lc).setTag k { st := 1 } :=
  seq_updSeq s n lc (fun q => q.setTag k { st := 1 })

theorem tagOpened_moved (s : State) (n lc k : Nat) (i : Iss) :
    TagMoved s (immediate (tagOpened s n lc k) n lc i false) n lc k { st := 1 } where
  passed := (immediate_passed _ n lc i false).of_place (by rw [seq_tagOpened]; rfl)
    (getR_putR_ne _ _ (by unfold rkey; omega))
  mem := (immediate_same _ n lc i false).1
  tag := by rw [immediate_tag, seq_tagOpened, Seq.tag_setTag]
  others j hj := by rw [immediate_tag, seq_tagOpened, Seq.tag_setTag_ne _ _ hj]

/-- A descriptor that completes at once counts in SEQ_DONE alone. -/
theorem immediate_regs_ne (s : State) (n lc : Nat) (i : Iss) (p : Nat) {o : Nat} (ho : o < 0x10000) (hne : o ≠ 0x218) :
    tgetD (immediate s n lc i false).regs (rkey p o) 0 = tgetD s.regs (rkey p o) 0 := by
  obtain ⟨_, _, h⟩ := retire_frame (advance s n lc i) n lc i false
  rw [immediate, h]
  exact tgetD_tset_ne _ _ _ fun e => hne (rkey_inj (by decide) ho e).2.symm

theorem tagOpened_count (s : State) (n lc k : Nat) (i : Iss) :
    tgetD (immediate (tagOpened s n lc k) n lc i false).regs (rkey (lcPg s n lc) 0x530) 0 =
      satAdd (getR s (lcPg s n lc) 0x530) 1 := by
  rw [immediate_regs_ne _ n lc i _ (by decide) (by decide)]
  exact tgetD_tset _ _ _ _

/-! ### Closing a tag (R295, R296, R298) -/

/-- Closing leases changes no more than the leases. -/
theorem leasesClosed_frame (s : State) (n lc : Nat) (l : List Iss) :
    ∃ x, l.foldl (fun s i => leaseClose s n lc i.lease) s = { s with leases := x } := by
  induction l generalizing s with
  | nil => exact ⟨s.leases, rfl⟩
  | cons i l ih =>
    obtain ⟨x, hx⟩ := leaseClose_frame s n lc i.lease
    obtain ⟨y, hy⟩ := ih { s with leases := x }
    exact ⟨y, by rw [List.foldl_cons, hx, hy]⟩

/-- A sequencer without some of its issued descriptors. -/
def Seq.dropped (q : Seq) (p : Iss → Bool) : Seq := { q with issued := q.issued.filter (fun i => !p i) }

/-- Discarding issued descriptors changes leases and one sequencer. -/
theorem dropIss_frame (s : State) (n lc : Nat) (p : Iss → Bool) :
    (∃ l q, dropIss s n lc p = { s with leases := l, seqs := q }) ∧
      seq (dropIss s n lc p) n lc = (seq s n lc).dropped p := by
  obtain ⟨l, hclosed⟩ := leasesClosed_frame (updSeq s n lc (fun q => q.dropped p)) n lc ((seq s n lc).issued.filter p)
  have hdrop : dropIss s n lc p = _ := hclosed
  rw [hdrop]
  exact ⟨⟨l, _, rfl⟩, seq_updSeq s n lc (fun q => q.dropped p)⟩

/-- A sequencer whose tag k is being squashed: nothing of the tag is held. -/
def Seq.squashing (q : Seq) (k verdict : Nat) (closed surface : Bool) : Seq :=
  { q with held := q.held.filter (fun i => i.tag != some k) }.setTag k
    { q.tag k with st := 5, verdict := verdict, closed := closed, surface := surface }

/-- The start of a squash changes leases and one sequencer. -/
theorem startSquash_frame (s : State) (n lc k verdict : Nat) (closed surface : Bool) :
    (∃ l q, startSquash s n lc k verdict closed surface = { s with leases := l, seqs := q }) ∧
      seq (startSquash s n lc k verdict closed surface) n lc =
        ((seq s n lc).dropped (fun i => i.tag == some k)).squashing k verdict closed surface := by
  obtain ⟨⟨l, q, hdrop⟩, hseq⟩ := dropIss_frame s n lc (fun i => i.tag == some k)
  constructor
  · rw [startSquash, hdrop]
    exact ⟨l, _, rfl⟩
  · rw [← hseq]
    exact seq_updSeq _ n lc (fun q => q.squashing k verdict closed surface)

/-- A closing descriptor that sets its tag at once. -/
theorem setTag_moved (s : State) (n lc k : Nat) (i : Iss) (x : STag) :
    TagMoved s (updSeq (immediate s n lc i false) n lc (fun q => q.setTag k x)) n lc k x where
  passed := (immediate_passed s n lc i false).then (by rw [seq_updSeq]; rfl) rfl
  mem := (immediate_same s n lc i false).1
  tag := by rw [seq_updSeq, Seq.tag_setTag]
  others j hj := by rw [seq_updSeq, Seq.tag_setTag_ne _ _ hj, immediate_tag]

/-- A closing descriptor that starts the squash of its tag. -/
theorem startSquash_moved (s : State) (n lc k : Nat) (i : Iss) (surface : Bool) :
    TagMoved s (startSquash (immediate s n lc i false) n lc k ((seq s n lc).tag k).verdict true surface) n lc k
      { (seq s n lc).tag k with st := 5, closed := true, surface := surface } := by
  obtain ⟨⟨l, q, hframe⟩, hseq⟩ :=
    startSquash_frame (immediate s n lc i false) n lc k ((seq s n lc).tag k).verdict true surface
  refine ⟨(immediate_passed s n lc i false).then (by rw [hseq]; rfl) (by rw [hframe]), ?_, ?_, fun j hj => ?_⟩
  · rw [hframe]
    exact (immediate_same s n lc i false).1
  · rw [hseq, Seq.squashing, Seq.tag_setTag, ← immediate_tag s n lc i false k]
    rfl
  · rw [hseq, Seq.squashing, Seq.tag_setTag_ne _ _ hj]
    exact immediate_tag s n lc i false j

/-- What a COMMIT makes of a tag that is OPEN, FAULTED or SQUASHED (Table 12-2). -/
def STag.atCommit (x : STag) : STag :=
  if x.st = 3 then {} else if x.st = 2 then { x with st := 5, closed := true, surface := true }
  else { x with st := 4, closed := true }

theorem STag.atCommit_open {x : STag} (h : x.st = 1) : x.atCommit = { x with st := 4, closed := true } := by
  simp [STag.atCommit, h]

theorem STag.atCommit_faulted {x : STag} (h : x.st = 2) :
    x.atCommit = { x with st := 5, closed := true, surface := true } := by
  simp [STag.atCommit, h]

/-- What a SQUASH makes of a tag that is OPEN, FAULTED or SQUASHED (Table 12-2). -/
def STag.atSquash (x : STag) : STag := if x.st = 3 then {} else { x with st := 5, closed := true, surface := false }

/-- A tag that a closing descriptor may act on is not FREE, COMMITTING or SQUASHING. -/
theorem closable {x : STag} (h : x.st ∈ [1, 2, 3]) : x.st ≠ 0 ∧ x.st ≠ 4 ∧ x.st ≠ 5 := by
  simp only [List.mem_cons, List.not_mem_nil, or_false] at h
  omega

theorem commitIssue_moved {s : State} {n lc : Nat} {i : Iss} (h : ((seq s n lc).tag (byteAt i.d 8 % 8)).st ∈ [1, 2, 3])
    (hready : closeReady (seq s n lc) (byteAt i.d 8 % 8) (((seq s n lc).tag (byteAt i.d 8 % 8)).st == 1) = true) :
    TagMoved s (commitIssue n lc i s) n lc (byteAt i.d 8 % 8) ((seq s n lc).tag (byteAt i.d 8 % 8)).atCommit := by
  obtain ⟨hfree, hcommitting, hsquashing⟩ := closable h
  simp only [commitIssue, hfree, hcommitting, hsquashing, hready, decide_false, Bool.not_true, Bool.or_self,
    Bool.false_eq_true, if_false, STag.atCommit]
  split
  · exact setTag_moved s n lc _ i _
  · split
    · exact startSquash_moved s n lc _ i true
    · exact setTag_moved s n lc _ i _

theorem squashIssue_moved {s : State} {n lc : Nat} {i : Iss} (h : ((seq s n lc).tag (byteAt i.d 8 % 8)).st ∈ [1, 2, 3])
    (hready : closeReady (seq s n lc) (byteAt i.d 8 % 8) false = true) :
    TagMoved s (squashIssue n lc i s) n lc (byteAt i.d 8 % 8) ((seq s n lc).tag (byteAt i.d 8 % 8)).atSquash := by
  obtain ⟨hfree, hcommitting, hsquashing⟩ := closable h
  simp only [squashIssue, hfree, hcommitting, hsquashing, hready, decide_false, Bool.not_true, Bool.or_self,
    Bool.false_eq_true, if_false, STag.atSquash]
  split
  · exact setTag_moved s n lc _ i _
  · exact startSquash_moved s n lc _ i false

/-! ### What keeps the tags and the held list -/

/-- The tags and the held list of a logical core are as they were. -/
structure TagsKept (s t : State) (n lc : Nat) : Prop where
  tags : (seq t n lc).tags = (seq s n lc).tags
  held : (seq t n lc).held = (seq s n lc).held

namespace TagsKept

variable {s t u : State} {n lc : Nat}

theorem trans (h : TagsKept s t n lc) (k : TagsKept t u n lc) : TagsKept s u n lc :=
  ⟨k.tags.trans h.tags, k.held.trans h.held⟩

theorem of_seqs (h : t.seqs = s.seqs) : TagsKept s t n lc := ⟨by rw [seq_congr h], by rw [seq_congr h]⟩

theorem refl (s : State) (n lc : Nat) : TagsKept s s n lc := of_seqs rfl

/-- A loop over a list keeps what each of its steps keeps. -/
theorem foldl {α : Type} (f : State → α → State) (l : List α) (hf : ∀ u x, TagsKept u (f u x) n lc) (s : State) :
    TagsKept s (l.foldl f s) n lc :=
  List.foldlRecOn (motive := fun u => TagsKept s u n lc) l f (refl s n lc) fun u hu x _ => hu.trans (hf u x)

end TagsKept

/-- A sequencer of the context changed elsewhere than in its tags and its held list. -/
theorem updSeq_tagsKept (s : State) (n lc l : Nat) {f : Seq → Seq} (htags : ∀ q, (f q).tags = q.tags)
    (hheld : ∀ q, (f q).held = q.held) : TagsKept s (updSeq s n l f) n lc := by
  by_cases h : lc = l
  · subst h
    exact ⟨by rw [seq_updSeq, htags], by rw [seq_updSeq, hheld]⟩
  · have hother : seq (updSeq s n l f) n lc = seq s n lc := (updSeq_seqOnly s n l f).seq_ne h
    exact ⟨by rw [hother], by rw [hother]⟩

theorem updHandle_tagsKept (s : State) (n lc num : Nat) (f : List Byte → List Byte) :
    TagsKept s (updHandle s n lc num f) n lc :=
  updSeq_tagsKept s n lc lc (fun _ => rfl) fun _ => rfl

/-- What a DMA marks when it runs under no tag any more: a handle's format and scale. -/
theorem dmaMarks_tagsKept (s : State) (n lc : Nat) {i : Iss} (h : i.tag = none) : TagsKept s (dmaMarks s n lc i) n lc := by
  simp only [dmaMarks, h]
  split
  · split
    · split
      · exact .refl s n lc
      · exact updHandle_tagsKept s n lc _ _
    · exact .refl s n lc
  · exact .refl s n lc

theorem signalDo_tagsKept (n lc : Nat) (d : List Byte) (s : State) : TagsKept s (signalDo n lc d s) n lc := by
  unfold signalDo
  dsimp only
  split
  · exact updSeq_tagsKept s n lc lc (fun _ => rfl) fun _ => rfl
  · split
    · exact .of_seqs (clvSet_ringsOnly s _ _).seqs
    · exact .of_seqs (clvSet_ringsOnly s _ _).seqs

/-- The held entries of a committing tag, as they run. -/
theorem heldRun_tagsKept (n lc : Nat) (l : List Iss) (s : State) : TagsKept s (heldRun n lc l s).1 n lc := by
  induction l generalizing s with
  | nil => exact .refl s n lc
  | cons i l ih =>
    have hrun : TagsKept s (dmaRun s n lc i 0 i.dmaBytes).1 n lc := .of_seqs (dmaRun_seqs n lc i s 0 i.dmaBytes)
    unfold heldRun
    dsimp only
    split
    · split
      · exact hrun
      · exact (hrun.trans (dmaMarks_tagsKept _ n lc rfl)).trans (ih _)
    · exact (signalDo_tagsKept n lc i.d s).trans (ih _)

/-- The held entries run, and the commit counted. -/
theorem heldRun_counted_tagsKept (s : State) (n lc p : Nat) (l : List Iss) :
    TagsKept s (bumpR (heldRun n lc l s).1 p 0x534 1) n lc :=
  (heldRun_tagsKept n lc l s).trans (.of_seqs rfl)

theorem leasesClosed_tagsKept (s : State) (n lc : Nat) (l : List Iss) :
    TagsKept s (l.foldl (fun s i => leaseClose s n lc i.lease) s) n lc := by
  obtain ⟨x, h⟩ := leasesClosed_frame s n lc l
  rw [h]
  exact .of_seqs rfl

/-- The stop of a context's streams at a fault of one of them. -/
theorem faultStop_tagsKept (s : State) (n lc m : Nat) (ls : List Nat) :
    TagsKept s (ls.foldl (fun s l => updSeq s n l (fun q => { q with st := if l = m then 4 else q.st, issued := [] })) s)
      n lc := by
  refine .foldl _ _ (fun u l => ?_) s
  exact updSeq_tagsKept u n lc l (fun _ => rfl) fun _ => rfl

theorem seqFaultNow_tagsKept (s : State) (n lc : Nat) (i : Iss) (code page : Nat) :
    TagsKept s (seqFaultNow s n lc i code page) n lc :=
  TagsKept.trans (.of_seqs (by simp)) (faultStop_tagsKept _ n lc lc _)

/-! ### TAG_COMMIT_COMPLETE (R297) -/

/-- A tag's commit before its held entries run: the tag is FREE and nothing of it is held. -/
def tagFreed (s : State) (n lc k : Nat) : State :=
  updSeq (commitTag s n lc k (recordGrp n)) n lc
    (fun q => { q with held := q.held.filter (fun i => i.tag != some k) }.setTag k {})

theorem tagFreed_free (s : State) (n lc k : Nat) :
    (seq (tagFreed s n lc k) n lc).tag k = {} ∧ ∀ i ∈ (seq (tagFreed s n lc k) n lc).held, i.tag ≠ some k := by
  rw [tagFreed, seq_updSeq]
  exact ⟨Seq.tag_setTag _ k _, fun i hi => by simpa using (List.mem_filter.mp hi).2⟩

/-- No held DMA of a tag passes a test that each of them fails. -/
theorem heldDmas_none {q : Seq} {k : Nat} {p : Iss → Bool}
    (h : ∀ i ∈ q.held, i.tag = some k → i.kind = 8 → p i = false) :
    (q.held.filter (fun i => i.tag == some k)).any (fun i => i.kind == 8 && p i) = false := by
  simp only [List.any_eq_false, List.mem_filter, beq_iff_eq, Bool.and_eq_true, not_and, Bool.not_eq_true]
  exact fun i hi hkind => h i hi.1 hi.2 hkind

/-- A commit whose held DMAs can run: running them, and a fault of one, changes no tag. -/
theorem tagCommit_tagsKept {s : State} {n lc k : Nat} (hlive : seqLive s n lc = true) (hst : ((seq s n lc).tag k).st = 4)
    (hruns : ∀ i ∈ (seq s n lc).held, i.tag = some k → i.kind = 8 → dmaWaits s n lc i = false ∧ dmaArrived s n lc i = true) :
    TagsKept (tagFreed s n lc k) (tagCommit s n lc k) n lc := by
  have hnowait := heldDmas_none fun i hi htag hkind => (hruns i hi htag hkind).1
  have harrived := heldDmas_none (p := fun i => !dmaArrived s n lc i) fun i hi htag hkind => by
    rw [(hruns i hi htag hkind).2]; rfl
  simp only [tagCommit, hlive, hst, hnowait, harrived, bne_self_eq_false, Bool.not_true, Bool.or_self, Bool.false_eq_true,
    if_false]
  have hran := fun l : List Iss => (heldRun_counted_tagsKept (tagFreed s n lc k) n lc (lcPg s n lc) l).trans
    (leasesClosed_tagsKept _ n lc l)
  split
  · exact (hran _).trans (seqFaultNow_tagsKept _ n lc _ _ _)
  · exact hran _

/-! ### TAG_SQUASH_COMPLETE (R298, R302) -/

/-- What the end of its squash makes of a tag: a predicate's squash ahead of the closing descriptor leaves it SQUASHED. -/
def STag.squashed (x : STag) : STag := if x.verdict = 2 && !x.closed then { x with st := 3 } else {}

/-- The end of a squash before its fault surfaces. -/
def tagSquashed (s : State) (n lc k : Nat) : State :=
  updSeq (discardTag s n lc k) n lc (fun q => q.setTag k ((seq s n lc).tag k).squashed)

/-- Surfacing the fault of a squashed tag changes no tag. -/
theorem squashDone_tagsKept {s : State} {n lc k : Nat} (h : ((seq s n lc).tag k).st = 5) :
    TagsKept (tagSquashed s n lc k) (squashDone s n lc k) n lc := by
  simp only [squashDone, h, bne_self_eq_false, Bool.false_eq_true, if_false]
  split
  · refine TagsKept.trans (.of_seqs ?_) (faultStop_tagsKept _ n lc lc _)
    simp only [raiseFault_same, bumpR_same, putR64_same, putR_same]
    rfl
  · exact .refl _ n lc

theorem squashDone_tag {s : State} {n lc k : Nat} (h : ((seq s n lc).tag k).st = 5) :
    (seq (squashDone s n lc k) n lc).tag k = ((seq s n lc).tag k).squashed := by
  rw [Seq.tag_congr (squashDone_tagsKept h).tags, tagSquashed, seq_updSeq, Seq.tag_setTag]

/-! ### The commands -/

/-- Settles O35: each command is its equation; a tag's commit and squash set the tag before the held writes run or the fault
surfaces, which change no tag. -/
theorem speculationTags : Obligations.SpeculationTags := by
  unfold Obligations.SpeculationTags
  refine ⟨?_, ?_, ?_, ?_, ?_⟩
  · intro s n lc i h hkind hfree
    obtain ⟨c, hissue⟩ := issue_of_issues h
    obtain ⟨hpassed, hmem, htag, hothers⟩ := tagOpened_moved { s with chans := c } n lc (byteAt i.d 8 % 8) i
    exact ⟨_, congrArg Host.Outcome.next ((hissue _ _ (isOp_kind hkind)).trans (specIssue_free hfree)), htag, hpassed,
      tagOpened_count { s with chans := c } n lc _ i, hothers, hmem⟩
  · intro s n lc i x h hkind hx hst hready
    subst hx
    obtain ⟨c, hissue⟩ := issue_of_issues h
    obtain ⟨hpassed, hmem, htag, hothers⟩ := commitIssue_moved (s := { s with chans := c }) hst hready
    exact ⟨_, congrArg Host.Outcome.next (hissue _ _ (isOp_kind hkind)), hpassed, hmem,
      fun hopen => htag.trans (STag.atCommit_open hopen), fun hfaulted => htag.trans (STag.atCommit_faulted hfaulted),
      fun hsquashed => htag.trans (if_pos hsquashed), hothers⟩
  · intro s n lc i x h hkind hx hst hready
    subst hx
    obtain ⟨c, hissue⟩ := issue_of_issues h
    obtain ⟨hpassed, hmem, htag, hothers⟩ := squashIssue_moved (s := { s with chans := c }) hst hready
    exact ⟨_, congrArg Host.Outcome.next (hissue _ _ (isOp_kind hkind)), hpassed, hmem, fun hne => htag.trans (if_neg hne),
      fun hthree => htag.trans (if_pos hthree), hothers⟩
  · intro s n lc k hk hlive hst hruns
    obtain ⟨htags, hheld⟩ := tagCommit_tagsKept hlive hst hruns
    obtain ⟨hfree, hnone⟩ := tagFreed_free s n lc k
    exact ⟨_, congrArg Host.Outcome.next (if_pos hk), (Seq.tag_congr htags k).trans hfree, by rw [hheld]; exact hnone⟩
  · intro s n lc k hk hst
    refine ⟨_, congrArg Host.Outcome.next (if_pos hk), fun hverdict hclosed => (squashDone_tag hst).trans (if_pos ?_),
      fun hend => (squashDone_tag hst).trans (if_neg ?_)⟩
    · rw [hverdict, hclosed]; rfl
    · simpa using hend

end Sys2Proof.Machine
end

section
/-!
PROOF. What leaves a core's scratchpad with an outgoing context: its rows read 0 once its cores are released (O38), and the
park area once it is restored (O39).
-/
namespace Sys2Proof.Machine

/-! ### Completion and the rows of an outgoing context (R286) -/

/-- A valid SCRATCH handle of logical core 0 on itself: the first 64 bytes of its scratchpad. -/
def firstRow : List Byte := [1, 0, 0xFF, 0, 0, 0, 0x80, 0x3F] ++ zeros 8 ++ leBytes 8 64 ++ zeros 8

/-- Context 7 has ended its invocation on core 0, where its handle 0 names the first row, and that row holds a 1. -/
def endedWithRow : State := { State.reset with
  mem := [(scratchAddr 0 0, 1)]
  ctxs := [(7, { st := .running, recd := zeros 24 ++ [4, 4], cur := some { recd := [], arrival := 0, ring := true },
                 cores := [0], ended := [0] })]
  seqs := [(448, { core := 0, handles := [(0, firstRow)] })] }

/-- The byte in the context's row reads 0 after the completion. -/
theorem endedWithRow_completes :
    memRd (invocationComplete endedWithRow 7).mem (scratchAddr 0 0) = 0 := by decide

/-- Refutes O38: INVOCATION_COMPLETE releases the context's cores, whose rows then read 0 (R286); the statement leaves every
byte outside the completion record as it was. -/
theorem not_invocationsRun : ¬ Obligations.InvocationsRun := by
  unfold Obligations.InvocationsRun
  rintro ⟨-, -, -, hcomplete, -⟩
  obtain ⟨t, hexec, -, -, -, -, -, -, -, -, -, -, -, hmem⟩ := hcomplete endedWithRow 7 0
    { recd := [], arrival := 0, ring := true } rfl rfl (by decide) rfl rfl rfl rfl rfl rfl rfl (by decide) rfl
    (by decide) (by decide) (by decide)
  obtain rfl : invocationComplete endedWithRow 7 = t := Host.Outcome.next.inj hexec
  have hkept := hmem (scratchAddr 0 0) (Or.inr (by decide))
  rw [endedWithRow_completes] at hkept
  exact absurd hkept (by decide)

/-! ### The park area of a restored context (R329) -/

/-- Context 7 is parked on core 0, whose park area holds a 1. -/
def parkedWithByte : State := { State.reset with
  mem := [(scratchAddr 0 (reserveTop State.reset), 1)]
  ctxs := [(7, { st := .parked, cores := [0] })]
  car := { parkedOn := [(0, 7)] } }

/-- The byte in the park area reads 0 after the restore. -/
theorem parkedWithByte_unparks :
    memRd (unparkRestore parkedWithByte 7).mem (scratchAddr 0 (reserveTop State.reset)) = 0 := by decide

/-- Refutes O39: UNPARK_RESTORE marks the park area PENDING, so that it reads 0 (R329); the statement leaves memory as it
was. -/
theorem not_contextsMoveOffCores : ¬ Obligations.ContextsMoveOffCores := by
  unfold Obligations.ContextsMoveOffCores
  rintro ⟨-, hunpark, -⟩
  obtain ⟨t, hexec, -, -, -, -, -, hmem⟩ := hunpark parkedWithByte 7 rfl (by decide)
  obtain rfl : unparkRestore parkedWithByte 7 = t := Host.Outcome.next.inj hexec
  have hkept := parkedWithByte_unparks
  rw [hmem] at hkept
  exact absurd hkept (by decide)

end Sys2Proof.Machine
end

section
/-!
PROOF. Contexts and sequencers under the operations of other units: registers, memory, blocks, streams, messages and track
sets leave both alone, and a block operation of a context can do no more than fault that context (R435).
-/
namespace Sys2Proof.Machine

/-! ### What leaves contexts and sequencers alone -/

/-- Contexts and sequencers. -/
def ctxSide (s : State) : Tbl Ctx × Tbl Seq := (s.ctxs, s.seqs)

theorem ctx_side {s t : State} (h : ctxSide t = ctxSide s) (k : Nat) : ctx t k = ctx s k := by
  rw [ctx, ctx, show t.ctxs = s.ctxs from congrArg Prod.fst h]

theorem seqs_side {s t : State} (h : ctxSide t = ctxSide s) : t.seqs = s.seqs := congrArg Prod.snd h

/-- A loop over a list leaves contexts and sequencers alone when each of its steps does. -/
theorem foldl_ctxSide {α β : Type} (p : β → State) {f : β → α → β} (l : List α)
    (hf : ∀ u x, ctxSide (p (f u x)) = ctxSide (p u)) (b : β) : ctxSide (p (l.foldl f b)) = ctxSide (p b) :=
  List.foldlRecOn (motive := fun u => ctxSide (p u) = ctxSide (p b)) l f rfl fun u hu x _ => (hf u x).trans hu

/-- A counted loop leaves contexts and sequencers alone when each of its steps does. -/
theorem forN_ctxSide (f : Nat → State → State) (n : Nat) (hf : ∀ k u, ctxSide (f k u) = ctxSide u) (s : State) :
    ctxSide (forN n f s) = ctxSide s :=
  forN_keeps (fun u => ctxSide u = ctxSide s) f n (fun k _ u hu => (hf k u).trans hu) rfl

@[simp] theorem bump_ctxSide (s : State) (p n : Nat) : ctxSide (bump s p n) = ctxSide s := by simp [ctxSide]

@[simp] theorem setStatus_ctxSide (s : State) (p k : Nat) (v : Bool) : ctxSide (setStatus s p k v) = ctxSide s := by
  simp [ctxSide]

@[simp] theorem putR_ctxSide (s : State) (p o : Nat) (w : Word) : ctxSide (putR s p o w) = ctxSide s := rfl

@[simp] theorem putR64_ctxSide (s : State) (p o n : Nat) : ctxSide (putR64 s p o n) = ctxSide s := rfl

@[simp] theorem bumpR_ctxSide (s : State) (p o n : Nat) : ctxSide (bumpR s p o n) = ctxSide s := rfl

@[simp] theorem portResult_ctxSide (s : State) (p : Port) (tag c d : Nat) : ctxSide (portResult s p tag c d) = ctxSide s := rfl

@[simp] theorem wrMem_ctxSide (s : State) (a : Nat) (l : List Byte) : ctxSide (wrMem s a l) = ctxSide s := rfl

@[simp] theorem msixReq_ctxSide (s : State) (v : Nat) : ctxSide (msixReq s v) = ctxSide s := by simp [ctxSide]

@[simp] theorem logRec_ctxSide (s : State) (kind code orig flags id page desc detail : Nat) :
    ctxSide (logRec s kind code orig flags id page desc detail) = ctxSide s := by simp [ctxSide]

@[simp] theorem holdFault_ctxSide (s : State) (page code space id : Nat) :
    ctxSide (holdFault s page code space id) = ctxSide s := by simp [ctxSide]

/-! ### Device and host memory (R415-R419, R454) -/

@[simp] theorem eccRecord_ctxSide (s : State) (a kind nbytes source : Nat) :
    ctxSide (eccRecord s a kind nbytes source) = ctxSide s := by
  unfold eccRecord
  dsimp only
  split <;> simp

@[simp] theorem eccSector_ctxSide (s : State) (source sec : Nat) : ctxSide (eccSector s source sec).1 = ctxSide s := by
  have hbytes : ∀ n (u : State), ctxSide (freeBytes u n).2 = ctxSide u := fun n => by
    induction n with
    | zero => exact fun _ => rfl
    | succ n ih => exact fun u => ih { u with free := u.free + 1 }
  unfold eccSector
  split
  · rfl
  · split
    · rfl
    · split
      · exact eccRecord_ctxSide _ _ _ _ _
      · dsimp only
        split
        · exact (eccRecord_ctxSide _ _ _ _ _).trans (hbytes 64 _)
        · exact eccRecord_ctxSide _ _ _ _ _

@[simp] theorem granTouches_ctxSide (s : State) (a n : Nat) : ctxSide (granTouches s a n) = ctxSide s := by
  obtain ⟨_, h⟩ := granTouches_frame s a n
  rw [h]
  rfl

@[simp] theorem rdGddr_ctxSide (s : State) (source a n : Nat) : ctxSide (rdGddr s source a n).1 = ctxSide s := by
  have hsectors : ∀ (u : State) first k, ctxSide (eccSectors u source first k).1 = ctxSide u := fun u first k => by
    induction k with
    | zero => rfl
    | succ k ih => exact (eccSector_ctxSide _ source _).trans ih
  exact (hsectors _ _ _).trans (granTouches_ctxSide s a _)

@[simp] theorem wrGddr_ctxSide (s : State) (a : Nat) (l : List Byte) : ctxSide (wrGddr s a l).1 = ctxSide s := by
  unfold wrGddr
  extract_lets u first lastEnd partSecs r
  have hparts : ctxSide r.1 = ctxSide s :=
    (foldl_ctxSide Prod.fst partSecs (fun _ _ => by simp) (u, false)).trans (granTouches_ctxSide s a _)
  split
  · exact granTouches_ctxSide s a _
  · split
    · exact hparts
    · exact hparts

@[simp] theorem hostPut_ctxSide (s : State) (p : Nat) (l : List Byte) : ctxSide (hostPut s p l) = ctxSide s := by
  unfold hostPut
  split <;> rfl

@[simp] theorem unitWrite_ctxSide (s : State) (a : Nat) (l : List Byte) : ctxSide (unitWrite s a l).1 = ctxSide s := by
  unfold unitWrite
  split
  · exact wrGddr_ctxSide s a l
  · rfl
  · split
    · exact bump_ctxSide _ _ _
    · split
      · exact bump_ctxSide _ _ _
      · exact hostPut_ctxSide _ _ _
  · split
    · exact hostPut_ctxSide _ _ _
    · rfl
  · rfl

@[simp] theorem unitRead_ctxSide (s : State) (a n : Nat) : ctxSide (unitRead s a n).1 = ctxSide s := by
  unfold unitRead
  split
  · exact rdGddr_ctxSide s 0 a n
  · rfl
  · split
    · exact bump_ctxSide _ _ _
    · split
      · exact bump_ctxSide _ _ _
      · split
        · exact bump_ctxSide _ _ _
        · rfl
  · split
    · rfl
    · split
      · exact bump_ctxSide _ _ _
      · rfl
  · rfl

/-! ### Kettle, for owners that are no contexts (R433-R439) -/

@[simp] theorem setOwners_ctxSide (s : State) (pn : Nat) (p : KPool) (b : Nat) (es : List Own) :
    ctxSide (setOwners s pn p b es) = ctxSide s :=
  have hpool : ∀ q, ctxSide (setPool s pn q) = ctxSide s := fun _ => rfl
  ((wrMem_ctxSide _ _ _).trans ((wrMem_ctxSide _ _ _).trans (wrMem_ctxSide _ _ _))).trans (hpool _)

theorem ketFault_ctxSide (s : State) (code : Nat) {space : Nat} (id : Nat) (h : space ≠ 1) :
    ctxSide (ketFault s code space id) = ctxSide s := by
  unfold ketFault
  dsimp only
  rw [if_neg h]
  simp

@[simp] theorem ketTouch_ctxSide (s : State) (pn b : Nat) : ctxSide (ketTouch s pn b) = ctxSide s := by
  have hread : ∀ l : List Nat, ctxSide (l.foldl (fun (acc : State × Bool) a =>
      ((eccSector acc.1 0 (a / 64)).1, acc.2 || (eccSector acc.1 0 (a / 64)).2)) (s, false)).1 = ctxSide s :=
    fun l => foldl_ctxSide Prod.fst l (fun _ _ => by simp) (s, false)
  unfold ketTouch
  split
  · rfl
  · dsimp only
    split
    · exact hread _
    · exact hread _

@[simp] theorem ketTouchFree_ctxSide (s : State) (pn : Nat) : ctxSide (ketTouchFree s pn) = ctxSide s := by
  unfold ketTouchFree
  split
  · rfl
  · split <;> simp

@[simp] theorem ketTouchPtr_ctxSide (s : State) (ptr : Nat) : ctxSide (ketTouchPtr s ptr) = ctxSide s := by
  unfold ketTouchPtr
  split
  · split <;> simp
  · rfl

theorem ketAlloc_ctxSide (s : State) (pn : Nat) {space : Nat} (id cls n : Nat) (h : space ≠ 1) :
    ctxSide (ketAlloc s pn space id cls n).1 = ctxSide s := by
  unfold ketAlloc
  refine Eq.trans ?_ (ketTouchFree_ctxSide s pn)
  dsimp only
  generalize ketTouchFree s pn = u
  split
  · exact ketFault_ctxSide u _ _ h
  · split
    · exact ketFault_ctxSide u _ _ h
    · split
      · exact bump_ctxSide u _ _
      · refine forN_keeps (fun acc : State × KRes => ctxSide acc.1 = ctxSide u) _ n (fun k _ acc hacc => ?_) rfl
        split
        · split
          · simpa using hacc
          · exact hacc
        · exact hacc
      · exact bump_ctxSide u _ _

/-- A release is a fault of the owner, or changes blocks and counts alone. -/
theorem ketRelease_ctxSide (s : State) (ptr space id : Nat) :
    (∃ u code, ctxSide u = ctxSide s ∧ (ketRelease s ptr space id).1 = ketFault u code space id) ∨
      ctxSide (ketRelease s ptr space id).1 = ctxSide s := by
  have htouch := ketTouchPtr_ctxSide s ptr
  unfold ketRelease
  dsimp only
  generalize ketTouchPtr s ptr = u at htouch ⊢
  split
  · exact Or.inl ⟨u, _, htouch, rfl⟩
  · split
    · dsimp only
      split
      · exact Or.inr ((bump_ctxSide _ _ _).trans ((setOwners_ctxSide _ _ _ _ _).trans htouch))
      · exact Or.inr ((setOwners_ctxSide _ _ _ _ _).trans htouch)
    · exact Or.inl ⟨u, _, htouch, rfl⟩

/-! ### Blocks of streams (R118, R378) -/

@[simp] theorem stmAlloc_ctxSide (s : State) (n pn : Nat) : ctxSide (stmAlloc s n pn).1 = ctxSide s := by
  have halloc := ketAlloc_ctxSide s pn (space := 2) n 1 1 (by decide)
  unfold stmAlloc
  split
  · rfl
  · split
    · next e => rw [e] at halloc; exact halloc
    · next e => rw [e] at halloc; exact halloc

@[simp] theorem stmTry1_ctxSide (s : State) (n : Nat) : ctxSide (stmTry1 s n) = ctxSide s := by
  have hone : ∀ (u : State) (has : Bool) (pn : Nat) (f : Option Nat → Stm → Stm),
      ctxSide (if has then u else updStm (stmAlloc u n pn).1 n (f (stmAlloc u n pn).2)) = ctxSide u := fun u has pn f => by
    split
    · rfl
    · exact stmAlloc_ctxSide u n pn
  unfold stmTry1
  dsimp only
  split
  · rfl
  · exact (hone _ _ _ (fun b y => { y with mapBlk := b })).trans (hone s _ _ (fun b y => { y with picBlk := b }))

@[simp] theorem poolGrant_ctxSide (s : State) (pn k : Nat) : ctxSide (poolGrant s pn k) = ctxSide s := by
  induction k generalizing s with
  | zero => rfl
  | succ k ih =>
    unfold poolGrant
    split
    · rfl
    · dsimp only
      split
      · exact stmTry1_ctxSide s _
      · exact (ih _).trans (stmTry1_ctxSide s _)

@[simp] theorem grantAll_ctxSide (s : State) : ctxSide (grantAll s) = ctxSide s :=
  foldl_ctxSide id _ (fun u pn => poolGrant_ctxSide u pn 1024) s

/-- After a release, a stream that waited for the block may be granted it. -/
theorem relBlock_released (s : State) (ptr space id : Nat) :
    ctxSide (relBlock s ptr space id) = ctxSide (ketRelease s ptr space id).1 := by
  unfold relBlock
  split
  · rfl
  · dsimp only
    split
    · rfl
    · split
      · rfl
      · split
        · exact stmTry1_ctxSide _ _
        · rfl

theorem relBlock_ctxSide (s : State) (ptr : Nat) {space : Nat} (id : Nat) (h : space ≠ 1) :
    ctxSide (relBlock s ptr space id) = ctxSide s := by
  rw [relBlock_released]
  rcases ketRelease_ctxSide s ptr space id with ⟨u, code, hu, hfault⟩ | hside
  · rw [hfault, ketFault_ctxSide u code id h, hu]
  · exact hside

@[simp] theorem prerollRelease_ctxSide (s : State) (n : Nat) : ctxSide (prerollRelease s n).1 = ctxSide s := by
  have hwin : ∀ (u : State) p, ctxSide (winRelease u n p) = ctxSide u := fun u p => by
    unfold winRelease
    dsimp only
    split
    · rfl
    · exact relBlock_ctxSide u _ _ (by decide)
  unfold prerollRelease
  dsimp only
  split
  · rfl
  · split
    · rfl
    · exact (bump_ctxSide _ _ _).trans (hwin _ _)

@[simp] theorem stmTryK_ctxSide (s : State) (n k : Nat) : ctxSide (stmTryK s n k) = ctxSide s := by
  induction k generalizing s with
  | zero => rfl
  | succ k ih =>
    unfold stmTryK
    dsimp only
    split
    · split
      · simp [ih]
      · simp
    · simp

@[simp] theorem stmTry_ctxSide (s : State) (n : Nat) : ctxSide (stmTry s n) = ctxSide s := stmTryK_ctxSide s n _

/-! ### Messages to a peer (R539) -/

@[simp] theorem peerSend_ctxSide (s : State) (m ty : Nat) (body : List Byte) :
    ctxSide (peerSend s m ty body) = ctxSide s := by
  have hput : ∀ (u : State) (o : Nat) (l : List Byte), ctxSide (peerPut u m o l) = ctxSide u := fun u o l => by
    unfold peerPut
    split <;> simp
  have hwrite : ∀ (u : State) msg, ctxSide (peerWrite u m msg) = ctxSide u := fun u msg =>
    (bump_ctxSide _ _ _).trans ((hput _ _ _).trans (hput _ _ _))
  unfold peerSend
  dsimp only
  split
  · exact bump_ctxSide _ _ _
  · exact hwrite _ _

/-! ### The tracker's order stage and decode queues (R114, R359, R360) -/

@[simp] theorem updSet_ctxSide (s : State) (n : Nat) (f : TrkSet → TrkSet) : ctxSide (updSet s n f) = ctxSide s := rfl

@[simp] theorem gapResolve_ctxSide (s : State) (n : Nat) (e : TrkEnt) (gap : Nat) :
    ctxSide (gapResolve s n e gap) = ctxSide s := (updSet_ctxSide _ n _).trans (wrMem_ctxSide _ _ _)

@[simp] theorem trkGap_ctxSide (s : State) (n frameNo stamp gap : Nat) : ctxSide (trkGap s n frameNo stamp gap) = ctxSide s := by
  have hregister : ∀ src passed, ctxSide (trkRegister s n frameNo stamp src passed) = ctxSide s := fun src passed => by
    unfold trkRegister
    dsimp only
    split
    · rfl
    · rw [updSet_ctxSide]
      split
      · split
        · rw [bumpR_ctxSide, gapResolve_ctxSide]
        · rfl
      · rfl
  unfold trkGap
  dsimp only
  split
  · rfl
  · have hfirst : ctxSide (if (trkSet s n).ents.any (fun e => e.frameNo == frameNo) then s
        else trkRegister s n frameNo stamp 0 false) = ctxSide s := by
      split
      · rfl
      · exact hregister 0 false
    split
    · exact (gapResolve_ctxSide _ n _ gap).trans hfirst
    · exact hfirst

@[simp] theorem auQueue_ctxSide (s : State) (n : Nat) (a : Au) : ctxSide (auQueue s n a) = ctxSide s := by
  have hrelease : ∀ (u : State) b, ctxSide (auRelease u n b) = ctxSide u := fun u b => by
    unfold auRelease
    split
    · rfl
    · split
      · split
        · exact peerSend_ctxSide _ _ _ _
        · exact relBlock_ctxSide _ _ _ (by decide)
      · exact relBlock_ctxSide _ _ _ (by decide)
  have hleave : ∀ (u : State) b gap, ctxSide (auLeave u n b gap) = ctxSide u := fun u b gap => by
    cases gap with
    | none => exact hrelease _ _
    | some g => exact (hrelease _ _).trans (trkGap_ctxSide _ _ _ _ _)
  have hdiscard : ∀ (u : State) b gap, ctxSide (auDiscard u n b gap) = ctxSide u := fun u b gap => by
    unfold auDiscard
    dsimp only
    split
    · exact hleave u b gap
    · exact hleave u b gap
  unfold auQueue
  dsimp only
  rw [stmTry_ctxSide]
  split
  · split
    · exact hdiscard _ _ _
    · rfl
  · rfl

/-! ### Epochs (R437) -/

@[simp] theorem sweepOne_ctxSide (s : State) : ctxSide (sweepOne s) = ctxSide s := by
  unfold sweepOne
  split
  · rfl
  · extract_lets ket u v ket' w dead ket''
    have hread : ctxSide v = ctxSide s := by
      unfold v
      split
      · rfl
      · split
        · rfl
        · split
          · rfl
          · rw [poolGrant_ctxSide, bump_ctxSide, setOwners_ctxSide]
            rfl
    split
    · exact hread
    · split
      · exact hread
      · exact (setStatus_ctxSide _ _ _ _).trans hread

theorem updCtx_ctxSide {s t : State} (n : Nat) (f : Ctx → Ctx) (h : ctxSide t = ctxSide s) :
    ctxSide (updCtx t n f) = ctxSide (updCtx s n f) := by
  have hctxs : t.ctxs = s.ctxs := congrArg Prod.fst h
  have hseqs : t.seqs = s.seqs := congrArg Prod.snd h
  simp only [ctxSide, updCtx, setCtx, ctx, hctxs, hseqs]

/-- A context with its epoch one further. -/
def epochUp (c : Ctx) : Ctx := { c with epoch := (c.epoch + 1) % 256 }

/-- The advance of an epoch changes nothing else of contexts and sequencers. -/
theorem epochNext_ctxSide (s : State) (n : Nat) : ctxSide (epochNext s n) = ctxSide (updCtx s n epochUp) := by
  have hadvance : ∀ u : State, ctxSide (epochAdvance u n) = ctxSide (updCtx u n epochUp) := fun u => by
    unfold epochAdvance
    dsimp only
    split
    · exact setStatus_ctxSide _ _ _ _
    · rfl
  unfold epochNext
  split
  · have hswept := (forN_ctxSide _ (bump s 0x160 6).ket.sweep.length (fun _ u => sweepOne_ctxSide u) _).trans (bump_ctxSide s 0x160 6)
    exact (hadvance _).trans (updCtx_ctxSide n epochUp hswept)
  · exact hadvance s

@[simp] theorem clearFaults_ctxSide (s : State) (space id : Nat) : ctxSide (clearFaults s space id) = ctxSide s := rfl

/-! ### Site adaptation (R402-R410) -/

@[simp] theorem posFail_ctxSide (s : State) (j k cause : Nat) : ctxSide (posFail s j k cause) = ctxSide s := by
  unfold posFail
  dsimp only
  split <;> rfl

@[simp] theorem posLoad_ctxSide (j k fuel : Nat) (s : State) : ctxSide (posLoad j k fuel s) = ctxSide s := by
  induction fuel generalizing s with
  | zero => rfl
  | succ fuel ih =>
    have hfail : ∀ (u : State) cause, ctxSide (posLoad j k fuel (posFail u j k cause)) = ctxSide u := fun u cause => by
      rw [ih, posFail_ctxSide]
    have hread : ∀ a, ctxSide (unitRead s a 32).1 = ctxSide s := fun a => unitRead_ctxSide s a 32
    unfold posLoad
    dsimp only
    split
    · rfl
    · split
      · exact (hfail _ 4).trans (hread _)
      · split
        · split
          · exact (hfail _ 3).trans (hread _)
          · split
            · exact hread _
            · exact (auQueue_ctxSide _ _ _).trans (hread _)
        · exact hread _

@[simp] theorem loadStart_ctxSide (s : State) (j step : Nat) : ctxSide (loadStart s j step) = ctxSide s := by
  have hload : ∀ u : State, ctxSide (loadAll u j) = ctxSide u := fun u =>
    forN_ctxSide _ _ (fun k v => posLoad_ctxSide j k _ v) u
  have hreplay : ∀ x, ctxSide (replayRecs s x step).1 = ctxSide s := fun x => by
    unfold replayRecs
    split
    · rfl
    · exact unitRead_ctxSide s _ _
  unfold loadStart
  dsimp only
  split
  · rfl
  · exact (hload _).trans (hreplay _)

@[simp] theorem posRelease_ctxSide (s : State) (l : List APos) : ctxSide (posRelease s l) = ctxSide s := by
  refine foldl_ctxSide id l (fun u p => ?_) s
  dsimp only [id]
  split
  · rfl
  · exact (relBlock_ctxSide _ _ _ (by decide)).trans (relBlock_ctxSide _ _ _ (by decide))

@[simp] theorem adaptDiscard_ctxSide (s : State) (j code : Nat) : ctxSide (adaptDiscard s j code) = ctxSide s := by
  have hdrop : ∀ u : State, ctxSide (loadDrop u j) = ctxSide u := fun u => by
    unfold loadDrop
    dsimp only
    split
    · rfl
    · exact posRelease_ctxSide _ _
  have hstop : ∀ (u : State) st cause, ctxSide (adaptStop u j st cause code) = ctxSide u := fun u st cause => by
    have hlog : ∀ (v : State) flags pos step a, ctxSide (adaptLog v j 2 cause flags pos step a 0) = ctxSide v :=
      fun _ _ _ _ _ => unitWrite_ctxSide _ _ _
    unfold adaptStop
    dsimp only
    split
    · exact (hlog _ _ _ _ _).trans (hdrop u)
    · exact (hlog _ _ _ _ _).trans (hdrop u)
  unfold adaptDiscard
  dsimp only
  split
  · rfl
  · exact (hstop _ _ _).trans (posRelease_ctxSide _ _)

end Sys2Proof.Machine
end

section
/-!
PROOF. The commands of Carillon's port on contexts and models: CTX_OPEN, CTX_CLOSE, CTX_READ, CTX_KILL, CTX_RESUME, MODEL_LOAD
and MODEL_UNLOAD (R311, R323, R334, R437).
-/
namespace Sys2Proof.Machine

/-- A command that Carillon's port takes answers what its operation answers. -/
theorem carCmd_answers {s u : State} {m : Master} {op tag n c d : Nat} {run : POp} (h : portTakes s .car m op n = true)
    (hr : run n (staged s .car) tag (portResult s .car tag 0xF 0) = (u, c, d)) :
    (.next (portCmd .car m op tag n run s) : Host.Outcome State Fault Refusal) = .next (portResult u .car tag c d) := by
  rw [portCmd_takes _ _ _ _ _ _ _ h (Or.inl (by decide)), hr]

@[simp] theorem ctx_portResult (s : State) (p : Port) (tag c d k : Nat) : ctx (portResult s p tag c d) k = ctx s k := rfl

/-- Writing the ADMISSION_LIMIT level changes no context. -/
theorem admitLevel_ctxSide (s : State) : ctxSide (admitLevel s) = ctxSide s := setStatus_ctxSide s _ _ _

/-! ### CTX_OPEN (R311) -/

/-- The context that CTX_OPEN makes of a record. -/
def ctxOpened (o : List Byte) (epoch : Nat) : Ctx := { st := .idle, recd := o.take 64, epoch := epoch }

/-- The state that CTX_OPEN leaves. -/
def ctxEntered (s : State) (o : List Byte) (n : Nat) : State :=
  admitLevel (setCtx s n (ctxOpened o (ctx s n).epoch))

theorem ctxEntered_facts (s : State) (o : List Byte) (n : Nat) :
    ctx (ctxEntered s o n) n = ctxOpened o (ctx s n).epoch ∧ (∀ k, k ≠ n → ctx (ctxEntered s o n) k = ctx s k) ∧
      (ctxEntered s o n).mem = s.mem ∧ (ctxEntered s o n).models = s.models := by
  have hctx : ∀ k, ctx (ctxEntered s o n) k = ctx (setCtx s n (ctxOpened o (ctx s n).epoch)) k :=
    ctx_side (admitLevel_ctxSide _)
  refine ⟨(hctx n).trans (ctx_setCtx s n _), fun k hk => (hctx k).trans (ctx_setCtx_ne s _ hk.symm), ?_, ?_⟩
  · simp [ctxEntered, admitLevel, setCtx]
  · simp [ctxEntered, admitLevel, setCtx]

theorem opCtxOpen_done {s : State} {o : List Byte} {n : Nat} (tag : Nat) (hn : 0 < n) (hst : (ctx s n).st = .closed)
    (hbad : ctxBad o = none) (hroom : ctxsOpen s < admitCtx s) :
    opCtxOpen n o tag s = done (ctxEntered s o n) := by
  simp [opCtxOpen, Nat.ne_of_gt hn, hst, hbad, Nat.not_le.mpr hroom, ctxEntered, ctxOpened]

theorem opCtxOpen_full {s : State} {o : List Byte} {n : Nat} (tag : Nat) (hn : 0 < n) (hst : (ctx s n).st = .closed)
    (hbad : ctxBad o = none) (hfull : admitCtx s ≤ ctxsOpen s) : opCtxOpen n o tag s = refuse s 9 (admitCtx s) := by
  simp [opCtxOpen, Nat.ne_of_gt hn, hst, hbad, hfull]

theorem opCtxOpen_illegal {s : State} {o : List Byte} {n f : Nat} (tag : Nat) (hn : 0 < n) (hbad : ctxBad o = some f) :
    opCtxOpen n o tag s = illegal s f := by
  simp [opCtxOpen, Nat.ne_of_gt hn, hbad]

/-! ### CTX_CLOSE (R323, R437) -/

/-- The state that CTX_CLOSE of a context with nothing queued leaves. -/
def ctxShut (s : State) (n : Nat) : State :=
  let u := clearFaults (epochNext s n) 0 n
  admitLevel (grantAll (setCtx { u with seqs := u.seqs.filter (fun (q : Nat × Seq) => q.1 / 64 != n) } n
    { epoch := (ctx u n).epoch }))

theorem opCtxClose_done {s : State} {n : Nat} (o : List Byte) (tag : Nat) (hn : 0 < n)
    (hst : (ctx s n).st = .idle ∨ (ctx s n).st = .held ∨ (ctx s n).st = .faulted) (hqueue : (ctx s n).queue = [])
    (hcur : (ctx s n).cur = none) : opCtxClose n o tag s = done (ctxShut s n) := by
  have hopen : ¬ (ctx s n).st = .closed := by
    rcases hst with h | h | h <;> rw [h] <;> decide
  have hquiet : (!((ctx s n).st = .idle || (ctx s n).st = .faulted || (ctx s n).st = .held)) = false := by
    rcases hst with h | h | h <;> rw [h] <;> rfl
  unfold opCtxClose
  rw [if_neg (Nat.ne_of_gt hn), if_neg hopen, hquiet, hcur, hqueue]
  rfl

theorem ctxShut_ctx (s : State) (n : Nat) :
    ctx (ctxShut s n) n = { epoch := ((ctx s n).epoch + 1) % 256 } ∧ ∀ k, k ≠ n → ctx (ctxShut s n) k = ctx s k := by
  have hepoch : ∀ k, ctx (clearFaults (epochNext s n) 0 n) k = ctx (updCtx s n epochUp) k :=
    ctx_side ((clearFaults_ctxSide _ 0 n).trans (epochNext_ctxSide s n))
  have hlevel : ∀ (u : State) k, ctx (admitLevel (grantAll u)) k = ctx u k :=
    fun u => ctx_side ((admitLevel_ctxSide _).trans (grantAll_ctxSide u))
  constructor
  · rw [ctxShut, hlevel, ctx_setCtx, hepoch, ctx_updCtx]
    rfl
  · intro k hk
    rw [ctxShut, hlevel, ctx_setCtx_ne _ _ hk.symm]
    exact (hepoch k).trans (ctx_updCtx_ne s _ hk.symm)

/-! ### CTX_READ (Table 13-14) -/

/-- The record of Table 13-14 has 64 bytes. -/
theorem ctxStatus_length (s : State) (n : Nat) : (ctxStatus s n).length = 64 := by
  unfold ctxStatus
  extract_lets c
  simp only [List.length_append, leBytes_length, zeros, List.length_replicate]

theorem opCtxRead_done {s : State} {n : Nat} (o : List Byte) (tag : Nat) (hn : 0 < n) (hst : (ctx s n).st ≠ .closed) :
    opCtxRead n o tag s = done (portStatus s .car (ctxStatus s n)) := by
  rw [opCtxRead, if_neg (Nat.ne_of_gt hn), if_neg hst]

/-- A result register of Carillon's port stands apart from its status record. -/
theorem portResult_status (s : State) (tag c d : Nat) {k : Nat} (hk : k < 16) :
    tgetD (portResult s .car tag c d).regs (rkey 0x190 (0x600 + 4 * k)) 0 = tgetD s.regs (rkey 0x190 (0x600 + 4 * k)) 0 :=
  tgetD_tset_ne _ _ _ (by simp only [rkey, Port.page, Port.resOfs]; omega)

/-! ### CTX_KILL and CTX_RESUME (R334) -/

/-- The state that CTX_KILL leaves: the teardown begun, and a CTX_SAVE that waited answered STATE. -/
def ctxKilled (s : State) (n : Nat) : State :=
  match (ctx s n).evict with
  | some (.save _ _ tag) => portResult (startTeardown s n 0 true) .car tag 0xC 0
  | _ => startTeardown s n 0 true

theorem opCtxKill_done {s : State} {n : Nat} (o : List Byte) (tag : Nat) (hn : 0 < n) (hlive : (ctx s n).st.live = true) :
    opCtxKill n o tag s = done (ctxKilled s n) := by
  have hopen : ¬ (ctx s n).st = .closed := fun h => by
    rw [h] at hlive
    cases hlive
  rw [opCtxKill, if_neg (Nat.ne_of_gt hn), if_neg hopen, if_pos hlive]
  rfl

/-- The context that CTX_KILL leaves. -/
def tornDown (s : State) (c : Ctx) : Ctx :=
  { c with st := .teardown, tearAt := now s, code := 0, killed := true, acked := [], evict := none }

theorem ctxKilled_facts (s : State) (n : Nat) :
    ctx (ctxKilled s n) n = tornDown s (ctx s n) ∧ (∀ k, k ≠ n → ctx (ctxKilled s n) k = ctx s k) ∧
      (ctxKilled s n).mem = s.mem := by
  have hself : ctx (startTeardown s n 0 true) n = tornDown s (ctx s n) := ctx_updCtx s n _
  have hother : ∀ k, k ≠ n → ctx (startTeardown s n 0 true) k = ctx s k := fun k hk => ctx_updCtx_ne s _ hk.symm
  unfold ctxKilled
  split
  · exact ⟨hself, hother, rfl⟩
  · exact ⟨hself, hother, rfl⟩

/-- The state that CTX_RESUME leaves: the context settled, and its batch, where it has a failed one, running again. -/
def ctxResumed (s : State) (n : Nat) : State :=
  match batchOf (settle s n) n with
  | some b => if (batch (settle s n) b).st = 6 then updBatch (settle s n) b (fun x => { x with st := 1 }) else settle s n
  | none => settle s n

theorem opCtxResume_done {s : State} {n : Nat} (o : List Byte) (tag : Nat) (hn : 0 < n) (hst : (ctx s n).st = .faulted) :
    opCtxResume n o tag s = done (ctxResumed s n) := by
  have hfaulted : ((ctx s n).st != .faulted) = false := by rw [hst]; rfl
  rw [opCtxResume, if_neg (Nat.ne_of_gt hn), if_neg (by rw [hst]; decide), hfaulted]
  rfl

theorem ctxResumed_frame (s : State) (n : Nat) : ∃ b, ctxResumed s n = { settle s n with batches := b } := by
  unfold ctxResumed
  split
  · split
    · exact ⟨_, rfl⟩
    · exact ⟨_, rfl⟩
  · exact ⟨_, rfl⟩

/-- A settled context is IDLE, or WAITING with invocations queued. -/
theorem settle_ctx (s : State) (n : Nat) :
    ctx (settle s n) n = { ctx s n with st := if (ctx s n).queue = [] then .idle else .waiting } := by
  simp only [settle, ctx_updCtx, List.isEmpty_iff]

theorem ctxResumed_ctx (s : State) (n : Nat) :
    ctx (ctxResumed s n) n = { ctx s n with st := if (ctx s n).queue = [] then .idle else .waiting } ∧
      ∀ k, k ≠ n → ctx (ctxResumed s n) k = ctx s k := by
  have hsettled : ∀ k, ctx (ctxResumed s n) k = ctx (settle s n) k := by
    obtain ⟨b, hb⟩ := ctxResumed_frame s n
    rw [hb]
    exact fun _ => rfl
  exact ⟨(hsettled n).trans (settle_ctx s n), fun k hk => (hsettled k).trans (ctx_updCtx_ne s _ hk.symm)⟩

/-! ### MODEL_LOAD and MODEL_UNLOAD -/

/-- The model entries after MODEL_LOAD. -/
def modelsLoaded (s : State) (o : List Byte) (n : Nat) : Tbl (List Byte) :=
  if byteAt o 0 = 0 then tdel s.models n else tset s.models n (o.take 64)

theorem opModelLoad_done {s : State} {o : List Byte} {n : Nat} (tag : Nat) (hn : n < 256) (hbad : modelBad o = none) :
    opModelLoad n o tag s = done { s with models := modelsLoaded s o n } := by
  simp [opModelLoad, Nat.not_le.mpr hn, hbad, modelsLoaded]

theorem modelsLoaded_ne (s : State) (o : List Byte) {n k : Nat} (hk : k ≠ n) :
    tget (modelsLoaded s o n) k = tget s.models k := by
  unfold modelsLoaded
  split
  · exact tget_tdel_ne _ hk.symm
  · exact tget_tset_ne _ _ hk.symm

/-- An entry whose contexts are all CLOSED, IDLE or FAULTED is deleted. -/
theorem opModelUnload_done {s : State} {n : Nat} (o : List Byte) (tag : Nat) (hn : n < 256)
    (hsome : (tget s.models n).isSome = true)
    (hidle : ∀ q ∈ s.ctxs, leAt q.2.recd 4 2 = n → q.2.st = .closed ∨ q.2.st = .idle ∨ q.2.st = .faulted) :
    opModelUnload n o tag s = done { s with models := tdel s.models n } := by
  have hbusy : s.ctxs.any (fun (q : Nat × Ctx) =>
      q.2.st != .closed && q.2.st != .idle && q.2.st != .faulted && leAt q.2.recd 4 2 == n) = false := by
    simp only [List.any_eq_false, Bool.and_eq_true, bne_iff_ne, beq_iff_eq]
    rintro q hq ⟨⟨⟨hclosed, hidle'⟩, hfaulted⟩, hmodel⟩
    rcases hidle q hq hmodel with h | h | h
    · exact hclosed h
    · exact hidle' h
    · exact hfaulted h
  have hnone : (tget s.models n).isNone = false := by
    rw [← Option.not_isSome, hsome]
    rfl
  unfold opModelUnload
  rw [if_neg (Nat.not_le.mpr hn), hnone, hbusy]
  rfl

/-! ### The obligation -/

/-- Settles O37, command by command: what the operation answers is known, and what its state keeps follows from the frames of
the operations it is made of. -/
theorem contextPort : Obligations.ContextPort := by
  unfold Obligations.ContextPort
  refine ⟨?_, ?_, ?_, ?_, ?_, ?_, ?_⟩
  · intro s m tag n htake hn _
    refine ⟨?_, ?_, ?_⟩
    · intro hst hbad hroom
      obtain ⟨hself, hother, hmem, hmodels⟩ := ctxEntered_facts (portResult s .car tag 0xF 0) (staged s .car) n
      refine ⟨_, carCmd_answers htake (opCtxOpen_done tag hn hst hbad hroom), resultAt_portResult _ _ _ _ _, ?_, ?_, ?_, ?_⟩
      · exact (ctx_portResult _ _ _ _ _ n).trans hself
      · exact fun k hk => (ctx_portResult _ _ _ _ _ k).trans (hother k hk)
      · simpa using hmem
      · simpa using hmodels
    · intro hst hbad hfull
      exact ⟨_, carCmd_answers htake (opCtxOpen_full tag hn hst hbad hfull), resultAt_portResult _ _ _ _ _, rfl⟩
    · intro f hbad
      exact ⟨_, carCmd_answers htake (opCtxOpen_illegal tag hn hbad), resultAt_portResult _ _ _ _ _, rfl⟩
  · intro s m tag n htake hn _ hst hqueue hcur _
    obtain ⟨hself, hother⟩ := ctxShut_ctx (portResult s .car tag 0xF 0) n
    exact ⟨_, carCmd_answers htake (opCtxClose_done _ tag hn hst hqueue hcur), resultAt_portResult _ _ _ _ _,
      (ctx_portResult _ _ _ _ _ n).trans hself, fun k hk => (ctx_portResult _ _ _ _ _ k).trans (hother k hk)⟩
  · intro s m tag n htake hn _ hst
    refine ⟨_, carCmd_answers htake (opCtxRead_done _ tag hn hst), resultAt_portResult _ _ _ _ _, fun k hk => ?_, ?_⟩
    · exact (portResult_status _ _ _ _ hk).trans (putRec_word _ _ _ _ (by rw [ctxStatus_length]; omega) 0)
    · obtain ⟨r, hr⟩ := portStatus_frame (portResult s .car tag 0xF 0) .car (ctxStatus (portResult s .car tag 0xF 0) n)
      rw [hr]
      rfl
  · intro s m tag n htake hn _ hlive
    obtain ⟨hself, hother, hmem⟩ := ctxKilled_facts (portResult s .car tag 0xF 0) n
    refine ⟨_, carCmd_answers htake (opCtxKill_done _ tag hn hlive), resultAt_portResult _ _ _ _ _, ?_⟩
    simp only [ctx_portResult, hself]
    refine ⟨rfl, rfl, rfl, fun k hk => hother k hk, by simpa using hmem⟩
  · intro s m tag n htake hn _ hst
    obtain ⟨b, hb⟩ := ctxResumed_frame (portResult s .car tag 0xF 0) n
    obtain ⟨hself, hother⟩ := ctxResumed_ctx (portResult s .car tag 0xF 0) n
    refine ⟨_, carCmd_answers htake (opCtxResume_done _ tag hn hst), resultAt_portResult _ _ _ _ _,
      (ctx_portResult _ _ _ _ _ n).trans hself, fun k hk => (ctx_portResult _ _ _ _ _ k).trans (hother k hk), ?_⟩
    rw [hb]
    rfl
  · intro s m tag n htake hn hbad
    refine ⟨_, carCmd_answers htake (opModelLoad_done tag hn hbad), resultAt_portResult _ _ _ _ _, fun hone => ?_, fun hzero => ?_,
      fun k hk => modelsLoaded_ne s _ hk, rfl⟩
    · have hset : modelsLoaded s (staged s .car) n = tset s.models n ((staged s .car).take 64) := if_neg (by omega)
      exact (congrArg (tget · n) hset).trans (tget_tset _ _ _)
    · have hdel : modelsLoaded s (staged s .car) n = tdel s.models n := if_pos hzero
      exact (congrArg (tget · n) hdel).trans (tget_tdel _ _)
  · intro s m tag n htake hn hsome hidle
    exact ⟨_, carCmd_answers htake (opModelUnload_done _ tag hn hsome hidle), resultAt_portResult _ _ _ _ _, tget_tdel _ _,
      fun k hk => tget_tdel_ne _ hk.symm, rfl⟩

end Sys2Proof.Machine
end

section
/-!
PROOF. What faults and discards leave of the contexts: a fault starts one teardown and changes no other context (R335, R491), and
the discard of an invocation that failed leaves every context that is not live as it was, but for the producer index of its
completion ring (R334, R351).
-/
namespace Sys2Proof.Machine

/-! ### Faults (R335, R491) -/

/-- A fault of a live context outside a reset starts its teardown, at the fault's time. -/
theorem raiseFault_live (s : State) {n : Nat} (code page desc detail orig flags : Nat) (hlive : (ctx s n).st.live = true)
    (hrst : inReset s n = false) : ∃ u, ctxSide u = ctxSide s ∧ now u = now s ∧
      raiseFault s (.ctx n) code page desc detail orig flags = startTeardown u n code false := by
  have hsec : ((decide ((ctx s n).st = .teardown)) || inReset s n) = false := by
    rw [hrst, Bool.or_false, decide_eq_false_iff_not]
    intro h
    rw [h] at hlive
    cases hlive
  refine ⟨holdFault (logRec s 0 code orig (4 * b2n false + flags) n page desc detail) page code 0 n, by simp, by simp [now], ?_⟩
  simp only [raiseFault, hsec, hlive, Bool.false_eq_true, if_false, if_true]

/-- A fault of a context that is torn down, or in a reset, or not live is recorded, and changes no context. -/
theorem raiseFault_ctxSide (s : State) {n : Nat} (code page desc detail orig flags : Nat)
    (h : (ctx s n).st.live = false ∨ inReset s n = true) :
    ctxSide (raiseFault s (.ctx n) code page desc detail orig flags) = ctxSide s := by
  unfold raiseFault
  dsimp only
  split
  · exact logRec_ctxSide _ _ _ _ _ _ _ _ _
  · next hsec =>
    split
    · next hlive =>
      rcases h with hdead | hrst
      · rw [hlive] at hdead
        cases hdead
      · simp [hrst] at hsec
    · rw [holdFault_ctxSide, logRec_ctxSide]

/-! ### What a discard keeps -/

/-- What the discard of an invocation keeps: the sequencers, the cores that contexts wait for, and of a context that is not live
everything but its completion producer index. -/
structure RestKept (s t : State) : Prop where
  seqs : t.seqs = s.seqs
  want : ∀ k, (ctx t k).want = (ctx s k).want
  quiet : ∀ k, (ctx s k).st.live = false → ∃ p, ctx t k = { ctx s k with cplProd := p }

theorem RestKept.of_side {s t : State} (h : ctxSide t = ctxSide s) : RestKept s t :=
  ⟨seqs_side h, fun k => by rw [ctx_side h], fun k _ => ⟨_, ctx_side h k⟩⟩

theorem RestKept.refl (s : State) : RestKept s s := .of_side rfl

theorem RestKept.trans {s t u : State} (h1 : RestKept s t) (h2 : RestKept t u) : RestKept s u where
  seqs := h2.seqs.trans h1.seqs
  want k := (h2.want k).trans (h1.want k)
  quiet k hk := by
    obtain ⟨p, hp⟩ := h1.quiet k hk
    obtain ⟨q, hq⟩ := h2.quiet k (by rw [hp]; exact hk)
    exact ⟨q, by rw [hq, hp]⟩

theorem RestKept.then_side {s t u : State} (h1 : RestKept s t) (h2 : ctxSide u = ctxSide t) : RestKept s u :=
  h1.trans (.of_side h2)

theorem RestKept.foldl {α : Type} {f : State → α → State} (hf : ∀ u x, RestKept u (f u x)) (l : List α) (s : State) :
    RestKept s (l.foldl f s) :=
  List.foldlRecOn (motive := fun u => RestKept s u) l f (.refl s) fun u hu x _ => hu.trans (hf u x)

/-- A change of one context keeps the rest when it keeps the cores waited for and, of a context that is not live, all but the
completion producer index. -/
theorem updCtx_restKept (s : State) (n : Nat) (f : Ctx → Ctx) (hwant : (f (ctx s n)).want = (ctx s n).want)
    (hquiet : (ctx s n).st.live = false → ∃ p, f (ctx s n) = { ctx s n with cplProd := p }) : RestKept s (updCtx s n f) where
  seqs := rfl
  want k := by
    rcases Decidable.em (n = k) with rfl | hk
    · rw [ctx_updCtx, hwant]
    · rw [ctx_updCtx_ne s f hk]
  quiet k hlive := by
    rcases Decidable.em (n = k) with rfl | hk
    · rw [ctx_updCtx]
      exact hquiet hlive
    · exact ⟨_, ctx_updCtx_ne s f hk⟩

theorem ctxFault_restKept (s : State) (n code page desc : Nat) : RestKept s (ctxFault s n code page desc) := by
  by_cases h : (ctx s n).st.live = true ∧ inReset s n = false
  · obtain ⟨hlive, hrst⟩ := h
    obtain ⟨u, hu, -, hfault⟩ := raiseFault_live s code page desc 0 0 0 hlive hrst
    rw [ctxFault, hfault]
    refine (RestKept.of_side hu).trans (updCtx_restKept u n _ rfl fun hdead => ?_)
    rw [ctx_side hu, hlive] at hdead
    cases hdead
  · refine .of_side (raiseFault_ctxSide s code page desc 0 0 0 ?_)
    cases hlive : (ctx s n).st.live
    · exact Or.inl rfl
    · cases hrst : inReset s n
      · exact absurd ⟨hlive, hrst⟩ h
      · exact Or.inr rfl

/-! ### Kettle and batches -/

theorem ketFault_restKept (s : State) (code space id : Nat) : RestKept s (ketFault s code space id) := by
  by_cases h : space = 1
  · unfold ketFault
    dsimp only
    rw [if_pos h]
    exact (RestKept.of_side (bump_ctxSide s _ _)).trans (ctxFault_restKept _ _ _ _ _)
  · exact .of_side (ketFault_ctxSide s code id h)

theorem relBlock_restKept (s : State) (ptr space id : Nat) : RestKept s (relBlock s ptr space id) := by
  refine RestKept.then_side ?_ (relBlock_released s ptr space id)
  rcases ketRelease_ctxSide s ptr space id with ⟨u, code, hu, hfault⟩ | hside
  · rw [hfault]
    exact (RestKept.of_side hu).trans (ketFault_restKept u code space id)
  · exact .of_side hside

@[simp] theorem updBatch_ctxSide (s : State) (b : Nat) (f : Batch → Batch) : ctxSide (updBatch s b f) = ctxSide s := rfl

@[simp] theorem textStage_ctxSide (s : State) (m : Nat) (r : List Byte) : ctxSide (textStage s m r) = ctxSide s := by
  have hstage : ∀ k, ctxSide (stageRec s k r) = ctxSide s := fun k => by
    unfold stageRec
    dsimp only
    split
    · rfl
    · rfl
  unfold textStage
  dsimp only
  split
  · exact hstage _
  · split
    · exact hstage _
    · rfl

theorem logitWrite_restKept (s : State) (b : Nat) (l : List (List Byte)) : RestKept s (logitWrite s b l) := by
  unfold logitWrite
  extract_lets x n size prod u
  have hu : RestKept s u := .of_side (foldl_ctxSide id _ (fun v k => unitWrite_ctxSide v _ _) s)
  split
  · exact hu
  · exact (hu.trans (updCtx_restKept u n _ rfl fun _ => ⟨_, rfl⟩)).then_side (msixReq_ctxSide _ _)

theorem seqLeave_restKept (s : State) (b slot reason step : Nat) : RestKept s (seqLeave s b slot reason step) := by
  unfold seqLeave
  dsimp only
  split
  · exact .refl s
  · exact (RestKept.foldl (fun u p => relBlock_restKept u p 1 _) _ s).then_side (updBatch_ctxSide _ _ _)

theorem batchEnd_restKept (s : State) (b : Nat) : RestKept s (batchEnd s b) := by
  unfold batchEnd
  extract_lets x n u v l w y
  have hu : RestKept s u := .of_side (updBatch_ctxSide s b _)
  have hv : RestKept u v := .foldl (fun z k => seqLeave_restKept z b k 5 _) _ u
  have hw : RestKept v w := (logitWrite_restKept v b l).then_side (bumpR_ctxSide _ _ _ _)
  have hy : RestKept w y :=
    ((relBlock_restKept w _ 1 n).trans (relBlock_restKept _ _ 1 n)).trans (relBlock_restKept _ _ 1 n)
  exact (((hu.trans hv).trans hw).trans hy).then_side (updBatch_ctxSide y b _)

theorem batchClosing_restKept (s : State) (b : Nat) : RestKept s (batchClosing s b) := by
  unfold batchClosing
  split
  · exact .refl s
  · exact (batchEnd_restKept s b).then_side (portResult_ctxSide _ _ _ _ _)

theorem batchDiscard_restKept (s : State) (b code : Nat) (resume : Bool) : RestKept s (batchDiscard s b code resume) := by
  unfold batchDiscard
  extract_lets x step u v w y z
  have hu : RestKept s u := .foldl (fun q r => by
    split
    · exact (RestKept.foldl (fun u' p => relBlock_restKept u' p 1 _) _ q).then_side (updBatch_ctxSide _ _ _)
    · exact .refl q) _ s
  have hw : RestKept u w := (RestKept.of_side (updBatch_ctxSide u b _)).trans (logitWrite_restKept v b _)
  have hy : RestKept w y := .foldl (fun q t => .of_side (textStage_ctxSide q _ _)) _ w
  have hz : RestKept y z := .of_side (bumpR_ctxSide y _ _ _)
  exact ((((hu.trans hw).trans hy).trans hz).then_side (bumpR_ctxSide z _ _ _)).trans (batchClosing_restKept _ b)

/-! ### Frames and tracked objects of a dropped invocation (R150, R359) -/

@[simp] theorem dispatchDrop_ctxSide (s : State) (n frameNo stamp gap : Nat) :
    ctxSide (dispatchDrop s n frameNo stamp gap) = ctxSide s := by
  have hgate : ∀ f, ctxSide (updGate s n f) = ctxSide s := fun _ => rfl
  exact (trkGap_ctxSide _ _ _ _ _).trans (hgate _)

@[simp] theorem trackLost_ctxSide (s : State) (m : Nat) : ctxSide (trackLost s m) = ctxSide s := by
  unfold trackLost
  split
  · rfl
  · dsimp only
    split
    · split
      · exact (relBlock_ctxSide _ _ _ (by decide)).trans (updSet_ctxSide s m _)
      · exact updSet_ctxSide s m _
    · exact updSet_ctxSide s m _

theorem invDropped_restKept (s : State) (n : Nat) (i : Inv) (gap : Nat) : RestKept s (invDropped s n i gap) := by
  unfold invDropped
  split
  · exact .of_side (trackLost_ctxSide s _)
  · split
    · split
      · exact .refl s
      · dsimp only
        split
        · exact .of_side (dispatchDrop_ctxSide s _ _ _ _)
        · split
          · exact .of_side (dispatchDrop_ctxSide s _ _ _ _)
          · exact .refl s
    · exact (RestKept.of_side (dispatchDrop_ctxSide s _ _ _ _)).trans (relBlock_restKept _ _ _ _)

/-- What an invocation that failed leaves behind, of whatever kind it was. -/
theorem invFailed_restKept (s : State) (n : Nat) (i : Inv) (code : Nat) (resume : Bool) :
    RestKept s (invFailed s n i code resume) := by
  unfold invFailed
  split
  · exact batchDiscard_restKept s _ _ _
  · split
    · exact .of_side (adaptDiscard_ctxSide s _ _)
    · exact invDropped_restKept s n i 6

end Sys2Proof.Machine
end

section
/-!
PROOF. TEARDOWN_COMPLETE (R334, Table 13-11): what the completion of a torn-down context writes of it, how it leaves the context, and
that the grants it lets go ahead are those of other contexts (R319, R328).
-/
namespace Sys2Proof.Machine

/-! ### The completion ring (R321) -/

/-- What the completion ring of context `n` changes: its producer index and the completions that wait for room. -/
structure RingKept (n : Nat) (s t : State) : Prop where
  seqs : t.seqs = s.seqs
  self : ∃ p w, ctx t n = { ctx s n with cplProd := p, cplWait := w }
  other : ∀ k, k ≠ n → ctx t k = ctx s k

theorem RingKept.refl (n : Nat) (s : State) : RingKept n s s := ⟨rfl, ⟨_, _, rfl⟩, fun _ _ => rfl⟩

theorem RingKept.trans {n : Nat} {s t u : State} (h1 : RingKept n s t) (h2 : RingKept n t u) : RingKept n s u where
  seqs := h2.seqs.trans h1.seqs
  self := by
    obtain ⟨p, w, h⟩ := h1.self
    obtain ⟨p', w', h'⟩ := h2.self
    exact ⟨p', w', by rw [h', h]⟩
  other k hk := (h2.other k hk).trans (h1.other k hk)

theorem RingKept.of_side {n : Nat} {s t : State} (h : ctxSide t = ctxSide s) : RingKept n s t :=
  ⟨seqs_side h, ⟨_, _, ctx_side h n⟩, fun k _ => ctx_side h k⟩

theorem updCtx_ringKept (s : State) (n : Nat) (f : Ctx → Ctx)
    (hf : ∃ p w, f (ctx s n) = { ctx s n with cplProd := p, cplWait := w }) : RingKept n s (updCtx s n f) := by
  obtain ⟨p, w, h⟩ := hf
  exact ⟨rfl, ⟨p, w, (ctx_updCtx s n f).trans h⟩, fun k hk => ctx_updCtx_ne s f hk.symm⟩

theorem cplWrite_ringKept {s t : State} {n : Nat} {r : List Byte} (h : cplWrite s n r = some t) : RingKept n s t := by
  unfold cplWrite at h
  extract_lets c size w at h
  split at h
  · cases h
  · cases h
    have hw : RingKept n s w.1 := .of_side (unitWrite_ctxSide s _ _)
    have hc : RingKept n w.1 (updCtx w.1 n (fun c => { c with cplProd := c.cplProd + 1 })) :=
      updCtx_ringKept w.1 n _ ⟨_, _, rfl⟩
    exact (hw.trans hc).trans (.of_side (msixReq_ctxSide _ _))

theorem cplDrain_ringKept (s : State) (n k : Nat) : RingKept n s (cplDrain s n k) := by
  induction k generalizing s with
  | zero => exact .refl n s
  | succ k ih =>
    unfold cplDrain
    split
    · exact .refl n s
    · split
      · next hwrite => exact ((cplWrite_ringKept hwrite).trans (updCtx_ringKept _ n _ ⟨_, _, rfl⟩)).trans (ih _)
      · exact .refl n s

/-- A completion sets the last status and code of its context, and changes nothing of what it waits for and of its epoch. -/
theorem complete_facts (s : State) (n : Nat) (i : Inv) (status code grant : Nat) :
    (complete s n i status code grant).seqs = s.seqs ∧
      (∀ k, (ctx (complete s n i status code grant) k).want = (ctx s k).want) ∧
      (ctx (complete s n i status code grant) n).epoch = (ctx s n).epoch ∧
      (ctx (complete s n i status code grant) n).lastStatus = status ∧
      (ctx (complete s n i status code grant) n).lastCode = code := by
  unfold complete
  extract_lets c r u
  have hu : ctx u n = _ := ctx_updCtx s n _
  have hring := cplDrain_ringKept u n (c.cplWait.length + 1)
  obtain ⟨p, w, hself⟩ := hring.self
  rw [hself, hu]
  refine ⟨hring.seqs, fun k => ?_, rfl, rfl, rfl⟩
  rcases Decidable.em (k = n) with rfl | hk
  · rw [hself, hu]
  · rw [hring.other k hk]
    exact congrArg Ctx.want (ctx_updCtx_ne s _ (Ne.symm hk))

/-! ### Grants to other contexts (R319, R324, R328) -/

/-- What a grant to another context keeps: context `n` and its sequencers, and no context waits for more cores than before. -/
structure Beside (n : Nat) (s t : State) : Prop where
  same : ctx t n = ctx s n
  seqs : ∀ lc, lc < 64 → tget t.seqs (64 * n + lc) = tget s.seqs (64 * n + lc)
  want : ∀ k, (ctx t k).want.length ≤ (ctx s k).want.length

theorem Beside.of_side {n : Nat} {s t : State} (h : ctxSide t = ctxSide s) : Beside n s t :=
  ⟨ctx_side h n, fun _ _ => by rw [seqs_side h], fun k => Nat.le_of_eq (by rw [ctx_side h])⟩

theorem Beside.refl (n : Nat) (s : State) : Beside n s s := .of_side rfl

theorem Beside.trans {n : Nat} {s t u : State} (h1 : Beside n s t) (h2 : Beside n t u) : Beside n s u :=
  ⟨h2.same.trans h1.same, fun lc h => (h2.seqs lc h).trans (h1.seqs lc h), fun k => Nat.le_trans (h2.want k) (h1.want k)⟩

theorem updCtx_beside {n u : Nat} (s : State) (f : Ctx → Ctx) (hu : u ≠ n)
    (hwant : (f (ctx s u)).want.length ≤ (ctx s u).want.length) : Beside n s (updCtx s u f) where
  same := ctx_updCtx_ne s f hu
  seqs _ _ := rfl
  want k := by
    rcases Decidable.em (u = k) with rfl | hk
    · rw [ctx_updCtx]
      exact hwant
    · exact Nat.le_of_eq (by rw [ctx_updCtx_ne s f hk])

theorem setSeq_beside {n u lc : Nat} (s : State) (q : Seq) (hu : u ≠ n) (hlc : lc < 64) : Beside n s (setSeq s u lc q) where
  same := rfl
  seqs l hl := tget_tset_ne s.seqs q (by omega)
  want _ := Nat.le_refl _

theorem urgentLevel_ctxSide (s : State) : ctxSide (urgentLevel s) = ctxSide s := setStatus_ctxSide s _ _ _

theorem swapIn_beside {n u : Nat} (s : State) (i : Inv) {place : List Nat} (hu : u ≠ n) (hplace : place.length ≤ 48) :
    Beside n s (swapIn s u i place) := by
  unfold swapIn
  extract_lets a h m grad v car w x y
  have hv : Beside n s v := updCtx_beside s _ hu (Nat.zero_le _)
  have hw : Beside n v w := .of_side rfl
  have hx : Beside n w x := forN_keeps (Beside n w) _ place.length
    (fun lc hlc _ hz => hz.trans (setSeq_beside _ _ hu (by omega))) (.refl n w)
  have hy : Beside n x y := by
    unfold y
    split
    · exact .of_side (loadStart_ctxSide x _ _)
    · exact .refl n x
  have hopen : Beside n y (openWindow y u) := updCtx_beside y _ hu (Nat.le_refl _)
  exact ((((hv.trans hw).trans hx).trans hy).trans hopen).trans (.of_side (urgentLevel_ctxSide _))

theorem grantNow_beside {n u : Nat} (s : State) {place : List Nat} (hu : u ≠ n) (hplace : place.length ≤ 48) :
    Beside n s (grantNow s u place) := by
  unfold grantNow
  split
  · exact .refl n s
  · split
    · exact (updCtx_beside s _ hu (Nat.le_refl _)).trans (swapIn_beside _ _ hu hplace)
    · extract_lets v car
      have hv : Beside n s v := updCtx_beside s _ hu (Nat.zero_le _)
      have hcar : Beside n v { v with car := { v.car with reserved := v.car.reserved.filter (fun q => q.2 != u) } } := .of_side rfl
      exact (hv.trans hcar).trans (.of_side (urgentLevel_ctxSide _))

/-- The grants that freed cores allow keep a context that waits for none. -/
theorem grantWaiters_beside {n : Nat} (s : State) (hn : (ctx s n).want = []) (hwant : ∀ k, (ctx s k).want.length ≤ 48) :
    Beside n s (grantWaiters s) := by
  refine List.foldlRecOn (motive := fun v => Beside n s v) _ grantWanted (.refl n s) fun v hv u _ => ?_
  refine hv.trans ?_
  unfold grantWanted
  dsimp only
  split
  · exact .refl n v
  · next hgo =>
    refine grantNow_beside v ?_ (Nat.le_trans (hv.want u) (hwant u))
    rintro rfl
    rw [hv.same, hn] at hgo
    exact hgo rfl

/-! ### The teardown -/

/-- Leases, rings, requests to the host and a waiting CTX_SAVE of a torn-down context are given back. -/
def tearReturned (s : State) (n : Nat) : State :=
  match (ctx s n).evict with
  | some (.save _ _ tag) => portResult (npAbandon (ringsOfCtx (leasesReturn s n) n) n (fun _ => true)) .car tag 0xC 0
  | _ => npAbandon (ringsOfCtx (leasesReturn s n) n) n (fun _ => true)

/-- Its cores and sequencers are gone. -/
def tearEmptied (s : State) (n : Nat) : State :=
  let u := tearReturned s n
  { u with car := { u.car with parkedOn := u.car.parkedOn.filter (fun (q : Nat × Nat) => q.2 != n),
                               reserved := u.car.reserved.filter (fun (q : Nat × Nat) => q.2 != n) },
           seqs := u.seqs.filter (fun (q : Nat × Seq) => q.1 / 64 != n) }

/-- The teardown resumes the context: it was killed, or AUTO_RESUME is set. -/
def tearResumes (s : State) (n : Nat) : Bool := (ctx s n).killed || (ctx s n).flag 0

/-- The invocation it held has failed, and has its completion. -/
def tearCompleted (s : State) (n : Nat) : State :=
  match (ctx s n).cur with
  | some i => complete (invFailed (tearEmptied s n) n i (ctx s n).code (tearResumes s n)) n i (if (ctx s n).killed then 2 else 1)
      (if (ctx s n).killed then 0 else (ctx s n).code) (ctx s n).grantAt
  | none => tearEmptied s n

/-- A context without cores and without an invocation. -/
def ctxFreed (c : Ctx) : Ctx :=
  { c with cores := [], ended := [], acked := [], cur := none, evict := none, want := [], image := 0, pausedAt := none, np := false }

/-- Its epoch has advanced and its cores are free. -/
def tearFreed (s : State) (n : Nat) : State :=
  updCtx (bump (clearFaults (epochNext (tearCompleted s n) n) 0 n) 0x190 7) n ctxFreed

/-- The context is FAULTED, or goes on. -/
def tearLeft (s : State) (n : Nat) : State :=
  if tearResumes s n then settle (tearFreed s n) n else updCtx (tearFreed s n) n (fun c => { c with st := .faulted })

theorem teardownComplete_eq {s : State} {n : Nat} (hst : (ctx s n).st = .teardown)
    (hacked : ∀ k ∈ (ctx s n).cores, k ∈ (ctx s n).acked) :
    teardownComplete s n = grantWaiters (urgentLevel (grantAll (tearLeft s n))) := by
  have hdone : ((ctx s n).cores.any fun k => !(ctx s n).acked.contains k) = false := by
    simpa only [List.any_eq_false, Bool.not_eq_true', Bool.not_eq_false, List.contains_iff_mem] using hacked
  have hgo : ((ctx s n).st != .teardown || (ctx s n).cores.any fun k => !(ctx s n).acked.contains k) = false := by
    rw [hst, hdone]
    rfl
  unfold teardownComplete
  dsimp only
  rw [hgo]
  rfl

theorem ringsOfCtx_ctxSide (s : State) (c : Nat) : ctxSide (ringsOfCtx s c) = ctxSide s := by
  have habort : ∀ (u : State) p n, ctxSide (ringAbort u p n) = ctxSide u := fun u p n => by
    unfold ringAbort
    extract_lets key pg jobs v first w
    have hv : ctxSide v = ctxSide u := foldl_ctxSide id _ (fun z j => unitWrite_ctxSide z _ _) u
    have hw : ctxSide w = ctxSide v := forN_ctxSide _ _ (fun i z => unitWrite_ctxSide z _ _) v
    have hcut : ctxSide { w with rjobs := tdel w.rjobs key, ringAt := tdel w.ringAt key } = ctxSide w := rfl
    exact ((putR_ctxSide _ _ _ _).trans hcut).trans (hw.trans hv)
  refine forN_ctxSide _ 4 (fun p u => forN_ctxSide _ 8 (fun n v => ?_) u) s
  dsimp only
  split
  · exact habort v p n
  · rfl

theorem tearReturned_ctxSide (s : State) (n : Nat) : ctxSide (tearReturned s n) = ctxSide s := by
  have hreturn : ctxSide (npAbandon (ringsOfCtx (leasesReturn s n) n) n (fun _ => true)) = ctxSide s :=
    (show ctxSide (npAbandon _ n (fun _ => true)) = ctxSide _ from rfl).trans
      ((ringsOfCtx_ctxSide (leasesReturn s n) n).trans (show ctxSide (leasesReturn s n) = ctxSide s from rfl))
  unfold tearReturned
  split
  · exact (portResult_ctxSide _ _ _ _ _).trans hreturn
  · exact hreturn

theorem tearEmptied_ctx (s : State) (n k : Nat) : ctx (tearEmptied s n) k = ctx s k :=
  ctx_side (tearReturned_ctxSide s n) k

/-- No sequencer of the torn-down context is left. -/
theorem tearEmptied_seqs (s : State) {n lc : Nat} (hlc : lc < 64) : tget (tearEmptied s n).seqs (64 * n + lc) = none := by
  have hmine : (64 * n + lc) / 64 = n := by omega
  refine (tget_filter _ (fun i => i / 64 != n) _).trans ?_
  simp [hmine]

/-- The completion leaves the sequencers, the cores waited for and the epoch; it carries STATUS 2 where the context was killed, and
STATUS 1 with the fault code otherwise. -/
theorem tearCompleted_facts {s : State} {n : Nat} (hst : (ctx s n).st = .teardown) :
    (tearCompleted s n).seqs = (tearEmptied s n).seqs ∧ (∀ k, (ctx (tearCompleted s n) k).want = (ctx s k).want) ∧
      (ctx (tearCompleted s n) n).epoch = (ctx s n).epoch ∧
      ((ctx s n).cur.isSome = true → (ctx (tearCompleted s n) n).lastStatus = (if (ctx s n).killed then 2 else 1) ∧
        (ctx (tearCompleted s n) n).lastCode = (if (ctx s n).killed then 0 else (ctx s n).code)) := by
  unfold tearCompleted
  cases hcur : (ctx s n).cur with
  | none => exact ⟨rfl, fun k => by rw [tearEmptied_ctx], by rw [tearEmptied_ctx], fun h => by cases h⟩
  | some i =>
    have hrest := invFailed_restKept (tearEmptied s n) n i (ctx s n).code (tearResumes s n)
    obtain ⟨hseqs, hwant, hepoch, hstatus, hcode⟩ := complete_facts
      (invFailed (tearEmptied s n) n i (ctx s n).code (tearResumes s n)) n i (if (ctx s n).killed then 2 else 1)
      (if (ctx s n).killed then 0 else (ctx s n).code) (ctx s n).grantAt
    obtain ⟨p, hp⟩ := hrest.quiet n (by rw [tearEmptied_ctx, hst]; rfl)
    refine ⟨hseqs.trans hrest.seqs, fun k => ?_, ?_, fun _ => ⟨hstatus, hcode⟩⟩
    · rw [hwant, hrest.want, tearEmptied_ctx]
    · rw [hepoch, hp, tearEmptied_ctx]

/-- The freed context is the one of the completion without cores, and its epoch one further. -/
theorem tearFreed_facts (s : State) (n : Nat) :
    ctx (tearFreed s n) n = ctxFreed (epochUp (ctx (tearCompleted s n) n)) ∧
      (∀ k, k ≠ n → ctx (tearFreed s n) k = ctx (tearCompleted s n) k) ∧ (tearFreed s n).seqs = (tearCompleted s n).seqs := by
  have hside : ctxSide (bump (clearFaults (epochNext (tearCompleted s n) n) 0 n) 0x190 7) =
      ctxSide (updCtx (tearCompleted s n) n epochUp) :=
    (bump_ctxSide _ _ _).trans ((clearFaults_ctxSide _ 0 n).trans (epochNext_ctxSide _ n))
  have hseqs := seqs_side hside
  refine ⟨?_, fun k hk => ?_, hseqs⟩
  · rw [tearFreed, ctx_updCtx, ctx_side hside, ctx_updCtx]
  · rw [tearFreed, ctx_updCtx_ne _ _ hk.symm, ctx_side hside, ctx_updCtx_ne _ _ hk.symm]

/-- The state in which the teardown leaves its context. -/
def tearState (s : State) (n : Nat) : CtxSt :=
  if tearResumes s n then (if (ctx (tearFreed s n) n).queue = [] then .idle else .waiting) else .faulted

theorem tearLeft_facts (s : State) (n : Nat) :
    ctx (tearLeft s n) n = { ctx (tearFreed s n) n with st := tearState s n } ∧
      (∀ k, k ≠ n → ctx (tearLeft s n) k = ctx (tearFreed s n) k) ∧ (tearLeft s n).seqs = (tearFreed s n).seqs := by
  unfold tearLeft tearState
  split
  · exact ⟨settle_ctx _ n, fun k hk => ctx_updCtx_ne _ _ hk.symm, rfl⟩
  · exact ⟨ctx_updCtx _ n _, fun k hk => ctx_updCtx_ne _ _ hk.symm, rfl⟩

/-- TEARDOWN_COMPLETE of a scrubbed context leaves it as the completion did, freed, one epoch further and in its new state, and
leaves none of its sequencers. -/
theorem teardownComplete_facts {s : State} {n : Nat} (hst : (ctx s n).st = .teardown)
    (hacked : ∀ k ∈ (ctx s n).cores, k ∈ (ctx s n).acked) (hwant : ∀ k, (ctx s k).want.length ≤ 48) :
    ctx (teardownComplete s n) n = { ctxFreed (epochUp (ctx (tearCompleted s n) n)) with st := tearState s n } ∧
      ∀ lc, lc < 64 → tget (teardownComplete s n).seqs (64 * n + lc) = none := by
  obtain ⟨hseqs, hwants, -, -⟩ := tearCompleted_facts hst
  obtain ⟨hfreed, hfreedOther, hfreedSeqs⟩ := tearFreed_facts s n
  obtain ⟨hleft, hleftOther, hleftSeqs⟩ := tearLeft_facts s n
  rw [hfreed] at hleft
  have hside : ctxSide (urgentLevel (grantAll (tearLeft s n))) = ctxSide (tearLeft s n) :=
    (urgentLevel_ctxSide _).trans (grantAll_ctxSide _)
  have hlen : ∀ k, (ctx (tearLeft s n) k).want.length ≤ 48 := fun k => by
    rcases Decidable.em (k = n) with rfl | hk
    · rw [hleft]
      exact Nat.zero_le _
    · rw [hleftOther k hk, hfreedOther k hk, hwants]
      exact hwant k
  have hgrants := grantWaiters_beside (n := n) (urgentLevel (grantAll (tearLeft s n)))
    (by rw [ctx_side hside, hleft]; rfl) (fun k => by rw [ctx_side hside]; exact hlen k)
  rw [teardownComplete_eq hst hacked]
  refine ⟨by rw [hgrants.same, ctx_side hside, hleft], fun lc hlc => ?_⟩
  rw [hgrants.seqs lc hlc, seqs_side hside, hleftSeqs, hfreedSeqs, hseqs]
  exact tearEmptied_seqs s hlc

/-- A bound on the cores that the contexts of the table wait for holds of every context. -/
theorem ctx_want_le {s : State} (h : ∀ q ∈ s.ctxs, q.2.want.length ≤ 48) (k : Nat) : (ctx s k).want.length ≤ 48 := by
  cases hk : tget s.ctxs k with
  | none => simp [ctx, tgetD, hk]
  | some c =>
    rw [ctx, tgetD, hk]
    exact h _ (mem_of_tget hk)

end Sys2Proof.Machine
end

section
/-!
PROOF. Faults of a context, and the watchdogs of its teardown and of its progress (R335, R491, R497, R498).
-/
namespace Sys2Proof.Machine

/-! ### CONTEXT_FAULT (R335, R491) -/

/-- A fault of one context changes no other. -/
theorem raiseFault_ctx_ne (s : State) {n k : Nat} (code page desc detail orig flags : Nat) (hrst : inReset s n = false)
    (hk : k ≠ n) : ctx (raiseFault s (.ctx n) code page desc detail orig flags) k = ctx s k := by
  cases hlive : (ctx s n).st.live with
  | false => exact ctx_side (raiseFault_ctxSide s code page desc detail orig flags (Or.inl hlive)) k
  | true =>
    obtain ⟨u, hu, -, hfault⟩ := raiseFault_live s code page desc detail orig flags hlive hrst
    rw [hfault, startTeardown, ctx_updCtx_ne _ _ hk.symm, ctx_side hu]

/-- The teardown that a fault starts is none of a kill, and counts from the fault. -/
theorem raiseFault_started (s : State) {n : Nat} (code page desc detail orig flags : Nat) (hlive : (ctx s n).st.live = true)
    (hrst : inReset s n = false) :
    (ctx (raiseFault s (.ctx n) code page desc detail orig flags) n).killed = false ∧
      (ctx (raiseFault s (.ctx n) code page desc detail orig flags) n).tearAt = now s := by
  obtain ⟨u, -, hnow, hfault⟩ := raiseFault_live s code page desc detail orig flags hlive hrst
  rw [hfault, startTeardown, ctx_updCtx]
  exact ⟨rfl, hnow⟩

theorem execContextFault_raises (s : State) {n code page : Nat} (desc detail : Nat) (h1 : 1 ≤ n) (hn : n ≤ 4095)
    (h2 : 1 ≤ code) (hc : code ≤ 0x17) (h17 : code ≠ 0x11) (hres : pageReserved page = false) (hp : page < 0x200) :
    execContextFault n code page desc detail s = .next (raiseFault s (.ctx n) code page desc detail 0 0) := by
  simp [execContextFault, inR, h1, hn, h2, hc, h17, hres, hp]

/-! ### TEARDOWN_WATCHDOG (R497) -/

/-- The partitions of a list of cores, as the mask of a partition reset. -/
def coreParts (l : List Nat) : Nat := (List.range 4).foldl (fun m q => m + 2 ^ q * b2n (l.any (fun k => k / 12 == q))) 0

/-- The mask made of a predicate has the bit of each number that satisfies it. -/
theorem maskOf_testBit (p : Nat → Bool) {q : Nat} (hq : q < 4) (hp : p q = true) :
    ((List.range 4).foldl (fun m q => m + 2 ^ q * b2n (p q)) 0).testBit q = true := by
  have hbits : ∀ b0 b1 b2 b3 : Bool, ∀ m, m = 0 + 2 ^ 0 * b2n b0 + 2 ^ 1 * b2n b1 + 2 ^ 2 * b2n b2 + 2 ^ 3 * b2n b3 →
      m.testBit 0 = b0 ∧ m.testBit 1 = b1 ∧ m.testBit 2 = b2 ∧ m.testBit 3 = b3 := by
    intro b0 b1 b2 b3 m hm
    subst hm
    revert b0 b1 b2 b3
    decide
  obtain ⟨h0, h1, h2, h3⟩ := hbits (p 0) (p 1) (p 2) (p 3) _ rfl
  match q, hq, hp with
  | 0, _, hp => exact h0.trans hp
  | 1, _, hp => exact h1.trans hp
  | 2, _, hp => exact h2.trans hp
  | 3, _, hp => exact h3.trans hp

theorem coreParts_testBit {l : List Nat} {c : Nat} (hc : c ∈ l) (hlt : c < 48) : (coreParts l).testBit (c / 12) = true :=
  maskOf_testBit (fun q => l.any (fun k => k / 12 == q)) (by omega) (List.any_eq_true.mpr ⟨c, hc, beq_self_eq_true _⟩)

/-- A partition reset that nothing holds back is done. -/
theorem partDecide_free {s : State} (parts cause : Nat) (hoos : s.toc.oos = false) (hlow : lowEvent s = false)
    (hfew : ∀ q, q < 4 → (recentTimes s (tgetD s.toc.hist3 q []) (60 * Config.tSec)).length < 2) :
    partDecide s parts cause = partitionDo s parts cause := by
  have hany : ((List.range 4).any fun q => parts.testBit q &&
      decide (2 ≤ (recentTimes s (tgetD s.toc.hist3 q []) (60 * Config.tSec)).length)) = false := by
    simp only [List.any_eq_false, List.mem_range, Bool.and_eq_true, decide_eq_true_eq, not_and, Nat.not_le]
    exact fun q hq _ => hfew q hq
  simp only [partDecide, hoos, hlow, hany, Bool.false_eq_true, if_false]

theorem teardownWatchdog_early {s : State} {n : Nat} (pages : List Nat) (ok : Bool)
    (h : now s < (ctx s n).tearAt + 50 * Config.tUs) : teardownWatchdog s n pages ok = s :=
  if_pos (by simp [h])

/-- The cores of a context that have not answered its teardown. -/
def coresLeft (s : State) (n : Nat) : List Nat := (ctx s n).cores.filter (fun k => !(ctx s n).acked.contains k)

/-- With no engine named, the watchdog resets the partitions of the cores left. -/
theorem teardownWatchdog_late {s : State} {n c : Nat} (ok : Bool) (hst : (ctx s n).st = .teardown) (hleft : c ∈ coresLeft s n)
    (h : (ctx s n).tearAt + 50 * Config.tUs ≤ now s) :
    teardownWatchdog s n [] ok = partDecide s (coreParts (coresLeft s n)) 1 := by
  have hsome : (coresLeft s n).isEmpty = false := by
    rw [List.isEmpty_eq_false_iff]
    exact List.ne_nil_of_mem hleft
  have hgo : ((ctx s n).st != .teardown || decide (now s < (ctx s n).tearAt + 50 * Config.tUs) || (coresLeft s n).isEmpty) =
      false := by
    rw [hst, hsome, decide_eq_false (Nat.not_lt.mpr h)]
    rfl
  refine (if_neg ?_).trans (if_pos rfl)
  rw [← Bool.not_eq_true] at hgo
  exact hgo

/-! ### CONTEXT_PROGRESS_WATCHDOG (R498) -/

theorem progressWatchdog_early {s : State} {n : Nat} (h : now s < (ctx s n).progress + wdogTicks s n) :
    progressWatchdog s n = s := if_pos (by simp [h])

/-- At the budget a running context that is not paused on every core faults with the watchdog's code. -/
theorem progressWatchdog_late {s : State} {n k : Nat} (hst : (ctx s n).st = .running) (hk : k ∈ (ctx s n).cores)
    (hpaused : corePaused s n k = false) (h : (ctx s n).progress + wdogTicks s n ≤ now s) :
    progressWatchdog s n = ctxFault s n 0x09 0x1A0 0 := by
  have hall : ((ctx s n).cores.all fun k => corePaused s n k) = false := by
    rw [List.all_eq_false]
    exact ⟨k, hk, by rw [hpaused]; decide⟩
  simp [progressWatchdog, hst, Nat.not_lt.mpr h, hall]

/-! ### The obligation -/

/-- Settles O40: the fault by its cases (the context live, or torn down already), the teardown by what its completion and the grants
after it keep of the context, the watchdogs by their times. -/
theorem contextsFault : Obligations.ContextsFault := by
  unfold Obligations.ContextsFault
  refine ⟨?_, ?_, ?_, ?_⟩
  · intro s n code page desc detail h1 hn h2 hc h17 hres hp hrst
    refine ⟨_, execContextFault_raises s desc detail h1 hn h2 hc h17 hres hp, by simp,
      fun k hk => raiseFault_ctx_ne s code page desc detail 0 0 hrst hk, fun hlive => ?_, fun htear => ?_⟩
    · exact ⟨raiseFault_faulted s n code page desc detail 0 0 hlive hrst, raiseFault_started s code page desc detail 0 0 hlive hrst⟩
    · exact ctx_side (raiseFault_ctxSide s code page desc detail 0 0 (Or.inl (by rw [htear]; rfl))) n
  · intro s n hst hacked hwant
    obtain ⟨hself, hseqs⟩ := teardownComplete_facts hst hacked (ctx_want_le hwant)
    obtain ⟨-, -, hepoch, hcpl⟩ := tearCompleted_facts hst
    obtain ⟨hfreed, -, -⟩ := tearFreed_facts s n
    refine ⟨_, rfl, ?_⟩
    simp only [hself]
    refine ⟨rfl, rfl, ?_, ?_, ?_, ?_, ?_, hseqs⟩
    · exact congrArg (fun e => (e + 1) % 256) hepoch
    · rintro ⟨hkilled, hauto⟩
      simp [tearState, tearResumes, hkilled, hauto]
    · intro hresume
      have hgo : tearResumes s n = true := by simpa [tearResumes] using hresume
      rw [tearState, if_pos hgo, hfreed]
    · intro hcur hkilled
      simpa [hkilled, ctxFreed, epochUp] using hcpl hcur
    · intro hcur hkilled
      simpa [hkilled, ctxFreed, epochUp] using hcpl hcur
  · intro s n c ok hst hc hacked hlt hoos hlow hfew
    have hleft : c ∈ coresLeft s n := List.mem_filter.mpr ⟨hc, by simpa using hacked⟩
    refine ⟨fun h => congrArg Host.Outcome.next (teardownWatchdog_early [] ok h), fun h => ⟨_, rfl, ?_⟩⟩
    obtain ⟨hlife, hzero⟩ := partitionDo_facts s (coreParts (coresLeft s n)) 1
    rw [teardownWatchdog_late ok hst hleft h, partDecide_free _ 1 hoos hlow hfew, hlife]
    exact ⟨fun o ho => hzero c o hlt ho (coreParts_testBit hleft hlt), rfl⟩
  · intro s n k hst hk hpaused hrst
    refine ⟨fun h => congrArg Host.Outcome.next (progressWatchdog_early h), fun h => ⟨_, rfl, ?_⟩⟩
    rw [progressWatchdog_late hst hk hpaused h]
    exact ⟨raiseFault_faulted s n 9 0x1A0 0 0 0 0 (by rw [hst]; rfl) hrst, by simp⟩

end Sys2Proof.Machine
end
